-- ==== Sys2Proof/Word.lean ====
section
/-! DEFINITION. The word types of the KX-4 and the plain records that instruction constructors carry:
the field groups of a C-word and of an Odnar word, the requesters, and the packets and flits of the fabric. -/

namespace Sys2Proof

/-- A 64-bit scalar, address or k-register value (R9). -/
abbrev Word := BitVec 64

/-- A 32-bit lane value, exec mask or A-word (R9). -/
abbrev Half := BitVec 32

/-- One byte of memory. -/
abbrev Byte := BitVec 8

/-- The fields of a C-word other than its opcode, as R260 lays them out. -/
structure CFields where
  stall : BitVec 4
  reuse : BitVec 3
  msel  : BitVec 2
  mreg  : BitVec 5
  d     : BitVec 8
  dk    : BitVec 2
  a     : BitVec 8
  ak    : BitVec 2
  b     : BitVec 8
  bk    : BitVec 2
  c     : BitVec 8
  ck    : BitVec 2
  ty    : BitVec 4
  rnd   : BitVec 2
  mod   : BitVec 4
  imm   : BitVec 24
  deriving DecidableEq, Repr

/-- The fields of an Odnar word other than its opcode (R267). -/
structure OFields where
  d   : BitVec 4
  a   : BitVec 4
  b   : BitVec 4
  f   : BitVec 4
  imm : BitVec 40
  deriving DecidableEq, Repr

/-- Who writes a register or submits a command: the upstream host, a hart of the host complex, or Imqua
(R165, R174, R191). -/
inductive Requester where
  | host
  | hc
  | imqua
  deriving DecidableEq, Repr

/-- The kinds of access translated by R130. -/
inductive Access where
  | read
  | write
  | atomic
  | fetch
  deriving DecidableEq, Repr

/-- One lane of a remote atomic line request (R197). -/
structure LaneReq where
  lane    : Nat
  offset  : Nat
  operand : Word
  compare : Word
  deriving DecidableEq, Repr

/-- One line request of a remote packet (R197): for a read `mask` is the 16-bit word mask, for a store the
128-bit byte mask with the masked bytes in `bytes`, for an atomic the operation and its lanes. -/
structure LineReq where
  line  : Nat
  mask  : BitVec 128
  bytes : List (BitVec 8)
  aop   : BitVec 4
  at64  : Bool
  rv    : Bool
  scope : BitVec 3
  lanes : List LaneReq
  deriving DecidableEq, Repr

/-- A remote packet (R197): the operation code 1 to 7, the packages, the tag of its first line request, the
line requests, and for responses a status per request and the words returned. -/
structure Packet where
  op     : Nat
  src    : Nat
  dst    : Nat
  tag    : Nat
  reqs   : List LineReq
  status : List Nat
  words  : List Word
  deriving DecidableEq, Repr

/-- A flit on a link (R187, R188): as its sender made it, and the streams that reach the receiver on the sixteen lanes. -/
structure WireFlit where
  sent    : BitVec 2048
  streams : List (List (BitVec 64))
  deriving DecidableEq, Repr

/-- The form of a Damask message (R386). -/
inductive DForm where
  | wire
  | fp32
  | raw
  | scale
  deriving DecidableEq, Repr

/-- A Damask message (R386): its key, origin rank, window index, form and contents. `fp32` contents hold one
32-bit element each (absent for an empty element), the other forms one byte each in the low bits; a scale
message holds the magnitude or scale and the non-finite mark in its first two items. -/
structure DMsg where
  comm   : BitVec 32
  seq    : Nat
  source : Nat
  dest   : Nat
  chunk  : Nat
  tag    : BitVec 16
  origin : Nat
  window : Nat
  form   : DForm
  items  : List (Option (BitVec 32))
  deriving DecidableEq, Repr

/-- A Damask failure notice (R394). -/
structure DNotice where
  comm   : BitVec 32
  seq    : Nat
  dest   : Nat
  member : Nat
  deriving DecidableEq, Repr

end Sys2Proof
end

