-- ==== Sys2Proof/Machine/Store.lean ====
section
/-! DEFINITION. Sparse tables in one canonical form (keys strictly rising, and for a table with a default no
entry that equals it), which hold the register files, the memories and the record tables of the state. -/

namespace Sys2Proof.Machine

/-- A sparse table: entries sorted by strictly rising key. -/
abbrev SMap (α : Type) := List (Nat × α)

/-- The entry at a key. -/
def SMap.find? {α : Type} : SMap α → Nat → Option α
  | [], _ => none
  | e :: m, k => if k = e.1 then some e.2 else SMap.find? m k

/-- Insert or replace the entry at a key. -/
def SMap.put {α : Type} : SMap α → Nat → α → SMap α
  | [], k, x => [(k, x)]
  | e :: m, k, x =>
    if k < e.1 then (k, x) :: e :: m
    else if k = e.1 then (k, x) :: m
    else e :: SMap.put m k x

/-- Remove the entry at a key. -/
def SMap.erase {α : Type} : SMap α → Nat → SMap α
  | [], _ => []
  | e :: m, k => if k = e.1 then SMap.erase m k else e :: SMap.erase m k

/-- The value at a key of a table whose unlisted keys hold `dflt`. -/
def SMap.get {α : Type} (m : SMap α) (dflt : α) (k : Nat) : α := (SMap.find? m k).getD dflt

/-- Write a value into a table whose unlisted keys hold `dflt`, keeping the canonical form. -/
def SMap.set {α : Type} [DecidableEq α] (m : SMap α) (dflt : α) (k : Nat) (x : α) : SMap α :=
  if x = dflt then SMap.erase m k else SMap.put m k x

/-- Change the entry at a key, if there is one. -/
def SMap.modify {α : Type} (m : SMap α) (k : Nat) (f : α → α) : SMap α :=
  match SMap.find? m k with
  | some x => SMap.put m k (f x)
  | none => m

/-- Keys strictly rising. -/
def SMap.sorted {α : Type} : SMap α → Bool
  | [] => true
  | [_] => true
  | e :: e' :: m => decide (e.1 < e'.1) && SMap.sorted (e' :: m)

/-- The canonical form of a table with default `dflt`: sorted, and no entry holds the default. -/
def SMap.wf {α : Type} [DecidableEq α] (m : SMap α) (dflt : α) : Bool :=
  SMap.sorted m && m.all fun e => !decide (e.2 = dflt)

/-- The canonical form of memory: addresses strictly rising, and no listed byte is the zero that an unlisted address reads as
(log 5). -/
def Memory.wf (m : List Host.Cell) : Bool := SMap.wf m 0

/-- The lowest key from `start` on, below `start + fuel`, that a table does not hold. -/
def SMap.lowestFree {α : Type} (m : SMap α) (start : Nat) : Nat → Option Nat
  | 0 => none
  | fuel + 1 =>
    match SMap.find? m start with
    | none => some start
    | some _ => SMap.lowestFree m (start + 1) fuel

end Sys2Proof.Machine
end

