-- ==== Sys2Proof/Config.lean ====
section
/-! DEFINITION. What is fixed for the machine: what flash and the factory put into it, what it draws for itself, and the free
values. Every function here is opaque: no proof can lean on a value of it. -/

namespace Sys2Proof.Config

open Sys2Proof

/-- A fresh undefined byte (contents of a team's barrier slots at first placement, R417; destination bytes after
an aborted migration, R156), for each value of the state's counter. Log 3. -/
opaque freeByte : Nat → BitVec 8

/-- A fresh undefined 64-bit value, for each value of the state's counter. Log 3. -/
opaque freeWord : Nat → BitVec 64

/-- SHA-512 of the firmware image booted (R412): by the image copy, 0 the first and 1 the second. Log 10. -/
opaque firmwareDigest : Nat → BitVec 512

/-- The X25519 private key that Imqua draws for a session (R412), by the session's serial. Log 10. -/
opaque ephemeralSecret : Nat → BitVec 256

/-- The package's Ed25519 identity private key (R412). Log 10. -/
opaque identitySeed : BitVec 256

/-- The supply voltage in mV that a re-plan gives a core (R409), by the table's version and the core. Log 3. -/
opaque plannedVolt : Nat → Nat → Nat

/-- The supply voltage in mV that the factory table gives a core (R406 step 9). Log 3. -/
opaque factoryVolt : Nat → Nat

/-- A core meets its margin under a table version (R409). Log 3. -/
opaque meetsMargin : Nat → Nat → Bool

/-- The hash that chooses a port from a destination line (R193) or from a communicator and peer (R392). Log 11. -/
opaque portHash : Nat → Nat

/-- How many payload flits of a class, beyond one, an end of a link can hold for its die (R187). Log 39. -/
opaque linkCredits : Nat → Nat

/-- The boot steps that pass at a RESET, the fallbacks that pass, and the cores that fail their self-test (R406): bit i of an
outcome is step i + 1's. Log 36. -/
opaque stepsPass : Nat → BitVec 10

opaque fallbacksPass : Nat → BitVec 10

opaque coresFailing : Nat → List Nat

end Sys2Proof.Config
end

