-- ==== Sys2Proof/Syntax.lean ====
section
/-! DEFINITION. The instructions and steps of the KX-4: one constructor for each row of the opcode table, in the
table's order. A-stream instructions carry the fields of R254 and R255; C-stream instructions carry the fields of
R260; Odnar instructions carry the fields of R267; the remaining rows are commands, register writes and events,
which carry who or what they concern. -/

namespace Sys2Proof

/-- One constructor per row of the opcode table. -/
inductive Instr where
  /-- ADD (R274). -/
  | add (d a b : BitVec 6) (w : Bool)
  /-- SUB (R274). -/
  | sub (d a b : BitVec 6) (w : Bool)
  /-- MUL (R274). -/
  | mul (d a b : BitVec 6) (w : Bool)
  /-- MULH (R274). -/
  | mulh (d a b : BitVec 6) (w : Bool)
  /-- MULHN (R274). -/
  | mulhn (d a b : BitVec 6) (w : Bool)
  /-- DIV (R274). -/
  | div (d a b : BitVec 6) (w : Bool)
  /-- DIVN (R274). -/
  | divn (d a b : BitVec 6) (w : Bool)
  /-- REM (R274). -/
  | rem (d a b : BitVec 6) (w : Bool)
  /-- REMN (R274). -/
  | remn (d a b : BitVec 6) (w : Bool)
  /-- AND (R274). -/
  | and_ (d a b : BitVec 6) (w : Bool)
  /-- OR (R274). -/
  | or_ (d a b : BitVec 6) (w : Bool)
  /-- XOR (R274). -/
  | xor (d a b : BitVec 6) (w : Bool)
  /-- ANDN (R274). -/
  | andn (d a b : BitVec 6) (w : Bool)
  /-- SHL (R274). -/
  | shl (d a b : BitVec 6) (w : Bool)
  /-- SHR (R274). -/
  | shr (d a b : BitVec 6) (w : Bool)
  /-- SAR (R274). -/
  | sar (d a b : BitVec 6) (w : Bool)
  /-- ROL (R274). -/
  | rol (d a b : BitVec 6) (w : Bool)
  /-- MIN (R274). -/
  | min (d a b : BitVec 6) (w : Bool)
  /-- MAX (R274). -/
  | max (d a b : BitVec 6) (w : Bool)
  /-- MINN (R274). -/
  | minn (d a b : BitVec 6) (w : Bool)
  /-- MAXN (R274). -/
  | maxn (d a b : BitVec 6) (w : Bool)
  /-- SLT (R274). -/
  | slt (d a b : BitVec 6) (w : Bool)
  /-- SLTN (R274). -/
  | sltn (d a b : BitVec 6) (w : Bool)
  /-- SEQ (R274). -/
  | seq (d a b : BitVec 6) (w : Bool)
  /-- POPC (R274). -/
  | popc (d a : BitVec 6) (w : Bool)
  /-- CLZ (R274). -/
  | clz (d a : BitVec 6) (w : Bool)
  /-- CTZ (R274). -/
  | ctz (d a : BitVec 6) (w : Bool)
  /-- BREV (R274). -/
  | brev (d a : BitVec 6) (w : Bool)
  /-- ADDI (R275). -/
  | addi (d a : BitVec 6) (imm : BitVec 14)
  /-- ANDI (R275). -/
  | andi (d a : BitVec 6) (imm : BitVec 14)
  /-- ORI (R275). -/
  | ori (d a : BitVec 6) (imm : BitVec 14)
  /-- XORI (R275). -/
  | xori (d a : BitVec 6) (imm : BitVec 14)
  /-- SHLI (R275). -/
  | shli (d a : BitVec 6) (amt : BitVec 6)
  /-- SHRI (R275). -/
  | shri (d a : BitVec 6) (amt : BitVec 6)
  /-- SARI (R275). -/
  | sari (d a : BitVec 6) (amt : BitVec 6)
  /-- SLTI (R275). -/
  | slti (d a : BitVec 6) (imm : BitVec 14)
  /-- SEQI (R275). -/
  | seqi (d a : BitVec 6) (imm : BitVec 14)
  /-- LUI (R276). -/
  | lui (d : BitVec 6) (imm : BitVec 20)
  /-- AUIPC (R276). -/
  | auipc (d : BitVec 6) (imm : BitVec 20)
  /-- EMSET (R277). -/
  | emset (a : BitVec 6)
  /-- EMGET (R277). -/
  | emget (d : BitVec 6)
  /-- EMAND (R277). -/
  | emand (a : BitVec 6)
  /-- EMANDN (R277). -/
  | emandn (a : BitVec 6)
  /-- EMOR (R277). -/
  | emor (a : BitVec 6)
  /-- VAADD (R278). -/
  | vaadd (d a b : BitVec 5)
  /-- VAADDS (R278). -/
  | vaadds (d a : BitVec 5) (b : BitVec 6)
  /-- VASUB (R278). -/
  | vasub (d a b : BitVec 5)
  /-- VAMULS (R278). -/
  | vamuls (d a : BitVec 5) (b : BitVec 6)
  /-- VAMADS (R278). -/
  | vamads (d a : BitVec 5) (b : BitVec 6)
  /-- VASHLS (R278). -/
  | vashls (d a : BitVec 5) (b : BitVec 6)
  /-- VASHRS (R278). -/
  | vashrs (d a : BitVec 5) (b : BitVec 6)
  /-- VAANDS (R278). -/
  | vaands (d a : BitVec 5) (b : BitVec 6)
  /-- VAIOTA (R278). -/
  | vaiota (d : BitVec 5) (a b : BitVec 6)
  /-- VAMOVS (R278). -/
  | vamovs (d : BitVec 5) (a : BitVec 6)
  /-- VAEXT (R278). -/
  | vaext (d : BitVec 6) (a : BitVec 5) (b : BitVec 6)
  /-- VAINS (R278). -/
  | vains (d : BitVec 5) (a b : BitVec 6)
  /-- VALTM (R278). -/
  | valtm (d : BitVec 6) (a b : BitVec 5)
  /-- VAEQM (R278). -/
  | vaeqm (d : BitVec 6) (a b : BitVec 5)
  /-- J (R279). -/
  | j (off : BitVec 26)
  /-- CALL (R279). -/
  | call (off : BitVec 26)
  /-- JR (R279). -/
  | jr (a : BitVec 6)
  /-- CALLR (R279). -/
  | callr (a : BitVec 6)
  /-- BCC (R280). -/
  | bcc (cc : BitVec 4) (a : BitVec 6) (off : BitVec 16)
  /-- BXQ (R282). -/
  | bxq (cc : BitVec 4) (off : BitVec 16)
  /-- BRS (R284). -/
  | brs (policy : BitVec 2) (m : BitVec 6) (off : BitVec 16)
  /-- BRX (R285). -/
  | brx (aa : BitVec 5) (base len : BitVec 6)
  /-- JOIN (R63). -/
  | join
  /-- ENDS (R62). -/
  | ends
  /-- LOOPD (R281). -/
  | loopd (a : BitVec 6) (off : BitVec 16)
  /-- DISP (R287). -/
  | disp (off : BitVec 26)
  /-- KPUT (R288). -/
  | kput (d : BitVec 5) (a : BitVec 6)
  /-- XPOP (R289). -/
  | xpop (d : BitVec 6)
  /-- XPEEK (R289). -/
  | xpeek (d : BitVec 6)
  /-- LD (R292). -/
  | ld (ty : BitVec 4) (asp : BitVec 2) (nt : Bool) (aa : BitVec 5) (sb : BitVec 6) (off : BitVec 8)
  /-- LDA (R294). -/
  | lda (ty : BitVec 4) (asp : BitVec 2) (nt : Bool) (aa : BitVec 5) (sb : BitVec 6) (d : BitVec 5)
  /-- LDS (R295). -/
  | lds (d a : BitVec 6) (imm : BitVec 14)
  /-- LDSW (R295). -/
  | ldsw (d a : BitVec 6) (imm : BitVec 14)
  /-- ST (R296). -/
  | st (ty : BitVec 4) (asp : BitVec 2) (nt : Bool) (aa : BitVec 5) (sb : BitVec 6) (off : BitVec 8)
  /-- STS (R297). -/
  | sts (d a : BitVec 6) (imm : BitVec 14)
  /-- LDF (R293). -/
  | ldf (ty : BitVec 4) (nt : Bool) (aa : BitVec 5) (sb : BitVec 6)
  /-- ATOM (R298). -/
  | atom (aop : BitVec 4) (asp : BitVec 2) (sc : BitVec 3) (aa : BitVec 5) (sb : BitVec 6) (at_ : BitVec 3) (rv : Bool)
  /-- ATOMS (R300). -/
  | atoms (aop : BitVec 4) (sc : BitVec 3) (d a b : BitVec 6)
  /-- PREF (R301). -/
  | pref (ty : BitVec 4) (asp : BitVec 2) (nt : Bool) (aa : BitVec 5) (sb : BitVec 6) (off : BitVec 8)
  /-- CPY (R346). -/
  | cpy (d a : BitVec 6)
  /-- CPYSP (R346). -/
  | cpysp (d a : BitVec 6)
  /-- GATH (R346). -/
  | gath (d a : BitVec 6)
  /-- SCAT (R346). -/
  | scat (d a : BitVec 6)
  /-- SPILLB (R346). -/
  | spillb (d a : BitVec 6)
  /-- FILLA (R346). -/
  | filla (d a : BitVec 6)
  /-- BINIT (R350). -/
  | binit (asp : BitVec 2) (a b : BitVec 6)
  /-- BARRIVE (R350). -/
  | barrive (rel : Bool) (asp : BitVec 2) (d a b : BitVec 6)
  /-- BEXPECT (R350). -/
  | bexpect (asp : BitVec 2) (a b : BitVec 6)
  /-- BWAIT (R350). -/
  | bwait (asp : BitVec 2) (a b : BitVec 6)
  /-- BTEST (R350). -/
  | btest (asp : BitVec 2) (d a b : BitVec 6)
  /-- BSTAT (R350). -/
  | bstat (asp : BitVec 2) (d a b : BitVec 6)
  /-- FENCE (R218). -/
  | fence (kind : BitVec 2) (scope : BitVec 3)
  /-- DRAINNT (R222). -/
  | drainnt
  /-- MON (R226). -/
  | mon (a : BitVec 6)
  /-- MWAIT (R226). -/
  | mwait
  /-- ENQ (R352). -/
  | enq (d a b : BitVec 6)
  /-- DEQ (R353). -/
  | deq (d a : BitVec 6)
  /-- GSTART (R354). -/
  | gstart (d a b : BitVec 6)
  /-- GSIG (R354). -/
  | gsig (d a b : BitVec 6)
  /-- SP (R360). -/
  | sp (idx : BitVec 16)
  /-- YIELD (R361). -/
  | yield
  /-- TRAP (R361). -/
  | trap (a : BitVec 6)
  /-- BRK (R362). -/
  | brk
  /-- CSRR (R363). -/
  | csrr (d n : BitVec 6)
  /-- CSRW (R363). -/
  | csrw (a n : BitVec 6)
  /-- TSTOP (R362). -/
  | tstop
  /-- FRET (R370). -/
  | fret
  /-- FRET_SKIP (R370). -/
  | fretSkip
  /-- FMAP (R366). -/
  | fmap (d : BitVec 6)
  /-- FEMU (R367). -/
  | femu (a b : BitVec 6)
  /-- FSKIP (R367). -/
  | fskip
  /-- FPARK (R368). -/
  | fpark (a b : BitVec 6)
  /-- HCALL (R369). -/
  | hcall (d a b : BitVec 6)
  /-- RDFI (R365). -/
  | rdfi (d a : BitVec 6)
  /-- NOP (R307). -/
  | nop (f : CFields)
  /-- END (R307). -/
  | end_ (f : CFields)
  /-- VADD (R308). -/
  | vadd (f : CFields)
  /-- VSUB (R308). -/
  | vsub (f : CFields)
  /-- VMUL (R308). -/
  | vmul (f : CFields)
  /-- VMULH (R308). -/
  | vmulh (f : CFields)
  /-- VMAD (R308). -/
  | vmad (f : CFields)
  /-- VAND (R308). -/
  | vand (f : CFields)
  /-- VOR (R308). -/
  | vor (f : CFields)
  /-- VXOR (R308). -/
  | vxor (f : CFields)
  /-- VSHL (R308). -/
  | vshl (f : CFields)
  /-- VSHR (R308). -/
  | vshr (f : CFields)
  /-- VSAR (R308). -/
  | vsar (f : CFields)
  /-- VMIN (R308). -/
  | vmin (f : CFields)
  /-- VMAX (R308). -/
  | vmax (f : CFields)
  /-- VABS (R308). -/
  | vabs (f : CFields)
  /-- VCLZ (R308). -/
  | vclz (f : CFields)
  /-- VPOPC (R308). -/
  | vpopc (f : CFields)
  /-- VBREV (R308). -/
  | vbrev (f : CFields)
  /-- VBFE (R309). -/
  | vbfe (f : CFields)
  /-- VBFI (R309). -/
  | vbfi (f : CFields)
  /-- VSEL (R309). -/
  | vsel (f : CFields)
  /-- VICMP (R310). -/
  | vicmp (f : CFields)
  /-- VFADD (R311). -/
  | vfadd (f : CFields)
  /-- VFSUB (R311). -/
  | vfsub (f : CFields)
  /-- VFMUL (R311). -/
  | vfmul (f : CFields)
  /-- VFMA (R311). -/
  | vfma (f : CFields)
  /-- VFMIN (R311). -/
  | vfmin (f : CFields)
  /-- VFMAX (R311). -/
  | vfmax (f : CFields)
  /-- VFRCP (R238). -/
  | vfrcp (f : CFields)
  /-- VFRSQ (R238). -/
  | vfrsq (f : CFields)
  /-- VFSQRT (R238). -/
  | vfsqrt (f : CFields)
  /-- VFEXP2 (R238). -/
  | vfexp2 (f : CFields)
  /-- VFLOG2 (R238). -/
  | vflog2 (f : CFields)
  /-- VFCLASS (R312). -/
  | vfclass (f : CFields)
  /-- VFCMP (R313). -/
  | vfcmp (f : CFields)
  /-- VCVT (R314). -/
  | vcvt (f : CFields)
  /-- VQSWP (R315). -/
  | vqswp (f : CFields)
  /-- VSHFL (R316). -/
  | vshfl (f : CFields)
  /-- VBCAST (R316). -/
  | vbcast (f : CFields)
  /-- VBALLOT (R317). -/
  | vballot (f : CFields)
  /-- VPREFIX (R318). -/
  | vprefix (f : CFields)
  /-- VRED (R319). -/
  | vred (f : CFields)
  /-- VTOPK (R320). -/
  | vtopk (f : CFields)
  /-- VQRED (R319). -/
  | vqred (f : CFields)
  /-- KOP (R321). -/
  | kop (f : CFields)
  /-- KFROMV (R322). -/
  | kfromv (f : CFields)
  /-- VFROMK (R322). -/
  | vfromk (f : CFields)
  /-- VMOV (R323). -/
  | vmov (f : CFields)
  /-- XBOUND (R324). -/
  | xbound (f : CFields)
  /-- XSET (R324). -/
  | xset (f : CFields)
  /-- EMNARROW (R327). -/
  | emnarrow (f : CFields)
  /-- EMRESTORE (R327). -/
  | emrestore (f : CFields)
  /-- NIF (R328). -/
  | nif (f : CFields)
  /-- NELSE (R328). -/
  | nelse (f : CFields)
  /-- NEND (R328). -/
  | nend (f : CFields)
  /-- NBREAK (R328). -/
  | nbreak (f : CFields)
  /-- VPACK (R329). -/
  | vpack (f : CFields)
  /-- VUNPK (R330). -/
  | vunpk (f : CFields)
  /-- VSCALE (R331). -/
  | vscale (f : CFields)
  /-- REGION (R332). -/
  | region (f : CFields)
  /-- MMA (R338). -/
  | mma (f : CFields)
  /-- MZERO (R339). -/
  | mzero (f : CFields)
  /-- MLOAD (R339). -/
  | mload (f : CFields)
  /-- MSTORE (R339). -/
  | mstore (f : CFields)
  /-- MDRAIN (R343). -/
  | mdrain (f : CFields)
  /-- MDRAIN_WINDOW (R344). -/
  | mdrainWindow (f : CFields)
  /-- MBF (R340). -/
  | mbf (f : CFields)
  /-- MBW (R340). -/
  | mbw (f : CFields)
  /-- MBIND (R341). -/
  | mbind (f : CFields)
  /-- ODNAR_NOP (R384). -/
  | odnarNop (o : OFields)
  /-- SETG (R384). -/
  | setg (o : OFields)
  /-- ADDG (R384). -/
  | addg (o : OFields)
  /-- PEER (R385). -/
  | peer (o : OFields)
  /-- CHUNK (R384). -/
  | chunk (o : OFields)
  /-- SEND_ACC (R386). -/
  | sendAcc (o : OFields)
  /-- SEND_OWN (R386). -/
  | sendOwn (o : OFields)
  /-- SEND_MEM (R386). -/
  | sendMem (o : OFields)
  /-- RECV_ACC (R386). -/
  | recvAcc (o : OFields)
  /-- RECV_DEST (R386). -/
  | recvDest (o : OFields)
  /-- RRS (R386). -/
  | rrs (o : OFields)
  /-- COPY_OWN (R386). -/
  | copyOwn (o : OFields)
  /-- COPY_DEST (R386). -/
  | copyDest (o : OFields)
  /-- COPY_LOAD (R386). -/
  | copyLoad (o : OFields)
  /-- COPY_STORE (R386). -/
  | copyStore (o : OFields)
  /-- MATCH (R386). -/
  | match_ (o : OFields)
  /-- COMBINE (R386). -/
  | combine (o : OFields)
  /-- FORWARD (R386). -/
  | forward (o : OFields)
  /-- SCALEX (R387). -/
  | scalex (o : OFields)
  /-- WAIT_WIN (R388). -/
  | waitWin (o : OFields)
  /-- WAIT_SIG (R388). -/
  | waitSig (o : OFields)
  /-- WAIT_TIME (R388). -/
  | waitTime (o : OFields)
  /-- WAIT_BAR (R388). -/
  | waitBar (o : OFields)
  /-- SIGNAL (R388). -/
  | signal (o : OFields)
  /-- SIGNAL_SUB (R388). -/
  | signalSub (o : OFields)
  /-- BSET (R388). -/
  | bset (o : OFields)
  /-- LOOP (R384). -/
  | loop (o : OFields)
  /-- ENDL (R384). -/
  | endl (o : OFields)
  /-- BRG (R384). -/
  | brg (o : OFields)
  /-- TSTART (R391). -/
  | tstart (o : OFields)
  /-- YIELDC (R384). -/
  | yieldc (o : OFields)
  /-- ACKW (R388). -/
  | ackw (o : OFields)
  /-- ODNAR_END (R384). -/
  | odnarEnd (o : OFields)
  /-- PING (R166). -/
  | ping (who : Requester)
  /-- RESET (R169). -/
  | reset (who : Requester)
  /-- PART_SET (R163). -/
  | partSet (who : Requester)
  /-- CTX_CREATE (R170). -/
  | ctxCreate (who : Requester)
  /-- CTX_DESTROY (R172). -/
  | ctxDestroy (who : Requester)
  /-- KEY_SET (R171). -/
  | keySet (who : Requester)
  /-- PLAN_LOAD (R375). -/
  | planLoad (who : Requester)
  /-- PLAN_UNLOAD (R376). -/
  | planUnload (who : Requester)
  /-- ATTEST (R412). -/
  | attest (who : Requester)
  /-- MARGIN_REPORT (R411). -/
  | marginReport (who : Requester)
  /-- QUERY (R168). -/
  | query (who : Requester)
  /-- MAILBOX_UNKNOWN_COMMAND (R166). -/
  | mailboxUnknownCommand (who : Requester)
  /-- MAILBOX_GO_LOST (R165). -/
  | mailboxGoLost (who : Requester)
  /-- CCTL_SAVE (R175). -/
  | cctlSave (who : Requester) (ctx : Nat)
  /-- CCTL_RESTORE (R181). -/
  | cctlRestore (who : Requester) (ctx : Nat)
  /-- CCTL_KILL (R174). -/
  | cctlKill (who : Requester) (ctx : Nat)
  /-- CCTL_RESUME (R70). -/
  | cctlResume (who : Requester) (ctx : Nat)
  /-- QCTL_BIND (R74). -/
  | qctlBind (who : Requester) (q : Nat) (v : Word)
  /-- QCTL_RELEASE (R74). -/
  | qctlRelease (who : Requester) (q : Nat) (v : Word)
  /-- QCTL_ENABLE (R81). -/
  | qctlEnable (who : Requester) (q : Nat) (v : Word)
  /-- QCTL_DISABLE (R81). -/
  | qctlDisable (who : Requester) (q : Nat) (v : Word)
  /-- QCTL_PRIO_WRITE (R85). -/
  | qctlPrioWrite (who : Requester) (q : Nat) (v : Word)
  /-- QCTL_PULL_WRITE (R85). -/
  | qctlPullWrite (who : Requester) (q : Nat) (v : Word)
  /-- QSTAT_CLR (R84). -/
  | qstatClr (who : Requester) (q : Nat) (v : Word)
  /-- QSTAT_FLAG_CLEAR (R84). -/
  | qstatFlagClear (who : Requester) (q : Nat) (v : Word)
  /-- MCTL_CLAIM (R155). -/
  | mctlClaim (who : Requester) (m : Nat) (v : Word)
  /-- MCTL_FREE (R155). -/
  | mctlFree (who : Requester) (m : Nat) (v : Word)
  /-- MCTL_GO (R156). -/
  | mctlGo (who : Requester) (m : Nat) (v : Word)
  /-- MCTL_REL (R156). -/
  | mctlRel (who : Requester) (m : Nat) (v : Word)
  /-- MCTL_ABORT (R156). -/
  | mctlAbort (who : Requester) (m : Nat) (v : Word)
  /-- LCTL_RETRAIN (R191). -/
  | lctlRetrain (who : Requester) (l : Nat) (v : Word)
  /-- REGISTER_WRITE (R8). -/
  | registerWrite (who : Requester) (pa : Nat) (v : Word)
  /-- COLD_POWER_UP (R406). -/
  | coldPowerUp (ok fallbackOk : BitVec 10) (failed : List Nat)
  /-- HOST_HOT_RESET (R184). -/
  | hostHotReset
  /-- HOST_CXL_MEM_ACCESS (R211). -/
  | hostCxlMemAccess (write : Bool) (pa : Nat) (bytes : List (BitVec 8))
  /-- ENQUEUE_ARRIVAL (R76). -/
  | enqueueArrival (who : Requester) (pa : Nat) (bytes : List (BitVec 8))
  /-- QUEUE_HEAD_ELIGIBLE (R83). -/
  | queueHeadEligible (q : Nat)
  /-- QUEUE_PRIORITY_AGE (R82). -/
  | queuePriorityAge (q : Nat)
  /-- QUEUE_HANDOVER (R82). -/
  | queueHandover
  /-- COPY_RECORD_COMPLETE (R415). -/
  | copyRecordComplete (n : Nat)
  /-- KERNEL_TAKE (R109). -/
  | kernelTake (k : Nat)
  /-- TEAM_PLACE (R120). -/
  | teamPlace (k : Nat)
  /-- PREEMPTION_TIMEOUT (R122). -/
  | preemptionTimeout (k die : Nat)
  /-- ACTIVE_SWAP (R48). -/
  | activeSwap (core : Nat)
  /-- ACTIVE_SET_FILL (R48). -/
  | activeSetFill (core : Nat)
  /-- PENDING_PROMOTION (R49). -/
  | pendingPromotion (core : Nat)
  /-- GROUP_WAKE (R52). -/
  | groupWake (g : Nat)
  /-- PARKED_WAKE (R368). -/
  | parkedWake (g : Nat)
  /-- CUT_COMPLETE (R36). -/
  | cutComplete (g : Nat)
  /-- CONTEXT_SAVE_COMPLETE (R176). -/
  | contextSaveComplete (ctx : Nat)
  /-- SPAWN_RECORD_ARRIVAL (R57). -/
  | spawnRecordArrival (die : Nat)
  /-- FORMING_TIMEOUT (R58). -/
  | formingTimeout (die e : Nat)
  /-- FORMING_JOIN_STALL_LAUNCH (R58). -/
  | formingJoinStallLaunch (die e : Nat)
  /-- FORMED_GROUP_PLACE (R59). -/
  | formedGroupPlace (die e : Nat)
  /-- SPAWNED_GROUP_EVICT (R61). -/
  | spawnedGroupEvict (die e : Nat)
  /-- EVICTED_GROUP_RESTORE (R61). -/
  | evictedGroupRestore (g : Nat)
  /-- STOP_RECORD_WRITE (R69). -/
  | stopRecordWrite (g : Nat)
  /-- WATCHDOG_FIRST_EXPIRY (R44). -/
  | watchdogFirstExpiry (k : Nat)
  /-- WATCHDOG_SECOND_EXPIRY (R44). -/
  | watchdogSecondExpiry (k : Nat)
  /-- KERNEL_RETIRE (R118). -/
  | kernelRetire (k : Nat)
  /-- GRAPH_START (R125). -/
  | graphStart (n : Nat)
  /-- GRAPH_NODE_COMPLETE (R125). -/
  | graphNodeComplete (n node : Nat)
  /-- LOAD_DATA_ARRIVAL (R198). -/
  | loadDataArrival (g n : Nat) (lanes : BitVec 32)
  /-- MUSLIN_ENTRY_MOVE (R87). -/
  | muslinEntryMove (g : Nat)
  /-- STORE_PAIR_SEND (R28). -/
  | storePairSend (g : Nat)
  /-- PAGE_WALK_COMPLETE (R131). -/
  | pageWalkComplete (die ctx : Nat) (va : Word) (kind : Access)
  /-- PAGE_REQUEST_RESPONSE (R146). -/
  | pageRequestResponse (req : Nat) (refused : Bool)
  /-- HCALL_RESPONSE (R369). -/
  | hcallResponse (req : Nat) (refused : Bool)
  /-- PROXY_FENCE_INTERRUPT (R144). -/
  | proxyFenceInterrupt (part : Nat) (who : Requester)
  /-- REMOTE_FENCE_DONE (R145). -/
  | remoteFenceDone (part : Nat) (who : Requester)
  /-- MIGRATION_COPY_COMPLETE (R156). -/
  | migrationCopyComplete (m : Nat) (ok : Bool)
  /-- RANGE_LOCK_REGISTER (R223). -/
  | rangeLockRegister (n : Nat)
  /-- ENGINE_PORTION (R347). -/
  | enginePortion (n p : Nat)
  /-- MATRIX_OP_COMPLETE (R335). -/
  | matrixOpComplete (g n : Nat)
  /-- BATCH_COMPLETE (R341). -/
  | batchComplete (g n : Nat)
  /-- BARRIER_INIT (R96). -/
  | barrierInit (n : Nat)
  /-- BARRIER_ARRIVAL (R96). -/
  | barrierArrival (n : Nat)
  /-- BARRIER_EXPECT (R96). -/
  | barrierExpect (n : Nat)
  /-- BARRIER_ENGINE_COMPLETION (R96). -/
  | barrierEngineCompletion (n : Nat)
  /-- MONITOR_TRIGGER (R226). -/
  | monitorTrigger (g : Nat)
  /-- MONITOR_DROP (R226). -/
  | monitorDrop (g : Nat)
  /-- L1_WRITEBACK_TIMEOUT (R210). -/
  | l1WritebackTimeout (core line : Nat)
  /-- L1_CLEAN_DROP (R210). -/
  | l1CleanDrop (core line : Nat)
  /-- COALESCER_PACKET_SEND (R196). -/
  | coalescerPacketSend (core n : Nat)
  /-- REMOTE_REQUEST_ARRIVAL (R195). -/
  | remoteRequestArrival (n : Nat)
  /-- REMOTE_READ_RESPONSE (R198). -/
  | remoteReadResponse (n : Nat)
  /-- STORE_ACKNOWLEDGEMENT (R200). -/
  | storeAcknowledgement (n : Nat)
  /-- ATOMIC_RESPONSE (R202). -/
  | atomicResponse (n : Nat)
  /-- RETRY_LATER_RESEND (R203). -/
  | retryLaterResend (n : Nat)
  /-- RETRY_LATER_EXPIRY (R203). -/
  | retryLaterExpiry (n : Nat)
  /-- TRANSPORT_TIMEOUT (R203). -/
  | transportTimeout (n : Nat)
  /-- LINK_POWER_UP (R190). -/
  | linkPowerUp (die : Nat)
  /-- LINK_TRAINING_END (R190). -/
  | linkTrainingEnd (l : Nat) (pass : BitVec 16)
  /-- LINK_ERROR_RETRAIN (R190). -/
  | linkErrorRetrain (l : Nat)
  /-- FLIT_RECEIVE (R189). -/
  | flitReceive (l : Nat) (toDie : Bool) (flit : WireFlit)
  /-- WINDOW_STORE_ARRIVAL (R378). -/
  | windowStoreArrival (n : Nat)
  /-- DAMASK_MESSAGE_ARRIVAL (R390). -/
  | damaskMessageArrival (n : Nat)
  /-- CREDIT_RETURN (R390). -/
  | creditReturn (n : Nat)
  /-- FAILURE_NOTICE_ARRIVAL (R394). -/
  | failureNoticeArrival (n : Nat)
  /-- ROUND_LIMIT_EXPIRY (R394). -/
  | roundLimitExpiry (n : Nat)
  /-- DATAPATH_STEP_COMPLETE (R392). -/
  | datapathStepComplete (n : Nat)
  /-- MARGIN_SAMPLE (R409). -/
  | marginSample (drift : List Nat)
  /-- MARGIN_REPLAN (R409). -/
  | marginReplan
  /-- VOLTAGE_STEP (R409). -/
  | voltageStep
  /-- POWER_LIMIT_THROTTLE (R414). -/
  | powerLimitThrottle (above : Bool)
  /-- JUNCTION_THROTTLE (R414). -/
  | junctionThrottle (die : Nat) (hot : Bool)
  /-- THERMAL_SHUTDOWN (R414). -/
  | thermalShutdown
  /-- TRANSPORT_TIMEOUT_RESEND (R192). -/
  | transportTimeoutResend (n : Nat)
  /-- FABRIC_TIME_REACHED (R388). -/
  | fabricTimeReached (n : Nat)
  /-- HOST_PORT_RESET_EXIT (R184). -/
  | hostPortResetExit
  /-- IMQUA_SERVICE_RESTART (R167). -/
  | imquaServiceRestart
  deriving DecidableEq, Repr

end Sys2Proof
end

