-- ==== Sys2Proof/Decode.lean ====
section
/-! DEFINITION. Decoding of the three kinds of instruction word (R252 to R267), and the encoder beside it, both from
the field layouts of R254, R260 and R267 and the opcode maps of R257, R266 and R267. -/

namespace Sys2Proof

/-- Why a word names no instruction (R268 order 4, R267). -/
inductive DecodeError where
  | reservedMajor
  | reservedFn
  | reservedOpcode
  | nonzeroField
  | short
  deriving DecidableEq, Repr

/-- The instruction when its unused fields are zero (R257), else a refusal. -/
def need (c : Bool) (i : Instr) : Except DecodeError Instr :=
  if c then .ok i else .error .nonzeroField

/-- The a- or k-register number of a 6-bit field (R255). -/
def low5 (x : BitVec 6) : BitVec 5 := x.extractLsb' 0 5

/-- Bit 5 of a 6-bit field is clear, as an a- or k-register field needs (R255). -/
def clear5 (x : BitVec 6) : Bool := !x.getLsbD 5


/-- Major 0x00 (R257, R274): `fn` is bits 6:0 and `w` bit 7. -/
def decodeArith (d a b : BitVec 6) (fn : Nat) (w : Bool) : Except DecodeError Instr :=
  match fn with
  | 0 => .ok (.add d a b w)
  | 1 => .ok (.sub d a b w)
  | 2 => .ok (.mul d a b w)
  | 3 => .ok (.mulh d a b w)
  | 4 => .ok (.mulhn d a b w)
  | 5 => .ok (.div d a b w)
  | 6 => .ok (.divn d a b w)
  | 7 => .ok (.rem d a b w)
  | 8 => .ok (.remn d a b w)
  | 9 => .ok (.and_ d a b w)
  | 10 => .ok (.or_ d a b w)
  | 11 => .ok (.xor d a b w)
  | 12 => .ok (.andn d a b w)
  | 13 => .ok (.shl d a b w)
  | 14 => .ok (.shr d a b w)
  | 15 => .ok (.sar d a b w)
  | 16 => .ok (.rol d a b w)
  | 17 => .ok (.min d a b w)
  | 18 => .ok (.max d a b w)
  | 19 => .ok (.minn d a b w)
  | 20 => .ok (.maxn d a b w)
  | 21 => .ok (.slt d a b w)
  | 22 => .ok (.sltn d a b w)
  | 23 => .ok (.seq d a b w)
  | 24 => need (b == 0) (.popc d a w)
  | 25 => need (b == 0) (.clz d a w)
  | 26 => need (b == 0) (.ctz d a w)
  | 27 => need (b == 0) (.brev d a w)
  | _ => .error .reservedFn

/-- Major 0x0C (R277). -/
def decodeMask (d a b : BitVec 6) (fn : Nat) : Except DecodeError Instr :=
  match fn with
  | 0 => need (d == 0 && b == 0) (.emset a)
  | 1 => need (a == 0 && b == 0) (.emget d)
  | 2 => need (d == 0 && b == 0) (.emand a)
  | 3 => need (d == 0 && b == 0) (.emandn a)
  | 4 => need (d == 0 && b == 0) (.emor a)
  | _ => .error .reservedFn

/-- Major 0x0D (R278). -/
def decodeVector (d a b : BitVec 6) (fn : Nat) : Except DecodeError Instr :=
  match fn with
  | 0 => need (clear5 d && clear5 a && clear5 b) (.vaadd (low5 d) (low5 a) (low5 b))
  | 1 => need (clear5 d && clear5 a) (.vaadds (low5 d) (low5 a) b)
  | 2 => need (clear5 d && clear5 a && clear5 b) (.vasub (low5 d) (low5 a) (low5 b))
  | 3 => need (clear5 d && clear5 a) (.vamuls (low5 d) (low5 a) b)
  | 4 => need (clear5 d && clear5 a) (.vamads (low5 d) (low5 a) b)
  | 5 => need (clear5 d && clear5 a) (.vashls (low5 d) (low5 a) b)
  | 6 => need (clear5 d && clear5 a) (.vashrs (low5 d) (low5 a) b)
  | 7 => need (clear5 d && clear5 a) (.vaands (low5 d) (low5 a) b)
  | 8 => need (clear5 d) (.vaiota (low5 d) a b)
  | 9 => need (clear5 d && b == 0) (.vamovs (low5 d) a)
  | 10 => need (clear5 a) (.vaext d (low5 a) b)
  | 11 => need (clear5 d) (.vains (low5 d) a b)
  | 12 => need (clear5 a && clear5 b) (.valtm d (low5 a) (low5 b))
  | 13 => need (clear5 a && clear5 b) (.vaeqm d (low5 a) (low5 b))
  | _ => .error .reservedFn

/-- Major 0x29 (R350): `fn` is bits 3:0, `asp` bits 5:4, `rel` bit 6. -/
def decodeBarrier (d a b : BitVec 6) (fn : Nat) (asp : BitVec 2) (rel : Bool) : Except DecodeError Instr :=
  match fn with
  | 0 => need (d == 0 && !rel) (.binit asp a b)
  | 1 => .ok (.barrive rel asp d a b)
  | 2 => need (d == 0 && !rel) (.bexpect asp a b)
  | 3 => need (d == 0 && !rel) (.bwait asp a b)
  | 4 => need (!rel) (.btest asp d a b)
  | 5 => need (!rel) (.bstat asp d a b)
  | _ => .error .reservedFn

/-- Major 0x2A (R351). -/
def decodeOrder (d a b : BitVec 6) (fn : Nat) : Except DecodeError Instr :=
  match fn with
  | 0 => need (d == 0 && a == 0 && !b.getLsbD 3) (.fence (b.extractLsb' 4 2) (b.extractLsb' 0 3))
  | 1 => need (d == 0 && a == 0 && b == 0) .drainnt
  | 2 => need (d == 0 && b == 0) (.mon a)
  | 3 => need (d == 0 && a == 0 && b == 0) .mwait
  | _ => .error .reservedFn

/-- Major 0x31 (R361). -/
def decodeSystem (d a b : BitVec 6) (fn : Nat) : Except DecodeError Instr :=
  match fn with
  | 0 => need (d == 0 && a == 0 && b == 0) .yield
  | 1 => need (d == 0 && b == 0) (.trap a)
  | 2 => need (d == 0 && a == 0 && b == 0) .brk
  | 3 => need (a == 0) (.csrr d b)
  | 4 => need (d == 0) (.csrw a b)
  | 5 => need (d == 0 && a == 0 && b == 0) .tstop
  | _ => .error .reservedFn

/-- Major 0x38 (R364). -/
def decodeHandler (d a b : BitVec 6) (fn : Nat) : Except DecodeError Instr :=
  match fn with
  | 0 => if d == 0 && a == 0 && b == 0 then .ok .fret else need (d == 0 && a == 0 && b == 1) .fretSkip
  | 1 => need (a == 0 && b == 0) (.fmap d)
  | 2 => need (d == 0) (.femu a b)
  | 3 => need (d == 0 && a == 0 && b == 0) .fskip
  | 4 => need (d == 0) (.fpark a b)
  | 5 => .ok (.hcall d a b)
  | 6 => need (b == 0) (.rdfi d a)
  | _ => .error .reservedFn

/-- The small AR majors 0x12, 0x17, 0x1A, 0x28 and 0x2B (R279, R286 to R289, R345, R352 to R354), by major * 256 + fn. -/
def decodeMisc (d a b : BitVec 6) (k : Nat) : Except DecodeError Instr :=
  match k with
  | 0x1200 => need (d == 0 && b == 0) (.jr a)
  | 0x1201 => need (d == 0 && b == 0) (.callr a)
  | 0x1700 => need (d == 0 && a == 0 && b == 0) .join
  | 0x1701 => need (d == 0 && a == 0 && b == 0) .ends
  | 0x1A00 => need (clear5 d && b == 0) (.kput (low5 d) a)
  | 0x1A01 => need (a == 0 && b == 0) (.xpop d)
  | 0x1A02 => need (a == 0 && b == 0) (.xpeek d)
  | 0x2800 => need (b == 0) (.cpy d a)
  | 0x2801 => need (b == 0) (.cpysp d a)
  | 0x2802 => need (b == 0) (.gath d a)
  | 0x2803 => need (b == 0) (.scat d a)
  | 0x2804 => need (b == 0) (.spillb d a)
  | 0x2805 => need (b == 0) (.filla d a)
  | 0x2B00 => .ok (.enq d a b)
  | 0x2B01 => need (b == 0) (.deq d a)
  | 0x2B02 => .ok (.gstart d a b)
  | 0x2B03 => .ok (.gsig d a b)
  | _ => .error .reservedFn

/-- Decode an A-stream word (R254 to R257). -/
def decodeA (w : Half) : Except DecodeError Instr :=
  let d := w.extractLsb' 20 6
  let a := w.extractLsb' 14 6
  let b := w.extractLsb' 8 6
  let fn8 := w.extractLsb' 0 8
  let fn := fn8.toNat
  match (w.extractLsb' 26 6).toNat with
  | 0x00 => decodeArith d a b (w.extractLsb' 0 7).toNat (w.getLsbD 7)
  | 0x01 => .ok (.addi d a (w.extractLsb' 0 14))
  | 0x02 => .ok (.andi d a (w.extractLsb' 0 14))
  | 0x03 => .ok (.ori d a (w.extractLsb' 0 14))
  | 0x04 => .ok (.xori d a (w.extractLsb' 0 14))
  | 0x05 => need (w.extractLsb' 6 8 == 0) (.shli d a (w.extractLsb' 0 6))
  | 0x06 => need (w.extractLsb' 6 8 == 0) (.shri d a (w.extractLsb' 0 6))
  | 0x07 => need (w.extractLsb' 6 8 == 0) (.sari d a (w.extractLsb' 0 6))
  | 0x08 => .ok (.slti d a (w.extractLsb' 0 14))
  | 0x09 => .ok (.seqi d a (w.extractLsb' 0 14))
  | 0x0A => .ok (.lui d (w.extractLsb' 0 20))
  | 0x0B => .ok (.auipc d (w.extractLsb' 0 20))
  | 0x0C => decodeMask d a b fn
  | 0x0D => decodeVector d a b fn
  | 0x10 => .ok (.j (w.extractLsb' 0 26))
  | 0x11 => .ok (.call (w.extractLsb' 0 26))
  | 0x12 => decodeMisc d a b (0x1200 + fn)
  | 0x13 => .ok (.bcc (w.extractLsb' 22 4) (w.extractLsb' 16 6) (w.extractLsb' 0 16))
  | 0x14 => need (w.extractLsb' 16 6 == 0) (.bxq (w.extractLsb' 22 4) (w.extractLsb' 0 16))
  | 0x15 => need (w.extractLsb' 22 2 == 0) (.brs (w.extractLsb' 24 2) (w.extractLsb' 16 6) (w.extractLsb' 0 16))
  | 0x16 => need (w.extractLsb' 0 9 == 0) (.brx (w.extractLsb' 21 5) (w.extractLsb' 15 6) (w.extractLsb' 9 6))
  | 0x17 => decodeMisc d a b (0x1700 + fn)
  | 0x18 => need (w.extractLsb' 22 4 == 0) (.loopd (w.extractLsb' 16 6) (w.extractLsb' 0 16))
  | 0x19 => .ok (.disp (w.extractLsb' 0 26))
  | 0x1A => decodeMisc d a b (0x1A00 + fn)
  | 0x1C => .ok (.ld (w.extractLsb' 22 4) (w.extractLsb' 20 2) (w.getLsbD 19) (w.extractLsb' 14 5) (w.extractLsb' 8 6) fn8)
  | 0x1D => need (fn8.extractLsb' 0 3 == 0) (.lda (w.extractLsb' 22 4) (w.extractLsb' 20 2) (w.getLsbD 19) (w.extractLsb' 14 5) (w.extractLsb' 8 6) (fn8.extractLsb' 3 5))
  | 0x1E => .ok (.lds d a (w.extractLsb' 0 14))
  | 0x1F => .ok (.ldsw d a (w.extractLsb' 0 14))
  | 0x20 => .ok (.st (w.extractLsb' 22 4) (w.extractLsb' 20 2) (w.getLsbD 19) (w.extractLsb' 14 5) (w.extractLsb' 8 6) fn8)
  | 0x21 => .ok (.sts d a (w.extractLsb' 0 14))
  | 0x22 => need (fn8 == 0 && w.extractLsb' 20 2 == 0) (.ldf (w.extractLsb' 22 4) (w.getLsbD 19) (w.extractLsb' 14 5) (w.extractLsb' 8 6))
  | 0x23 => need (w.extractLsb' 0 2 == 0) (.atom (w.extractLsb' 22 4) (w.extractLsb' 20 2) (w.extractLsb' 17 3) (w.extractLsb' 12 5) (w.extractLsb' 6 6) (w.extractLsb' 3 3) (w.getLsbD 2))
  | 0x24 => need (!w.getLsbD 0) (.atoms (w.extractLsb' 22 4) (w.extractLsb' 19 3) (w.extractLsb' 13 6) (w.extractLsb' 7 6) (w.extractLsb' 1 6))
  | 0x25 => .ok (.pref (w.extractLsb' 22 4) (w.extractLsb' 20 2) (w.getLsbD 19) (w.extractLsb' 14 5) (w.extractLsb' 8 6) fn8)
  | 0x28 => decodeMisc d a b (0x2800 + fn)
  | 0x29 => if w.getLsbD 7 then .error .reservedFn else decodeBarrier d a b (w.extractLsb' 0 4).toNat (w.extractLsb' 4 2) (w.getLsbD 6)
  | 0x2A => decodeOrder d a b fn
  | 0x2B => decodeMisc d a b (0x2B00 + fn)
  | 0x30 => need (w.extractLsb' 0 10 == 0) (.sp (w.extractLsb' 10 16))
  | 0x31 => decodeSystem d a b fn
  | 0x38 => decodeHandler d a b fn
  | _ => .error .reservedMajor

/-- The fields of a C-word (R260). -/
def cFields (w : BitVec 96) : CFields where
  stall := w.extractLsb' 84 4
  reuse := w.extractLsb' 81 3
  msel := w.extractLsb' 79 2
  mreg := w.extractLsb' 74 5
  d := w.extractLsb' 66 8
  dk := w.extractLsb' 64 2
  a := w.extractLsb' 56 8
  ak := w.extractLsb' 54 2
  b := w.extractLsb' 46 8
  bk := w.extractLsb' 44 2
  c := w.extractLsb' 36 8
  ck := w.extractLsb' 34 2
  ty := w.extractLsb' 30 4
  rnd := w.extractLsb' 28 2
  mod := w.extractLsb' 24 4
  imm := w.extractLsb' 0 24

/-- The C-stream opcodes (R266); an MDRAIN of format 15 is a window drain (R342, R344). -/
def cInstr (op : Nat) (f : CFields) : Option Instr :=
  match op with
  | 0x00 => some (.nop f)
  | 0x01 => some (.end_ f)
  | 0x08 => some (.vadd f)
  | 0x09 => some (.vsub f)
  | 0x0A => some (.vmul f)
  | 0x0B => some (.vmulh f)
  | 0x0C => some (.vmad f)
  | 0x0D => some (.vand f)
  | 0x0E => some (.vor f)
  | 0x0F => some (.vxor f)
  | 0x10 => some (.vshl f)
  | 0x11 => some (.vshr f)
  | 0x12 => some (.vsar f)
  | 0x13 => some (.vmin f)
  | 0x14 => some (.vmax f)
  | 0x15 => some (.vabs f)
  | 0x16 => some (.vclz f)
  | 0x17 => some (.vpopc f)
  | 0x18 => some (.vbrev f)
  | 0x19 => some (.vbfe f)
  | 0x1A => some (.vbfi f)
  | 0x1B => some (.vsel f)
  | 0x1C => some (.vicmp f)
  | 0x20 => some (.vfadd f)
  | 0x21 => some (.vfsub f)
  | 0x22 => some (.vfmul f)
  | 0x23 => some (.vfma f)
  | 0x24 => some (.vfmin f)
  | 0x25 => some (.vfmax f)
  | 0x26 => some (.vfrcp f)
  | 0x27 => some (.vfrsq f)
  | 0x28 => some (.vfsqrt f)
  | 0x29 => some (.vfexp2 f)
  | 0x2A => some (.vflog2 f)
  | 0x2B => some (.vfclass f)
  | 0x2C => some (.vfcmp f)
  | 0x2D => some (.vcvt f)
  | 0x40 => some (.vqswp f)
  | 0x41 => some (.vshfl f)
  | 0x42 => some (.vbcast f)
  | 0x43 => some (.vballot f)
  | 0x44 => some (.vprefix f)
  | 0x45 => some (.vred f)
  | 0x46 => some (.vtopk f)
  | 0x47 => some (.vqred f)
  | 0x50 => some (.kop f)
  | 0x51 => some (.kfromv f)
  | 0x52 => some (.vfromk f)
  | 0x58 => some (.vmov f)
  | 0x59 => some (.xbound f)
  | 0x5A => some (.xset f)
  | 0x60 => some (.emnarrow f)
  | 0x61 => some (.emrestore f)
  | 0x62 => some (.nif f)
  | 0x63 => some (.nelse f)
  | 0x64 => some (.nend f)
  | 0x65 => some (.nbreak f)
  | 0x70 => some (.vpack f)
  | 0x71 => some (.vunpk f)
  | 0x72 => some (.vscale f)
  | 0x78 => some (.region f)
  | 0x80 => some (.mma f)
  | 0x81 => some (.mzero f)
  | 0x82 => some (.mload f)
  | 0x83 => some (.mstore f)
  | 0x84 => if f.imm.extractLsb' 0 4 = 15 then some (.mdrainWindow f) else some (.mdrain f)
  | 0x85 => some (.mbf f)
  | 0x86 => some (.mbw f)
  | 0x87 => some (.mbind f)
  | _ => none

/-- Decode a C-stream word (R260, R266). -/
def decodeC (w : BitVec 96) : Except DecodeError Instr :=
  match cInstr (w.extractLsb' 88 8).toNat (cFields w) with
  | some i => .ok i
  | none => .error .reservedOpcode

/-- The fields of an Odnar word (R267). -/
def oFields (w : Word) : OFields where
  d := w.extractLsb' 52 4
  a := w.extractLsb' 48 4
  b := w.extractLsb' 44 4
  f := w.extractLsb' 40 4
  imm := w.extractLsb' 0 40

/-- The Odnar opcodes (R267), with the f field choosing among the forms of R386 and R388. -/
def oInstr (op : Nat) (x : OFields) : Option Instr :=
  match op, x.f.toNat with
  | 0x00, _ => some (.odnarNop x)
  | 0x01, _ => some (.setg x)
  | 0x02, _ => some (.addg x)
  | 0x03, _ => some (.peer x)
  | 0x04, _ => some (.chunk x)
  | 0x05, 0 => some (.sendAcc x)
  | 0x05, 1 => some (.sendOwn x)
  | 0x05, 2 => some (.sendMem x)
  | 0x06, 0 => some (.recvAcc x)
  | 0x06, 1 => some (.recvDest x)
  | 0x07, _ => some (.rrs x)
  | 0x08, 0 => some (.copyOwn x)
  | 0x08, 1 => some (.copyDest x)
  | 0x08, 2 => some (.copyLoad x)
  | 0x08, 3 => some (.copyStore x)
  | 0x09, _ => some (.match_ x)
  | 0x0A, _ => some (.combine x)
  | 0x0B, _ => some (.forward x)
  | 0x0C, _ => some (.scalex x)
  | 0x0D, 0 => some (.waitWin x)
  | 0x0D, 1 => some (.waitSig x)
  | 0x0D, 2 => some (.waitTime x)
  | 0x0D, 3 => some (.waitBar x)
  | 0x0E, 0 => some (.signal x)
  | 0x0E, 1 => some (.signalSub x)
  | 0x0F, _ => some (.bset x)
  | 0x10, _ => some (.loop x)
  | 0x11, _ => some (.endl x)
  | 0x12, _ => some (.brg x)
  | 0x13, _ => some (.tstart x)
  | 0x14, _ => some (.yieldc x)
  | 0x15, _ => some (.ackw x)
  | 0x16, _ => some (.odnarEnd x)
  | _, _ => none

/-- Decode an Odnar word (R267). -/
def decodeO (w : Word) : Except DecodeError Instr :=
  match oInstr (w.extractLsb' 56 8).toNat (oFields w) with
  | some i => .ok i
  | none => .error .reservedOpcode

/-- The little-endian value of some bytes (R6, R252). -/
def bytesToNat : List Byte → Nat
  | [] => 0
  | b :: bs => b.toNat + 256 * bytesToNat bs

/-- The `n` low bytes of a value, little-endian (R6). -/
def natToBytes : Nat → Nat → List Byte
  | 0, _ => []
  | n + 1, v => BitVec.ofNat 8 v :: natToBytes n (v / 256)

/-- Decode an A-stream word from the bytes at its address, with the bytes that follow it. -/
def decodeABytes (bs : List Byte) : Except DecodeError (Instr × List Byte) :=
  if bs.length < 4 then .error .short
  else (decodeA (BitVec.ofNat 32 (bytesToNat (bs.take 4)))).map fun i => (i, bs.drop 4)

/-- Decode a C-stream word from the bytes at its address. -/
def decodeCBytes (bs : List Byte) : Except DecodeError (Instr × List Byte) :=
  if bs.length < 12 then .error .short
  else (decodeC (BitVec.ofNat 96 (bytesToNat (bs.take 12)))).map fun i => (i, bs.drop 12)

/-- Decode an Odnar word from the bytes at its address. -/
def decodeOBytes (bs : List Byte) : Except DecodeError (Instr × List Byte) :=
  if bs.length < 8 then .error .short
  else (decodeO (BitVec.ofNat 64 (bytesToNat (bs.take 8)))).map fun i => (i, bs.drop 8)

/-- The instruction the decoder reads from a word of the opcode table: A-words have 32 bits, Odnar words 64 and
C-words 96. The bits are laid out as bytes and given to the byte decoders. -/
def decodeTableWord (nbits w : Nat) : Option Instr :=
  let r := if nbits ≤ 32 then decodeABytes (natToBytes 4 w)
    else if nbits ≤ 64 then decodeOBytes (natToBytes 8 w)
    else decodeCBytes (natToBytes 12 w)
  match r with
  | .ok (i, _) => some i
  | .error _ => none

/-! ### The encoder -/

/-- An AR word (R254). -/
def wordAR (major : BitVec 6) (d a b : BitVec 6) (fn : BitVec 8) : Half := major ++ d ++ a ++ b ++ fn

/-- An AI word (R254). -/
def wordAI (major : BitVec 6) (d a : BitVec 6) (imm : BitVec 14) : Half := major ++ d ++ a ++ imm

/-- An AU word (R254). -/
def wordAU (major : BitVec 6) (d : BitVec 6) (imm : BitVec 20) : Half := major ++ d ++ imm

/-- An AJ word (R254). -/
def wordAJ (major : BitVec 6) (off : BitVec 26) : Half := major ++ off

/-- An AB word (R254). -/
def wordAB (major : BitVec 6) (cc : BitVec 4) (a : BitVec 6) (off : BitVec 16) : Half := major ++ cc ++ a ++ off

/-- An AM word (R254). -/
def wordAM (major : BitVec 6) (ty : BitVec 4) (asp : BitVec 2) (nt : Bool) (aa : BitVec 5) (sb : BitVec 6)
    (off : BitVec 8) : Half := major ++ ty ++ asp ++ BitVec.ofBool nt ++ aa ++ sb ++ off

/-- A 5-bit register number in a 6-bit field (R255). -/
def pad5 (x : BitVec 5) : BitVec 6 := (0 : BitVec 1) ++ x

/-- A C-word (R260). -/
def wordC (op : BitVec 8) (f : CFields) : BitVec 96 :=
  op ++ f.stall ++ f.reuse ++ f.msel ++ f.mreg ++ f.d ++ f.dk ++ f.a ++ f.ak ++ f.b ++ f.bk ++ f.c ++ f.ck ++ f.ty
    ++ f.rnd ++ f.mod ++ f.imm

/-- An Odnar word (R267). -/
def wordO (op : BitVec 8) (x : OFields) : Word := op ++ x.d ++ x.a ++ x.b ++ x.f ++ x.imm

/-- The A-stream word of an A-stream instruction (R254 to R257); zero for anything else. -/
def encodeA (i : Instr) : Half :=
  match i with
  | .add d a b w => wordAR 0x00 d a b (BitVec.ofBool w ++ (0 : BitVec 7))
  | .sub d a b w => wordAR 0x00 d a b (BitVec.ofBool w ++ (1 : BitVec 7))
  | .mul d a b w => wordAR 0x00 d a b (BitVec.ofBool w ++ (2 : BitVec 7))
  | .mulh d a b w => wordAR 0x00 d a b (BitVec.ofBool w ++ (3 : BitVec 7))
  | .mulhn d a b w => wordAR 0x00 d a b (BitVec.ofBool w ++ (4 : BitVec 7))
  | .div d a b w => wordAR 0x00 d a b (BitVec.ofBool w ++ (5 : BitVec 7))
  | .divn d a b w => wordAR 0x00 d a b (BitVec.ofBool w ++ (6 : BitVec 7))
  | .rem d a b w => wordAR 0x00 d a b (BitVec.ofBool w ++ (7 : BitVec 7))
  | .remn d a b w => wordAR 0x00 d a b (BitVec.ofBool w ++ (8 : BitVec 7))
  | .and_ d a b w => wordAR 0x00 d a b (BitVec.ofBool w ++ (9 : BitVec 7))
  | .or_ d a b w => wordAR 0x00 d a b (BitVec.ofBool w ++ (10 : BitVec 7))
  | .xor d a b w => wordAR 0x00 d a b (BitVec.ofBool w ++ (11 : BitVec 7))
  | .andn d a b w => wordAR 0x00 d a b (BitVec.ofBool w ++ (12 : BitVec 7))
  | .shl d a b w => wordAR 0x00 d a b (BitVec.ofBool w ++ (13 : BitVec 7))
  | .shr d a b w => wordAR 0x00 d a b (BitVec.ofBool w ++ (14 : BitVec 7))
  | .sar d a b w => wordAR 0x00 d a b (BitVec.ofBool w ++ (15 : BitVec 7))
  | .rol d a b w => wordAR 0x00 d a b (BitVec.ofBool w ++ (16 : BitVec 7))
  | .min d a b w => wordAR 0x00 d a b (BitVec.ofBool w ++ (17 : BitVec 7))
  | .max d a b w => wordAR 0x00 d a b (BitVec.ofBool w ++ (18 : BitVec 7))
  | .minn d a b w => wordAR 0x00 d a b (BitVec.ofBool w ++ (19 : BitVec 7))
  | .maxn d a b w => wordAR 0x00 d a b (BitVec.ofBool w ++ (20 : BitVec 7))
  | .slt d a b w => wordAR 0x00 d a b (BitVec.ofBool w ++ (21 : BitVec 7))
  | .sltn d a b w => wordAR 0x00 d a b (BitVec.ofBool w ++ (22 : BitVec 7))
  | .seq d a b w => wordAR 0x00 d a b (BitVec.ofBool w ++ (23 : BitVec 7))
  | .popc d a w => wordAR 0x00 d a 0 (BitVec.ofBool w ++ (24 : BitVec 7))
  | .clz d a w => wordAR 0x00 d a 0 (BitVec.ofBool w ++ (25 : BitVec 7))
  | .ctz d a w => wordAR 0x00 d a 0 (BitVec.ofBool w ++ (26 : BitVec 7))
  | .brev d a w => wordAR 0x00 d a 0 (BitVec.ofBool w ++ (27 : BitVec 7))
  | .addi d a imm => wordAI 0x01 d a imm
  | .andi d a imm => wordAI 0x02 d a imm
  | .ori d a imm => wordAI 0x03 d a imm
  | .xori d a imm => wordAI 0x04 d a imm
  | .shli d a amt => wordAI 0x05 d a ((0 : BitVec 8) ++ amt)
  | .shri d a amt => wordAI 0x06 d a ((0 : BitVec 8) ++ amt)
  | .sari d a amt => wordAI 0x07 d a ((0 : BitVec 8) ++ amt)
  | .slti d a imm => wordAI 0x08 d a imm
  | .seqi d a imm => wordAI 0x09 d a imm
  | .lui d imm => wordAU 0x0A d imm
  | .auipc d imm => wordAU 0x0B d imm
  | .emset a => wordAR 0x0C 0 a 0 0
  | .emget d => wordAR 0x0C d 0 0 1
  | .emand a => wordAR 0x0C 0 a 0 2
  | .emandn a => wordAR 0x0C 0 a 0 3
  | .emor a => wordAR 0x0C 0 a 0 4
  | .vaadd d a b => wordAR 0x0D (pad5 d) (pad5 a) (pad5 b) 0
  | .vaadds d a b => wordAR 0x0D (pad5 d) (pad5 a) b 1
  | .vasub d a b => wordAR 0x0D (pad5 d) (pad5 a) (pad5 b) 2
  | .vamuls d a b => wordAR 0x0D (pad5 d) (pad5 a) b 3
  | .vamads d a b => wordAR 0x0D (pad5 d) (pad5 a) b 4
  | .vashls d a b => wordAR 0x0D (pad5 d) (pad5 a) b 5
  | .vashrs d a b => wordAR 0x0D (pad5 d) (pad5 a) b 6
  | .vaands d a b => wordAR 0x0D (pad5 d) (pad5 a) b 7
  | .vaiota d a b => wordAR 0x0D (pad5 d) a b 8
  | .vamovs d a => wordAR 0x0D (pad5 d) a 0 9
  | .vaext d a b => wordAR 0x0D d (pad5 a) b 10
  | .vains d a b => wordAR 0x0D (pad5 d) a b 11
  | .valtm d a b => wordAR 0x0D d (pad5 a) (pad5 b) 12
  | .vaeqm d a b => wordAR 0x0D d (pad5 a) (pad5 b) 13
  | .j off => wordAJ 0x10 off
  | .call off => wordAJ 0x11 off
  | .jr a => wordAR 0x12 0 a 0 0
  | .callr a => wordAR 0x12 0 a 0 1
  | .bcc cc a off => wordAB 0x13 cc a off
  | .bxq cc off => wordAB 0x14 cc 0 off
  | .brs policy m off => ((0x15 : BitVec 6) ++ policy ++ (0 : BitVec 2) ++ m ++ off : Half)
  | .brx aa base len => ((0x16 : BitVec 6) ++ aa ++ base ++ len ++ (0 : BitVec 9) : Half)
  | .join => wordAR 0x17 0 0 0 0
  | .ends => wordAR 0x17 0 0 0 1
  | .loopd a off => wordAB 0x18 0 a off
  | .disp off => wordAJ 0x19 off
  | .kput d a => wordAR 0x1A (pad5 d) a 0 0
  | .xpop d => wordAR 0x1A d 0 0 1
  | .xpeek d => wordAR 0x1A d 0 0 2
  | .ld ty asp nt aa sb off => wordAM 0x1C ty asp nt aa sb off
  | .lda ty asp nt aa sb d => wordAM 0x1D ty asp nt aa sb (d ++ (0 : BitVec 3))
  | .lds d a imm => wordAI 0x1E d a imm
  | .ldsw d a imm => wordAI 0x1F d a imm
  | .st ty asp nt aa sb off => wordAM 0x20 ty asp nt aa sb off
  | .sts d a imm => wordAI 0x21 d a imm
  | .ldf ty nt aa sb => wordAM 0x22 ty 0 nt aa sb 0
  | .atom aop asp sc aa sb at_ rv =>
    ((0x23 : BitVec 6) ++ aop ++ asp ++ sc ++ aa ++ sb ++ at_ ++ BitVec.ofBool rv ++ (0 : BitVec 2) : Half)
  | .atoms aop sc d a b => ((0x24 : BitVec 6) ++ aop ++ sc ++ d ++ a ++ b ++ (0 : BitVec 1) : Half)
  | .pref ty asp nt aa sb off => wordAM 0x25 ty asp nt aa sb off
  | .cpy d a => wordAR 0x28 d a 0 0
  | .cpysp d a => wordAR 0x28 d a 0 1
  | .gath d a => wordAR 0x28 d a 0 2
  | .scat d a => wordAR 0x28 d a 0 3
  | .spillb d a => wordAR 0x28 d a 0 4
  | .filla d a => wordAR 0x28 d a 0 5
  | .binit asp a b => wordAR 0x29 0 a b ((0 : BitVec 2) ++ asp ++ (0 : BitVec 4))
  | .barrive rel asp d a b => wordAR 0x29 d a b ((0 : BitVec 1) ++ BitVec.ofBool rel ++ asp ++ (1 : BitVec 4))
  | .bexpect asp a b => wordAR 0x29 0 a b ((0 : BitVec 2) ++ asp ++ (2 : BitVec 4))
  | .bwait asp a b => wordAR 0x29 0 a b ((0 : BitVec 2) ++ asp ++ (3 : BitVec 4))
  | .btest asp d a b => wordAR 0x29 d a b ((0 : BitVec 2) ++ asp ++ (4 : BitVec 4))
  | .bstat asp d a b => wordAR 0x29 d a b ((0 : BitVec 2) ++ asp ++ (5 : BitVec 4))
  | .fence kind scope => wordAR 0x2A 0 0 (kind ++ (0 : BitVec 1) ++ scope) 0
  | .drainnt => wordAR 0x2A 0 0 0 1
  | .mon a => wordAR 0x2A 0 a 0 2
  | .mwait => wordAR 0x2A 0 0 0 3
  | .enq d a b => wordAR 0x2B d a b 0
  | .deq d a => wordAR 0x2B d a 0 1
  | .gstart d a b => wordAR 0x2B d a b 2
  | .gsig d a b => wordAR 0x2B d a b 3
  | .sp idx => ((0x30 : BitVec 6) ++ idx ++ (0 : BitVec 10) : Half)
  | .yield => wordAR 0x31 0 0 0 0
  | .trap a => wordAR 0x31 0 a 0 1
  | .brk => wordAR 0x31 0 0 0 2
  | .csrr d n => wordAR 0x31 d 0 n 3
  | .csrw a n => wordAR 0x31 0 a n 4
  | .tstop => wordAR 0x31 0 0 0 5
  | .fret => wordAR 0x38 0 0 0 0
  | .fretSkip => wordAR 0x38 0 0 1 0
  | .fmap d => wordAR 0x38 d 0 0 1
  | .femu a b => wordAR 0x38 0 a b 2
  | .fskip => wordAR 0x38 0 0 0 3
  | .fpark a b => wordAR 0x38 0 a b 4
  | .hcall d a b => wordAR 0x38 d a b 5
  | .rdfi d a => wordAR 0x38 d a 0 6
  | _ => 0

/-- The C-stream word of a C-stream instruction (R260, R266); `none` for anything else. -/
def encodeC (i : Instr) : Option (BitVec 96) :=
  match i with
  | .nop f => some (wordC 0x00 f)
  | .end_ f => some (wordC 0x01 f)
  | .vadd f => some (wordC 0x08 f)
  | .vsub f => some (wordC 0x09 f)
  | .vmul f => some (wordC 0x0A f)
  | .vmulh f => some (wordC 0x0B f)
  | .vmad f => some (wordC 0x0C f)
  | .vand f => some (wordC 0x0D f)
  | .vor f => some (wordC 0x0E f)
  | .vxor f => some (wordC 0x0F f)
  | .vshl f => some (wordC 0x10 f)
  | .vshr f => some (wordC 0x11 f)
  | .vsar f => some (wordC 0x12 f)
  | .vmin f => some (wordC 0x13 f)
  | .vmax f => some (wordC 0x14 f)
  | .vabs f => some (wordC 0x15 f)
  | .vclz f => some (wordC 0x16 f)
  | .vpopc f => some (wordC 0x17 f)
  | .vbrev f => some (wordC 0x18 f)
  | .vbfe f => some (wordC 0x19 f)
  | .vbfi f => some (wordC 0x1A f)
  | .vsel f => some (wordC 0x1B f)
  | .vicmp f => some (wordC 0x1C f)
  | .vfadd f => some (wordC 0x20 f)
  | .vfsub f => some (wordC 0x21 f)
  | .vfmul f => some (wordC 0x22 f)
  | .vfma f => some (wordC 0x23 f)
  | .vfmin f => some (wordC 0x24 f)
  | .vfmax f => some (wordC 0x25 f)
  | .vfrcp f => some (wordC 0x26 f)
  | .vfrsq f => some (wordC 0x27 f)
  | .vfsqrt f => some (wordC 0x28 f)
  | .vfexp2 f => some (wordC 0x29 f)
  | .vflog2 f => some (wordC 0x2A f)
  | .vfclass f => some (wordC 0x2B f)
  | .vfcmp f => some (wordC 0x2C f)
  | .vcvt f => some (wordC 0x2D f)
  | .vqswp f => some (wordC 0x40 f)
  | .vshfl f => some (wordC 0x41 f)
  | .vbcast f => some (wordC 0x42 f)
  | .vballot f => some (wordC 0x43 f)
  | .vprefix f => some (wordC 0x44 f)
  | .vred f => some (wordC 0x45 f)
  | .vtopk f => some (wordC 0x46 f)
  | .vqred f => some (wordC 0x47 f)
  | .kop f => some (wordC 0x50 f)
  | .kfromv f => some (wordC 0x51 f)
  | .vfromk f => some (wordC 0x52 f)
  | .vmov f => some (wordC 0x58 f)
  | .xbound f => some (wordC 0x59 f)
  | .xset f => some (wordC 0x5A f)
  | .emnarrow f => some (wordC 0x60 f)
  | .emrestore f => some (wordC 0x61 f)
  | .nif f => some (wordC 0x62 f)
  | .nelse f => some (wordC 0x63 f)
  | .nend f => some (wordC 0x64 f)
  | .nbreak f => some (wordC 0x65 f)
  | .vpack f => some (wordC 0x70 f)
  | .vunpk f => some (wordC 0x71 f)
  | .vscale f => some (wordC 0x72 f)
  | .region f => some (wordC 0x78 f)
  | .mma f => some (wordC 0x80 f)
  | .mzero f => some (wordC 0x81 f)
  | .mload f => some (wordC 0x82 f)
  | .mstore f => some (wordC 0x83 f)
  | .mdrain f => some (wordC 0x84 f)
  | .mdrainWindow f => some (wordC 0x84 f)
  | .mbf f => some (wordC 0x85 f)
  | .mbw f => some (wordC 0x86 f)
  | .mbind f => some (wordC 0x87 f)
  | _ => none

/-- The Odnar word of an Odnar instruction (R267); `none` for anything else. -/
def encodeO (i : Instr) : Option Word :=
  match i with
  | .odnarNop x => some (wordO 0x00 x)
  | .setg x => some (wordO 0x01 x)
  | .addg x => some (wordO 0x02 x)
  | .peer x => some (wordO 0x03 x)
  | .chunk x => some (wordO 0x04 x)
  | .sendAcc x => some (wordO 0x05 x)
  | .sendOwn x => some (wordO 0x05 x)
  | .sendMem x => some (wordO 0x05 x)
  | .recvAcc x => some (wordO 0x06 x)
  | .recvDest x => some (wordO 0x06 x)
  | .rrs x => some (wordO 0x07 x)
  | .copyOwn x => some (wordO 0x08 x)
  | .copyDest x => some (wordO 0x08 x)
  | .copyLoad x => some (wordO 0x08 x)
  | .copyStore x => some (wordO 0x08 x)
  | .match_ x => some (wordO 0x09 x)
  | .combine x => some (wordO 0x0A x)
  | .forward x => some (wordO 0x0B x)
  | .scalex x => some (wordO 0x0C x)
  | .waitWin x => some (wordO 0x0D x)
  | .waitSig x => some (wordO 0x0D x)
  | .waitTime x => some (wordO 0x0D x)
  | .waitBar x => some (wordO 0x0D x)
  | .signal x => some (wordO 0x0E x)
  | .signalSub x => some (wordO 0x0E x)
  | .bset x => some (wordO 0x0F x)
  | .loop x => some (wordO 0x10 x)
  | .endl x => some (wordO 0x11 x)
  | .brg x => some (wordO 0x12 x)
  | .tstart x => some (wordO 0x13 x)
  | .yieldc x => some (wordO 0x14 x)
  | .ackw x => some (wordO 0x15 x)
  | .odnarEnd x => some (wordO 0x16 x)
  | _ => none

/-- The bytes of an instruction as the hardware stores them (R252); empty for rows that are no instruction word. -/
def encodeBytes (i : Instr) : List Byte :=
  match encodeC i, encodeO i with
  | some w, _ => natToBytes 12 w.toNat
  | none, some w => natToBytes 8 w.toNat
  | none, none => natToBytes 4 (encodeA i).toNat

end Sys2Proof
end

