-- ==== Sys2Proof/Machine/Crypto.lean ====
section
/-! DEFINITION. The algorithms of outside standards that the spec names: AES-256 (FIPS 197) with XTS (R159, R160; IEEE 1619) and
GCM (R171, R413; SP 800-38D), SHA-512 (FIPS 180-4), X25519 (RFC 7748) and Ed25519 signatures (RFC 8032) of R412. Keys, blocks
and messages are bytes in the order of those standards; a value that the spec holds as a bit vector has its first byte lowest
(R6). -/

namespace Sys2Proof.Machine

open Sys2Proof

/-! ### AES-256 -/

/-- Product in GF(2^8) modulo x^8 + x^4 + x^3 + x + 1. -/
def gfMul (a b : Byte) : Byte :=
  ((List.range 8).foldl (fun (r : Byte × Byte) i =>
    (if b.getLsbD i then r.1 ^^^ r.2 else r.1, (r.2 <<< 1) ^^^ (if r.2.getLsbD 7 then 0x1B else 0))) (0, a)).1

/-- Inverse in GF(2^8), with 0 for 0: the power 254. -/
def gfInv (a : Byte) : Byte := ((List.range 7).foldl (fun (r : Byte × Byte) _ => let q := gfMul r.2 r.2; (gfMul r.1 q, q)) (1, a)).1

def subByte (a : Byte) : Byte :=
  let b := gfInv a
  b ^^^ b.rotateLeft 1 ^^^ b.rotateLeft 2 ^^^ b.rotateLeft 3 ^^^ b.rotateLeft 4 ^^^ 0x63

def invSubByte (a : Byte) : Byte := gfInv (a.rotateLeft 1 ^^^ a.rotateLeft 3 ^^^ a.rotateLeft 6 ^^^ 0x05)

def xorBytes (a b : List Byte) : List Byte := List.zipWith (· ^^^ ·) a b

/-- The 60 words of four bytes of a key of 32 bytes. -/
def keyWords (key : List Byte) : List (List Byte) :=
  (List.range 52).foldl (fun ws j =>
    let last := ws.getD (j + 7) []
    let t := if j % 8 = 0 then xorBytes ((last.drop 1 ++ last.take 1).map subByte) [BitVec.ofNat 8 (2 ^ (j / 8)), 0, 0, 0]
      else if j % 8 = 4 then last.map subByte else last
    ws ++ [xorBytes (ws.getD j []) t]) ((List.range 8).map fun i => (key.drop (4 * i)).take 4)

/-- The key of a round. -/
def roundKey (ws : List (List Byte)) (r : Nat) : List Byte := ((ws.drop (4 * r)).take 4).flatten

/-- Byte `r` of column `c` comes from column `c + r`, or with `back` from column `c - r`. -/
def shiftRows (back : Bool) (x : List Byte) : List Byte :=
  (List.range 16).map fun i => x.getD (4 * ((i / 4 + (if back then 16 - i % 4 else i % 4)) % 4) + i % 4) 0

/-- Multiply each column by the circulant matrix of a first row. -/
def mixColumns (m : List Byte) (x : List Byte) : List Byte :=
  (List.range 16).map fun i => (List.range 4).foldl (fun v k =>
    v ^^^ gfMul (m.getD ((k + 4 - i % 4) % 4) 0) (x.getD (i / 4 * 4 + k) 0)) 0

/-- Encrypt a block of 16 bytes. -/
def aesEncrypt (ws : List (List Byte)) (x : List Byte) : List Byte :=
  let y := (List.range 13).foldl (fun y r =>
    xorBytes (mixColumns [2, 3, 1, 1] (shiftRows false (y.map subByte))) (roundKey ws (r + 1))) (xorBytes x (roundKey ws 0))
  xorBytes (shiftRows false (y.map subByte)) (roundKey ws 14)

/-- Decrypt a block of 16 bytes. -/
def aesDecrypt (ws : List (List Byte)) (x : List Byte) : List Byte :=
  let y := (List.range 13).foldl (fun y r =>
    mixColumns [14, 11, 13, 9] (xorBytes ((shiftRows true y).map invSubByte) (roundKey ws (13 - r)))) (xorBytes x (roundKey ws 14))
  xorBytes ((shiftRows true y).map invSubByte) (roundKey ws 0)

/-! ### XTS (R159, R160) -/

/-- A tweak times the primitive element of GF(2^128). -/
def nextTweak (t : List Byte) : List Byte :=
  let v := bytesToNat t
  natToBytes 16 (2 * v % 2 ^ 128 ^^^ (if 2 ^ 127 ≤ v then 0x87 else 0))

/-- The 8 blocks of a 128-byte line through a block function, each under its tweak. -/
def xtsBlocks (f : List Byte → List Byte) : Nat → List Byte → List Byte → List Byte
  | 0, _, _ => []
  | n + 1, t, bs => xorBytes (f (xorBytes (bs.take 16) t)) t ++ xtsBlocks f n (nextTweak t) (bs.drop 16)

/-- A line under a key pair (the data key in its first 32 bytes, the tweak key in the others) and a data-unit number. -/
def xtsLine (f : List (List Byte) → List Byte → List Byte) (key : BitVec 512) (unit : Nat) (line : BitVec 1024) : BitVec 1024 :=
  let ks := natToBytes 64 key.toNat
  let t := aesEncrypt (keyWords (ks.drop 32)) (natToBytes 16 unit)
  BitVec.ofNat 1024 (bytesToNat (xtsBlocks (f (keyWords (ks.take 32))) 8 t (natToBytes 128 line.toNat)))

/-- AES-256-XTS encryption of one 128-byte line: key pair, data-unit number, plaintext. -/
def xtsEncrypt (key : BitVec 512) (unit : Nat) (line : BitVec 1024) : BitVec 1024 := xtsLine aesEncrypt key unit line

/-- AES-256-XTS decryption of one 128-byte line. -/
def xtsDecrypt (key : BitVec 512) (unit : Nat) (line : BitVec 1024) : BitVec 1024 := xtsLine aesDecrypt key unit line

/-! ### GCM (R171, R413) -/

/-- Bytes as a number, the first byte highest. -/
def bigEndian (bs : List Byte) : Nat := bytesToNat bs.reverse

def toBigEndian (n v : Nat) : List Byte := (natToBytes n v).reverse

/-- Product of two blocks in the field of GCM, whose first bit is the coefficient of 1. -/
def gcmMul (x y : Nat) : Nat :=
  ((List.range 128).foldl (fun (r : Nat × Nat) i =>
    (if x.testBit (127 - i) then r.1 ^^^ r.2 else r.1, r.2 / 2 ^^^ (if r.2 % 2 = 1 then 0xE1 * 2 ^ 120 else 0))) (0, y)).1

/-- GHASH of blocks of 16 bytes. -/
def ghash (h : Nat) (blocks : List (List Byte)) : Nat := blocks.foldl (fun y b => gcmMul (y ^^^ bigEndian b) h) 0

/-- The counter block `n` of a 12-byte IV. -/
def gcmBlock (ws : List (List Byte)) (iv : List Byte) (n : Nat) : List Byte := aesEncrypt ws (iv ++ toBigEndian 4 n)

/-- The tag of a ciphertext of whole blocks, with no additional data. -/
def gcmTag (ws : List (List Byte)) (iv c : List Byte) : List Byte :=
  let blocks := (List.range (c.length / 16)).map fun i => (c.drop (16 * i)).take 16
  let h := bigEndian (aesEncrypt ws (List.replicate 16 0))
  xorBytes (toBigEndian 16 (ghash h (blocks ++ [toBigEndian 16 (8 * c.length)]))) (gcmBlock ws iv 1)

/-- AES-256-GCM opening of a wrapped key pair: 64 bytes of ciphertext, then the 16 bytes of the tag (log 10); none when the tag
does not verify. -/
def gcmOpen (key : BitVec 256) (iv : BitVec 96) (wrapped : List Byte) : Option (BitVec 512) :=
  let ws := keyWords (natToBytes 32 key.toNat)
  let n := natToBytes 12 iv.toNat
  let c := wrapped.take 64
  if gcmTag ws n c = (wrapped.drop 64).take 16 then
    some (BitVec.ofNat 512 (bytesToNat (xorBytes c ((List.range 4).flatMap fun i => gcmBlock ws n (i + 2)))))
  else none

/-! ### SHA-512 -/

/-- The first primes, found by trial. -/
def primes (n : Nat) : List Nat :=
  ((List.range 410).filter fun p => decide (2 ≤ p) && ((List.range 21).all fun d => decide (d < 2) || decide (p ≤ d) || p % d != 0)).take n

/-- The largest number below 2^n whose power `k` is at most `x`. -/
def rootBelow (k x : Nat) : Nat → Nat
  | 0 => 0
  | n + 1 => go n 0
where
  go : Nat → Nat → Nat
  | 0, r => if (r + 1) ^ k ≤ x then r + 1 else r
  | n + 1, r => go n (if (r + 2 ^ (n + 1)) ^ k ≤ x then r + 2 ^ (n + 1) else r)

/-- The constants of the rounds: 64 bits of the fractional parts of the cube roots of the first 80 primes. -/
def shaK : List Word := (primes 80).map fun p => BitVec.ofNat 64 (rootBelow 3 (p * 2 ^ 192) 68)

/-- The initial hash value: the same of the square roots of the first 8. -/
def shaInit : List Word := (primes 8).map fun p => BitVec.ofNat 64 (rootBelow 2 (p * 2 ^ 128) 70)

/-- The message schedule of a block. -/
def shaSchedule (block : List Byte) : List Word :=
  (List.range 64).foldl (fun ws t =>
    let a := ws.getD (t + 1) 0
    let b := ws.getD (t + 14) 0
    ws ++ [(b.rotateRight 19 ^^^ b.rotateRight 61 ^^^ (b >>> 6)) + ws.getD (t + 9) 0
      + (a.rotateRight 1 ^^^ a.rotateRight 8 ^^^ (a >>> 7)) + ws.getD t 0])
    ((List.range 16).map fun i => BitVec.ofNat 64 (bigEndian ((block.drop (8 * i)).take 8)))

/-- One round on the working variables a to h. -/
def shaRound (v : List Word) (kw : Word) : List Word :=
  match v with
  | [a, b, c, d, e, f, g, h] =>
    let t1 := h + (e.rotateRight 14 ^^^ e.rotateRight 18 ^^^ e.rotateRight 41) + ((e &&& f) ^^^ (~~~e &&& g)) + kw
    let t2 := (a.rotateRight 28 ^^^ a.rotateRight 34 ^^^ a.rotateRight 39) + ((a &&& b) ^^^ (a &&& c) ^^^ (b &&& c))
    [t1 + t2, a, b, c, d + t1, e, f, g]
  | _ => v

/-- The hash value after a block. -/
def shaBlock (h : List Word) (block : List Byte) : List Word :=
  List.zipWith (· + ·) h ((List.zipWith (· + ·) shaK (shaSchedule block)).foldl shaRound h)

/-- SHA-512 of a message, as its 64 bytes. -/
def sha512 (m : List Byte) : List Byte :=
  let padded := m ++ 0x80 :: List.replicate ((239 - m.length % 128) % 128) 0 ++ toBigEndian 16 (8 * m.length)
  ((List.range (padded.length / 128)).foldl (fun h i => shaBlock h ((padded.drop (128 * i)).take 128)) shaInit).flatMap
    fun w => toBigEndian 8 w.toNat

/-! ### The field of Curve25519 -/

/-- 2^255 - 19. -/
def pCurve : Nat := 2 ^ 255 - 19

def fSub (a b : Nat) : Nat := (a + pCurve - b) % pCurve

def fMul (a b : Nat) : Nat := a * b % pCurve

/-- Power in the field, over the 255 low bits of the exponent. -/
def fPow (a e : Nat) : Nat :=
  (List.range 255).foldl (fun r i => let q := fMul r r; if e.testBit (254 - i) then fMul q a else q) 1

def fInv (a : Nat) : Nat := fPow a (pCurve - 2)

/-! ### X25519 (R412, R413) -/

/-- A scalar as X25519 and Ed25519 decode it. -/
def clamp (k : Nat) : Nat := (k % 2 ^ 254) / 8 * 8 + 2 ^ 254

/-- A step of the Montgomery ladder on (x2, z2, x3, z3) for the point with coordinate `x1`. -/
def ladderStep (x1 : Nat) (v : Nat × Nat × Nat × Nat) : Nat × Nat × Nat × Nat :=
  match v with
  | (x2, z2, x3, z3) =>
    let a := (x2 + z2) % pCurve
    let b := fSub x2 z2
    let da := fMul (fSub x3 z3) a
    let cb := fMul ((x3 + z3) % pCurve) b
    let aa := fMul a a
    let bb := fMul b b
    let e := fSub aa bb
    let s := (da + cb) % pCurve
    let d := fSub da cb
    (fMul aa bb, fMul e ((aa + 121665 * e) % pCurve), fMul s s, fMul x1 (fMul d d))

/-- X25519 of a private key and a public coordinate. -/
def x25519 (k u : BitVec 256) : BitVec 256 :=
  let n := clamp k.toNat
  let x1 := u.toNat % 2 ^ 255 % pCurve
  let flip (v : Nat × Nat × Nat × Nat) : Nat × Nat × Nat × Nat := (v.2.2.1, v.2.2.2, v.1, v.2.1)
  let v := (List.range 255).foldl (fun v i =>
    if n.testBit (254 - i) then flip (ladderStep x1 (flip v)) else ladderStep x1 v) (1, 0, x1, 1)
  BitVec.ofNat 256 (fMul v.1 (fInv v.2.1))

/-- The public key of a private one. -/
def x25519Public (k : BitVec 256) : BitVec 256 := x25519 k 9

/-! ### Ed25519 (R412) -/

/-- The order of the base point. -/
def pOrder : Nat := 2 ^ 252 + 27742317777372353535851937790883648493

/-- The constant d of the curve. -/
def edD : Nat := fMul (pCurve - 121665) (fInv 121666)

/-- A point in extended coordinates X, Y, Z, T. -/
structure EdPoint where
  x : Nat
  y : Nat
  z : Nat
  t : Nat
  deriving DecidableEq, Repr

def edAdd (d : Nat) (p q : EdPoint) : EdPoint :=
  let a := fMul (fSub p.y p.x) (fSub q.y q.x)
  let b := fMul ((p.y + p.x) % pCurve) ((q.y + q.x) % pCurve)
  let c := fMul (fMul 2 (fMul p.t q.t)) d
  let z := fMul 2 (fMul p.z q.z)
  let e := fSub b a
  let f := fSub z c
  let g := (z + c) % pCurve
  let h := (b + a) % pCurve
  ⟨fMul e f, fMul g h, fMul f g, fMul e h⟩

/-- The base point: y is 4/5, and x is the even root. -/
def edBase : EdPoint :=
  let x := 15112221349535400772501151409588531511454012693041857206046113283949847762202
  let y := fMul 4 (fInv 5)
  ⟨x, y, 1, fMul x y⟩

/-- A multiple of the base point. -/
def edMul (n : Nat) : EdPoint :=
  let d := edD
  let b := edBase
  (List.range 256).foldl (fun r i => let q := edAdd d r r; if n.testBit (255 - i) then edAdd d q b else q) ⟨0, 1, 1, 0⟩

/-- The 32 bytes of a point. -/
def edBytes (p : EdPoint) : List Byte :=
  let i := fInv p.z
  natToBytes 32 (fMul p.y i + 2 ^ 255 * (fMul p.x i % 2))

/-- The public key of a private one of 32 bytes. -/
def edPublic (seed : List Byte) : List Byte := edBytes (edMul (clamp (bytesToNat ((sha512 seed).take 32))))

/-- The signature of a message, 64 bytes. -/
def edSign (seed m : List Byte) : List Byte :=
  let h := sha512 seed
  let a := clamp (bytesToNat (h.take 32))
  let r := bytesToNat (sha512 (h.drop 32 ++ m)) % pOrder
  let rb := edBytes (edMul r)
  let k := bytesToNat (sha512 (rb ++ edPublic seed ++ m)) % pOrder
  rb ++ natToBytes 32 ((r + k * a) % pOrder)

end Sys2Proof.Machine
end

