-- ==== Sys2Proof/Machine/State.lean ====
section
/-! DEFINITION. The state of the KX-4 package: everything the spec names, as plain data, and its value at reset. -/

namespace Sys2Proof.Machine

open Sys2Proof

/-! ### Faults and refusals of the model -/

/-- Reasons for which a step stops. Architectural faults of groups are taken inside the machine (R358) and never
appear here. -/
inductive Fault where
  /-- Raised by a step of the outside world that the spec says cannot take place: an access by a host to an address
  that R206 calls unmapped. Safe: the model stops where the spec gives no answer. -/
  | unmapped (pa : Nat)
  deriving DecidableEq, Repr

/-- Reasons for which an instruction is turned away. -/
inductive Refusal where
  /-- An instruction that has no meaning yet, by its mnemonic. Raised by `exec` alone. Safe. -/
  | notModelled (mnemonic : String)
  /-- An instruction of a stream was given to `exec` while no group or instance of that stream is executing. Raised
  by the meanings of stream instructions when `State.cur` names none. Safe: no such situation exists in the
  package. -/
  | noActor
  deriving DecidableEq, Repr

/-! ### Places and accesses -/

/-- A place that holds bytes: an offset in a core's scratchpad unit (the barrier store at 0x20_0000 and up, R417),
or a device-view physical address (R206) with the bypass mark of PBMT 1 or 2 (R130). -/
inductive Loc where
  | scratch (off : Nat)
  | phys (pa : Nat) (direct : Bool)
  deriving DecidableEq, Repr

/-- Group states (R51). -/
inductive GState where
  | empty | forming | pending | active | blocked | yielding | handler | parked | stopped | saved | retired
  deriving DecidableEq, Repr

/-- Wake conditions of blocking points (R178). -/
inductive Wake where
  | bwait (home : Loc) (asp : Nat) (addr : Word) (p : Bool)
  | mwait
  | deq (q : Word)
  | join
  | xpop
  | yield
  | lda
  | fpark (code arg : Word)
  deriving DecidableEq, Repr

/-- State of an LQ entry (R88 tag byte 8). -/
inductive LqState where
  | free | reserved | complete | held
  deriving DecidableEq, Repr

/-- One LQ entry: 32 lanes of data, the lanes arrived and poisoned, and the entry's state (R88). -/
structure LqEntry where
  data     : SMap (BitVec 32) := []
  arrived  : BitVec 32 := 0
  poisoned : BitVec 32 := 0
  st       : LqState := .reserved
  deriving DecidableEq, Repr

/-- One BQ entry (R26, R418), with where the pages of its block lie, as DISP translated them (R134). -/
structure BqEntry where
  block   : Nat
  payload : List (Nat × Word) := []
  snap    : BitVec 32 := 0
  code    : List Nat := []
  deriving DecidableEq, Repr

/-- Kind of an SAQ entry (R418 byte 260). -/
inductive SaqKind where
  | store | window | atomic
  deriving DecidableEq, Repr

/-- One SAQ entry (R418), with the lanes' virtual addresses for a later fault (R201), the lanes whose page bypasses the
caches (R130), the entry's place in program order and when it was issued (R48); `half` says that the low halves of a b128
store are written (R214). -/
structure SaqEntry where
  addr   : SMap Nat := []
  va     : SMap Word := []
  mask   : BitVec 32 := 0
  kind   : SaqKind := .store
  size   : Nat := 4
  nt     : Bool := false
  rv     : Bool := false
  asp    : Nat := 0
  place  : Nat := 0
  count  : Nat := 1
  aop    : Nat := 0
  sc     : Nat := 0
  at64   : Bool := false
  resv   : Nat := 0
  pc     : Word := 0
  direct : BitVec 32 := 0
  stamp  : Nat := 0
  at_    : Nat := 0
  half   : Bool := false
  deriving DecidableEq, Repr

/-- One SDQ entry (R418). -/
structure SdqEntry where
  data : SMap (BitVec 32) := []
  mask : BitVec 32 := 0
  deriving DecidableEq, Repr

/-- The access of one lane of a load: where it starts, the runs of bytes it reads, and for a record the format code and
element (R149, R240, R243). -/
structure LaneAcc where
  va    : Word := 0
  parts : List (Loc × Nat) := []
  code  : Nat := 0
  elt   : Nat := 0
  deriving DecidableEq, Repr

/-- What a load delivers to an LQ entry or register from the bytes of a lane (R292, R293, R294). -/
inductive LoadKind where
  | ld (ty : Nat)
  | ldf (bf16 : Bool)
  | lda (ty : Nat) (d : Nat)
  deriving DecidableEq, Repr

/-- A load in flight: its reservation number and address, the lanes still to come, their addresses (for LDF the
element indices and the region base) and accesses, its place in program order (R30, R38). `early` holds, by lane, how many of
its bytes have been read before the rest and their value (R214). -/
structure LoadReq where
  first  : Nat := 0
  pc     : Word := 0
  kind   : LoadKind := .ld 4
  issue  : BitVec 32 := 0
  lanes  : BitVec 32 := 0
  asp    : Nat := 0
  base   : Word := 0
  ea     : SMap Word := []
  acc    : SMap LaneAcc := []
  data   : SMap Word := []
  early  : SMap (Nat × Nat) := []
  stamp  : Nat := 0
  at_    : Nat := 0
  deriving DecidableEq, Repr

/-- A fence not yet in force (R218): its kind bits (acquire, release), its scope and its place in program order. -/
structure FenceRec where
  acq   : Bool
  rel   : Bool
  scope : Nat
  stamp : Nat
  deriving DecidableEq, Repr

/-- A fault record to be taken (R357): code and flags, words 1, 3, 4, 5 and 7, the reservation held, and
the kind of access that R154 gives a page request (1 read, 2 write, 3 atomic, 4 fetch). `asp` is the address space in which
word 3 lies. -/
structure FaultInfo where
  code   : Nat
  pc     : Word := 0
  w3     : Word := 0
  w4     : Word := 0
  w5     : BitVec 32 := 0
  w7     : Word := 0
  cside  : Bool := false
  inslot : Bool := false
  safe   : Bool := false
  done   : Bool := false
  store  : Bool := false
  slot   : Option Nat := none
  kind   : Nat := 1
  asp    : Nat := 0
  deriving DecidableEq, Repr

/-- What a fault holds pending (R38, R370): a load whose lanes are still to be read, the line requests of an atomic that
failed on return, or a store or atomic that faulted at issue, as the SAQ entry it would make, with the lanes still to be
performed in its mask; an STS carries its data by value. -/
inductive HeldKind where
  | load (l : LoadReq)
  | remote (reqs : List Nat)
  | atomic (e : SaqEntry)
  | store (e : SaqEntry) (data : Option Word)
  deriving DecidableEq, Repr

/-- The access a fault holds pending (R38, R370): its kind, its issue mask, the entries it reserved, the values FEMU
wrote (key 32 * entry + lane) whether FSKIP was executed, and whether
the instruction had retired. -/
structure Held where
  kind    : HeldKind
  issue   : BitVec 32
  first   : Nat := 0
  entries : Nat := 0
  emu     : SMap (BitVec 32) := []
  skip    : Bool := false
  done    : Bool := false
  deriving DecidableEq, Repr

/-- A register class of the stall rule (R264). -/
inductive RegRef where
  | v (n : Nat)
  | k (n : Nat)
  | x (n : Nat)
  deriving DecidableEq, Repr

/-- A register write within its latency (R264): the values to come by lane (lane 0 for a k-register), and the cycles
still to pass. -/
structure PendWrite where
  reg  : RegRef
  val  : SMap Word
  left : Nat
  deriving DecidableEq, Repr

/-- Where the C-stream stands inside a block: the index of its first instruction and of the next one, in 12-byte
units from the C-code base (R357 word 2), and where the block's pages lie (R134). -/
structure CPos where
  start : Nat
  idx   : Nat
  code  : List Nat := []
  deriving DecidableEq, Repr

/-- A contribution's status (R94, R99): the twelve status bits, the number of failures it reports and its member
index. -/
structure Status where
  bits     : BitVec 12 := 0
  failures : Nat := 0
  member   : Nat := 0xFFFF
  deriving DecidableEq, Repr

/-- The operations of the matrix units (R334 to R343). -/
inductive MKind where
  | mma (fa fb : Nat)
  | mzero
  | mload (cb : Nat)
  | mstore (cb base : Nat)
  | mdrain (cmd : Nat)
  | mdrainWindow (dest : Word) (pages : SMap Nat)
  deriving DecidableEq, Repr

/-- A matrix operation issued and not complete: the tile, the lanes it acts on, the captured registers (key
32 * register + lane, the A, B and scale registers numbered from 0, 64 and 128), its batch once closed (R340), its place
in program order. -/
structure MOp where
  id    : Nat
  kind  : MKind
  tile  : Nat
  lanes : BitVec 32
  cap   : SMap (BitVec 32) := []
  batch : Option Nat := none
  stamp : Nat := 0
  oecc  : Bool := false
  deriving DecidableEq, Repr

/-- A closed batch that is not finished with: its number, how many batches the group had closed before it, its members not yet
complete, its merged status and its binding (R340, R341). -/
structure Batch where
  n      : Nat
  ord    : Nat := 0
  open_  : List Nat := []
  status : Status := {}
  bound  : Option (Word × Nat) := none
  deriving DecidableEq, Repr

/-- How a stopped group resumes (R70): its state before the stop. -/
structure StopInfo where
  prior   : GState
  skidA   : Nat := 0
  skidC   : Nat := 0
  reason  : Nat
  origin  : BitVec 32
  written : Bool := false
  fault   : Option FaultInfo := none
  deriving DecidableEq, Repr

/-- A group (R45 to R73) with all of its registers, queues and counters. Register files are sparse tables with
default zero: `a` at 32 * n + lane, `v` at 32 * n + lane, `x` at 32 * n + lane. `recs` holds the spawn record of each
lane of a spawned group. `replaced` says that a YIELD has been answered by a new placement (R361), `whole` that the record
of a saved group is a whole-group record (R40), and `slotBase` is where SLOT numbers count from (R399). `out` says that a group
whose state gives it a place in the active set holds none (R46, R48, log 41), and `chunkMark` is how many chunks the context had freed when the fault was taken (R89). `atomRes` is the reservation of an
ATOM that waits for room in the SAQ (R298), `preq` the page request that the handler posted or joined (R153) and `hcall` that
of the group's last HCALL (R369). -/
structure Group where
  ctx      : Nat
  entry    : Nat
  kern     : Nat
  team     : Nat
  handle   : Nat
  index    : Nat
  spawned  : Bool := false
  core     : Nat
  slot     : Nat
  st       : GState := .pending
  s        : SMap Word := []
  a        : SMap Word := []
  v        : SMap (BitVec 32) := []
  k        : SMap Word := []
  x        : SMap (BitVec 16) := []
  h        : SMap Word := []
  pc       : Word := 0
  cpos     : Option CPos := none
  em       : BitVec 32 := 0
  cmask    : BitVec 32 := 0
  snap     : BitVec 32 := 0
  present  : BitVec 32 := 0
  ctr      : SMap (BitVec 16) := []
  lq       : List LqEntry := []
  hold     : List LqEntry := []
  resv     : Nat := 0
  loads    : List LoadReq := []
  saq      : List SaqEntry := []
  sdq      : List SdqEntry := []
  xq       : List Word := []
  bq       : List BqEntry := []
  kput     : List (Nat × Word) := []
  xb       : SMap (Nat × Nat) := []
  pend     : List PendWrite := []
  obuf     : List Nat := []
  recs     : List Nat := []
  lastSp   : Option (BitVec 16) := none
  hLastSp  : Option (BitVec 16) := none
  follow   : Bool := false
  hFollow  : Bool := false
  spcnt    : Nat := 0
  stub     : Option (Nat × Nat) := none
  retired  : Nat := 0
  fvec     : BitVec 32 := 0xFFFFFFFF
  poison   : BitVec 32 := 0
  hcst     : Nat := 0
  yreq     : Bool := false
  evict    : Bool := false
  frec     : SMap Word := []
  retPc    : Word := 0
  held     : Option Held := none
  faultLocks : List Nat := []
  refused  : List Nat := []
  refusedC : List Nat := []
  fkind    : Nat := 0
  fmapFull : Bool := false
  badRegs  : List (RegRef × BitVec 32) := []
  corRegs  : List (RegRef × BitVec 32) := []
  wake     : Option Wake := none
  woken    : Bool := false
  blockedAt : Nat := 0
  mon      : Option (Nat × Bool) := none
  batchN   : Nat := 0
  closed   : Nat := 0
  mbind    : Option (Word × Nat) := none
  mops     : List MOp := []
  openDone : Nat := 0
  openStat : Status := {}
  batches  : List Batch := []
  fences   : List FenceRec := []
  seq      : Nat := 0
  ntOut    : Nat := 0
  afaults  : List (FaultInfo × Option Held) := []
  atomRes  : Option Nat := none
  preq     : Option Nat := none
  hcall    : Option Nat := none
  ldaDone  : Bool := false
  deqRec   : List (BitVec 8) := []
  replaced : Bool := false
  whole    : Bool := false
  slotBase : Nat := 0
  ldaVal   : SMap Word := []
  rval     : SMap Word := []
  rbad     : Option (Nat × Nat × Nat) := none
  stop     : Option StopInfo := none
  lastA    : Nat := 0
  lastC    : Nat := 0
  out      : Bool := false
  setSince : Nat := 0
  waitSince : Option Nat := none
  bqMark   : Nat := 0
  saveAt   : Nat := 0
  chunkMark : Nat := 0
  deriving DecidableEq, Repr

/-! ### Kernels, teams, spans and graphs -/

/-- Kernel states (R118). -/
inductive KState where
  | enqueued | waiting | ready | placing | running | suspended | draining | retired | faulted | killed
  deriving DecidableEq, Repr

/-- The kernel header (R108). -/
structure Header where
  flags   : Nat := 0
  spdist  : Nat := 64
  aoff    : Nat := 256
  alen    : Nat := 4
  fvec    : Nat := 0xFFFFFFFF
  coff    : Nat := 0
  clen    : Nat := 0
  spoff   : Nat := 0
  spcount : Nat := 1
  slip    : Nat := 64
  share   : Nat := 0
  budget  : Nat := 0
  lanes   : Nat := 32
  na      : Nat := 0
  nv      : Nat := 0
  tiles   : Nat := 0
  scratch : Nat := 0
  bslots  : Nat := 0
  bank    : Nat := 0
  gvrf    : Nat := 0
  gscr    : Nat := 0
  gl1     : Nat := 0
  spawnw  : Nat := 0
  fmask   : Nat := 1
  deriving DecidableEq, Repr

/-- A safe-point table entry (R111). -/
structure SpEntry where
  pc    : Nat := 0xFFFFFFFF
  stub  : Nat := 0xFFFFFFFF
  lqlim : Nat := 0
  xqlim : Nat := 0
  bqlim : Nat := 0
  slive : BitVec 64 := 0
  alive : BitVec 32 := 0
  klive : BitVec 32 := 0
  vlive : BitVec 256 := 0
  tlive : BitVec 96 := 0
  xlive : BitVec 4 := 0
  size  : Nat := 128
  deriving DecidableEq, Repr

/-- Where a piece of launched work reports its end: a work-queue record or a node of a graph (R100, R125). -/
inductive Origin where
  | record (q : Nat) (late : Bool)
  | node (graph idx : Nat)
  deriving DecidableEq, Repr

/-- A kernel instance (R108 to R123). -/
structure Kernel where
  ctx      : Nat
  state    : KState := .ready
  reason   : Nat := 0
  image    : Word := 0
  argv     : Word := 0
  barrier  : Word := 0
  teams    : Nat := 1
  perSpan  : Nat := 1
  scratch  : Nat := 0
  coop     : Bool := false
  prio     : Nat := 0
  handed   : Nat := 0
  origin   : Origin := .record 0 false
  hdr      : Header := {}
  table    : List SpEntry := []
  nextSpan : Nat := 0
  count    : Nat := 0
  first    : Bool := false
  ended    : Nat := 0
  waitFrom : Nat := 0
  deriving DecidableEq, Repr

/-- A team placed or saved (R119, R177): key kernel * 2^32 + team. `sbase` is where its scratchpad begins in the
core, `bbase` its first barrier place. -/
structure Team where
  span   : Nat
  core   : Nat := 0
  sbase  : Nat := 0
  bbase  : Nat := 0
  tbase  : Nat := 0
  placed : Bool := true
  serial : Nat := 0
  saveAt : Nat := 0
  reserved : Nat := 0
  restored : Bool := false
  deriving DecidableEq, Repr

/-- A span's bank-store allocation (R119): key kernel * 2^32 + span. -/
structure Span where
  die  : Nat
  base : Nat
  size : Nat
  deriving DecidableEq, Repr

/-- A node of a task graph (R124), with its successors. -/
structure GNode where
  kind    : Nat := 0
  preds   : Nat := 0
  succs   : List Nat := []
  target  : Word := 0
  yes     : Nat := 0
  no      : Nat := 0xFFFF
  barrier : Word := 0
  deriving DecidableEq, Repr

/-- A graph instance (R124 to R127), with its nodes as Quince read them at start: the nodes launched and not finished,
those that have ended with the status they report, the nodes that are ready, and how often each while node has fired. -/
structure Graph where
  ctx     : Nat
  die     : Nat := 0
  queue   : Nat := 0
  late    : Bool := false
  va      : Word := 0
  area    : Word := 0
  barrier : Word := 0
  prio    : Nat := 0
  started : Bool := false
  nodes   : List GNode := []
  live    : List Nat := []
  done    : List (Nat × Status) := []
  ready   : List Nat := []
  fires   : SMap Nat := []
  failed  : Bool := false
  deriving DecidableEq, Repr

/-! ### Contexts and partitions -/

/-- Context states (R174). -/
inductive CState where
  | created | loaded | running | quiescing | saved | faulted | destroyed
  deriving DecidableEq, Repr

/-- A context (R170 to R175). `freed` counts the chunks it has freed (R89), `prNext` the request records written to its ring
(R154). -/
structure Context where
  owner    : Requester
  part     : Nat := 0
  state    : CState := .loaded
  conf     : Bool := false
  debug    : Bool := false
  keyed    : Bool := false
  pamode   : Bool := false
  asid     : Nat := 0
  root     : Nat := 0
  fmroot   : Nat := 0
  devbase  : Nat := 0
  spawnRing : Nat := 0
  spawnLog : Nat := 24
  pool     : Nat := 0
  quota    : Nat := 0
  chunks   : List Nat := []
  freed    : Nat := 0
  savePool : Nat := 0
  saveLen  : Nat := 0
  gtable   : Nat := 0
  gcount   : Nat := 16
  stopArea : Nat := 0
  evlog    : Nat := 0
  evcount  : Nat := 64
  budget   : Nat := 1
  prRing   : Nat := 0
  prCount  : Nat := 0
  prNext   : Nat := 0
  slot     : Nat := 0
  last     : Nat := 0
  why      : Nat := 0
  cimg     : Word := 0
  cisize   : Nat := 0
  cevt     : Nat := 0
  used     : List (Nat × Nat) := []
  recs     : SMap Nat := []
  token    : Nat := 0
  session  : Option (BitVec 256 × BitVec 96) := none
  deriving DecidableEq, Repr

/-- A proxy hart (R142). -/
structure Proxy where
  hart    : Nat := 0
  imsic   : Nat := 0
  mailbox : Nat := 0
  deriving DecidableEq, Repr

/-- A remote fence being performed (R144, R145), with the accesses it waits for: groups, and the place in program order before
which each must have finished. -/
structure FenceReq where
  who  : Requester
  seq  : Word
  kind : Nat
  va   : Word
  len  : Word
  asid : Nat
  bad  : Bool := false
  wait : List (Nat × Nat) := []
  deriving DecidableEq, Repr

/-- A partition (R162, R163). -/
structure Part where
  hosting : Nat := 0
  masks   : List (BitVec 192) := [0, 0, 0, 0]
  hbase   : Nat := 0
  hlen    : Nat := 0
  ports   : BitVec 32 := 0
  share   : List Nat := [0, 0, 0, 0]
  first   : List Nat := [0xFF, 0xFF, 0xFF, 0xFF]
  up      : Proxy := {}
  hc      : Proxy := {}
  fencing : List FenceReq := []
  deriving DecidableEq, Repr

/-! ### Cores and dies -/

/-- A translation held in a TLB (R139, R140): `va` is the first address, `size` the bytes covered; `fmt` the format
entry, or `none` where the format walk found a bad pointer (R136). -/
structure TlbEnt where
  ctx   : Nat
  va    : Nat
  size  : Nat
  pa    : Nat
  r     : Bool
  w     : Bool
  x     : Bool
  d     : Bool
  glob  : Bool
  direct : Bool
  fmt   : Option (BitVec 8)
  deriving DecidableEq, Repr

/-- A non-leaf entry held in a die's page-walk caches (R140): of an Sv57 table or, with `fmt`, of the format map; `level` is
the level of its table, `va` the first address it covers and `word` its value. -/
structure WalkEnt where
  ctx   : Nat
  fmt   : Bool
  level : Nat
  va    : Nat
  word  : Nat
  deriving DecidableEq, Repr

/-- A line held in an L1 (R210); `stale` marks the clean bytes that an acquire has dropped beside dirty ones (R218). -/
structure L1Line where
  slot    : Nat
  data    : BitVec 1024
  dirty   : BitVec 128 := 0
  stale   : BitVec 128 := 0
  filled  : Nat := 0
  dirtied : Nat := 0
  deriving DecidableEq, Repr

/-- Who holds a range lock (R223, R156): an engine command, a migration slot, or the destination of a window in one round
(R225, R380). -/
inductive LockBy where
  | engine (id : Nat)
  | migration (m : Nat)
  | window (w seq : Nat)
  deriving DecidableEq, Repr

/-- A range-lock entry (R223): lines `first` to `last`, as a destination or as a source. -/
structure Lock where
  first : Nat
  last  : Nat
  dst   : Bool
  by_   : LockBy
  id    : Nat
  deriving DecidableEq, Repr

/-- A core: its split, its scratchpad unit, L1, L1 TLB, scratchpad range locks and coalescer (R1, R196, R208,
R210, R223). -/
structure Core where
  failed  : Bool := false
  split   : Nat × Nat × Nat := (8, 8, 4)
  pendSplit : Option (Nat × Nat × Nat × Nat) := none
  scratch : SMap (BitVec 8) := []
  tiles   : SMap (BitVec 32) := []
  tileErr : SMap Bool := []
  l1      : SMap L1Line := []
  tlb     : List TlbEnt := []
  locks   : SMap Lock := []
  nextTag : Nat := 0
  lastPromotion : Nat := 0
  deriving DecidableEq, Repr

/-- A forming entry of Bramble (R57, R58). Records are named by their index in the context's spawn ring. -/
structure Forming where
  kern     : Nat
  team     : Nat
  target   : Word
  records  : List Nat := []
  opened   : Nat := 0
  launched : Option Nat := none
  deriving DecidableEq, Repr

/-- A page-request entry (R146, R154): kind 1 to 4 for a page, 8 for an HCALL of the group. -/
structure PageReq where
  ctx  : Nat
  page : Word
  kind : Nat
  group : Nat := 0
  arg  : Word := 0
  deriving DecidableEq, Repr

/-- A copy that a die's L2 holds of a line homed on another die (R210). -/
structure L2Copy where
  slot : Nat
  data : BitVec 1024
  deriving DecidableEq, Repr

/-- A write that a die has taken into its L2 and is still to forward to the line's home (R210): bytes by their place in the
line. -/
structure Forward where
  line  : Nat
  slot  : Nat
  bytes : List (Nat × BitVec 8)
  deriving DecidableEq, Repr

/-- A compute die: its TLB, page-walk caches, range locks, page-request table, Bramble's forming table and the records waiting for it,
the copies in its L2 of lines homed elsewhere and the writes it is still to forward, oldest first (R57, R140, R146, R210,
R223). -/
structure Die where
  tlb      : List TlbEnt := []
  walks    : List WalkEnt := []
  locks    : SMap Lock := []
  preqs    : SMap PageReq := []
  forming  : SMap Forming := []
  waiting  : List (Nat × Nat) := []
  throttled : Bool := false
  powered  : Bool := true
  copies   : SMap L2Copy := []
  fwd      : List Forward := []
  deriving DecidableEq, Repr

/-! ### Queues, engines, migration, barriers -/

/-- A record held in a resident place of a work queue (R80, R83); for a head, when it became eligible and by how much
its priority has risen (R82). -/
structure Resident where
  bytes    : List (BitVec 8)
  notBefore : Nat := 0
  late     : Bool := false
  eligible : Option Nat := none
  rise     : Nat := 0
  deriving DecidableEq, Repr

/-- A work queue and its descriptor (R84). -/
structure Queue where
  en      : Bool := false
  pull    : Bool := false
  prio    : Nat := 0
  ctx     : Nat := 0
  qbase   : Nat := 0
  quota   : Nat := 0
  res     : List Resident := []
  spilled : Nat := 0
  ringHead : Nat := 0
  lateMarks : List Bool := []
  refused : Nat := 0
  lateCnt : Nat := 0
  badbar  : Bool := false
  badwr   : Bool := false
  malf    : Bool := false
  refq    : Bool := false
  refd    : Bool := false
  deriving DecidableEq, Repr

/-- Who an engine command acts for (R223, R415): a group, with its handle, or a launch record, with its barrier. -/
inductive EngFor where
  | group (g handle : Nat)
  | record (o : Origin) (barrier : Word)
  deriving DecidableEq, Repr

/-- The engine commands (R345, R346, R343, R415), with the fields of their blocks. An address in space 1 or 2 is held as
the place it names; a drain of space 0 holds where each page of its destination lies. -/
inductive EngKind where
  | cpy (src dst len : Nat)
  | cpysp (src dst row rows sp dp : Nat)
  | gath (tab dst cnt idx bound esz : Nat)
  | scat (src tab cnt idx bound esz : Nat)
  | spillb (first cnt dst : Nat)
  | filla (src first cnt : Nat)
  | mdrain (dst fmt : Nat) (rows : BitVec 64) (pages : SMap Nat)
  deriving DecidableEq, Repr

/-- An engine command outstanding (R223, R347, R348). `todo` holds the portions not yet performed, as offset and
length; `wait` the blocks of the group that must finish before its registers are read (R349), and `ready` is set once they
or its tile have been read into `cap`. `noTrans` holds the pages that did not translate at issue (key twice the page, plus
one for a write) with their fault code. -/
structure EngCmd where
  kind    : EngKind
  for_    : EngFor
  ctx     : Nat
  die     : Nat
  core    : Nat
  token   : Nat
  ssp     : Nat := 0
  dsp     : Nat := 0
  barrier : Option Loc := none
  todo    : List (Nat × Nat) := []
  ready   : Bool := true
  registered : Bool := true
  cap     : SMap (BitVec 32) := []
  logged  : Bool := false
  failed  : Bool := false
  stamp   : Nat := 0
  noTrans : SMap Nat := []
  kern    : Nat := 0
  wait    : Nat := 0
  srcs    : List (Loc × Nat) := []
  oecc    : Bool := false
  deriving DecidableEq, Repr

/-- A migration slot (R155). `src` and `to_` are the places that a GO found, `rctx`, `rsize` and `rva` the context, SIZE and
address that it took: the migration under way goes by them whatever is written to the registers. -/
structure Migr where
  state : Nat := 0
  ctx   : Nat := 0
  size  : Nat := 0
  va    : Word := 0
  dst   : Nat := 0
  bar   : Word := 0
  src   : Nat := 0
  to_   : Nat := 0
  rctx  : Nat := 0
  rsize : Nat := 0
  rva   : Word := 0
  waiting : Bool := false
  wait  : List (Nat × Nat) := []
  deriving DecidableEq, Repr

/-- The update a barrier home performs (R96). -/
inductive BarOp where
  | init (n : Nat)
  | arrive (m : Nat) (st : Status)
  | expect (t : Nat)
  | complete (t : Nat) (st : Status)
  deriving DecidableEq, Repr

/-- A barrier update on its way to its home (R96, R350): the core of a scratchpad home, the key slot, the group that sent
it, if a group did, and the window and round it ends, if it is an ACKW's (R380). -/
structure BarUpd where
  home  : Loc
  core  : Nat
  slot  : Nat
  from_ : Option Nat
  op    : BarOp
  win   : Option (Nat × Nat) := none
  deriving DecidableEq, Repr

/-! ### Fabric and links -/

/-- A remote line request outstanding at this package (R196 to R203). `g` is the group (0 once it has ended), `first` the
load's reservation number or the store's place, `issue` the issue mask of an atomic; a request in retry-later holds the time
of its next sending and when it was first refused. -/
structure RReq where
  core    : Nat
  g       : Nat
  ctx     : Nat := 0
  part    : Nat := 0
  lanes   : BitVec 32 := 0
  held    : Bool := false
  line    : LineReq
  op      : Nat
  dst     : Nat
  tag     : Nat := 0
  stamp   : Nat := 0
  resv    : Nat := 0
  issue   : BitVec 32 := 0
  pc      : Word := 0
  addr    : Word := 0
  sync    : Bool := false
  nt      : Bool := false
  sent    : Bool := false
  began   : Nat := 0
  retryAt : Option Nat := none
  refusedAt : Option Nat := none
  tries   : Nat := 0
  opened  : Nat := 0
  deriving DecidableEq, Repr

/-- A packet this package sent and holds for resending until its requests are answered (R192, R204), with the partition it was
sent for and its sequence number. -/
structure Sent where
  pkt   : Packet
  part  : Nat := 0
  seq   : Nat := 0
  reqs  : List Nat
  at_   : Nat
  tries : Nat := 0
  deriving DecidableEq, Repr

/-- A UE message on an Ethernet port (R192, R193, R197): the sending package and the partition it sends for, if any; the
package it goes to and the port it leaves on; whether it is delivered idempotent (RUDI) or once (RUD), under its sequence
number; its payload. -/
structure Wire where
  src   : Nat
  part  : Option Nat := none
  dst   : Nat
  port  : Nat := 0
  idem  : Bool := false
  seq   : Nat := 0
  bytes : List (BitVec 8)
  deriving DecidableEq, Repr

/-- An export entry (R194). -/
structure Export where
  w0 : Word := 0
  w1 : Word := 0
  w2 : Word := 0
  w3 : Word := 0
  deriving DecidableEq, Repr

/-- A credit notice (R390): the receiver `from_` of communicator `comm` returns one credit to the sender `to_`. -/
structure Credit where
  comm  : BitVec 32
  from_ : Nat
  to_   : Nat
  deriving DecidableEq, Repr

/-- A window store that has left its core (R225, R378): its window, the stored elements as offset and value, the
number of close lanes, and the ST it belongs to, by the first serial number that ST was given. -/
structure WinStore where
  core   : Nat
  window : Nat
  plan   : Nat
  items  : List (Nat × BitVec 8)
  closes : Nat := 0
  pair   : Nat := 0
  deriving DecidableEq, Repr

/-- A collective message that has left this package and is held until it is acknowledged (R204): when it was first sent, and
the port it leaves on (R392). -/
structure OutMsg where
  msg  : DMsg
  at_  : Nat
  port : Option Nat := none
  deriving DecidableEq, Repr

/-- Ports, routes, exports and the packets in hand (R192 to R204). `net` to `stores` hold what is on its way to this
package or inside it; `out` to `outCredits` what has left it. `seen` lists the messages delivered once (R192), and `rxFull` says
that the receive buffers are full (R203). -/
structure Fabric where
  pkgId   : Nat := 0
  routes  : SMap Word := []
  exports : SMap Export := []
  reqs    : SMap RReq := []
  sent    : SMap Sent := []
  net     : SMap Packet := []
  msgs    : SMap DMsg := []
  notes   : SMap DNotice := []
  credits : SMap Credit := []
  stores  : SMap WinStore := []
  out     : List Wire := []
  seen    : List (Nat × Option Nat × Nat) := []
  rxFull  : Bool := false
  outMsgs : SMap OutMsg := []
  outNotes : List DNotice := []
  outCredits : List Credit := []
  hostReset : Bool := false
  portsUp : Bool := false
  offsets : SMap Nat := []
  deriving DecidableEq, Repr

/-- Link states (R190). -/
inductive LState where
  | down | training | up | degraded | retraining | failed
  deriving DecidableEq, Repr

/-- A flit in a replay buffer (R188, R189), with the times it has been replayed. -/
structure Flit where
  seq     : Nat
  cls     : Nat
  bytes   : List (BitVec 8)
  replays : Nat := 0
  deriving DecidableEq, Repr

/-- One end of a link (R187, R189): what it has sent and not had acknowledged, the flits of a failed link that it must send
first, the SEQs it has to replay before anything new, when it received NAKs, the next SEQ it accepts, whether it owes a NAK,
and the payloads it has accepted and its die has not taken, by class. -/
structure LinkEnd where
  txSeq    : Nat := 0
  replay   : List Flit := []
  again    : List Nat := []
  owed     : List Flit := []
  nakTimes : List Nat := []
  rxSeq    : Nat := 0
  nakDue   : Bool := false
  got      : List (Nat × List (BitVec 8)) := []
  deriving DecidableEq, Repr

/-- A die-to-die link (R186 to R191): its state machine, its working and its dropped lanes, MINLANES as written, the NAKs
counted, the training attempts in a row, and its ends at the compute die and at the switch die. -/
structure Link where
  state    : LState := .down
  lanes    : BitVec 16 := 0
  dropped  : BitVec 16 := 0
  minLanes : BitVec 5 := 8
  naks     : Nat := 0
  tries    : Nat := 0
  die      : LinkEnd := {}
  switch   : LinkEnd := {}
  deriving DecidableEq, Repr

/-! ### Damask -/

/-- A window descriptor (R374). -/
structure WinDesc where
  kind    : Nat := 1
  store   : Nat := 0
  wire    : Nat := 0
  dest    : Nat := 0
  closers : Nat := 1
  length  : Nat := 8
  dva     : Word := 0
  bva     : Word := 0
  deriving DecidableEq, Repr

/-- A loaded window (R377, R378): its plan and index, its contribution area (elements as FP32 bits with default -0
for REDUCE, bytes with default 0 otherwise), the closes counted, the chunk scales set in this round, and the homes at which
an ACKW's arrival has counted, each with its round (R380). -/
structure Win where
  plan   : Nat
  idx    : Nat
  desc   : WinDesc
  area   : SMap (BitVec 32) := []
  closes : Nat := 0
  scales : SMap (BitVec 8) := []
  counted : List (Loc × Nat) := []
  deriving DecidableEq, Repr

/-- A loaded plan (R372 to R376), with its windows' numbers, its round sequence number, its signal word (R354), the
credits this member has spent toward each peer, and the messages held in its reserved buffers. `ports` is its port set and
`reach` the packages it had a route to, both as they stood at PLAN_LOAD (R392). `staging` is where its staging area lies; what
lies in it is held here and in the windows (R375, log 43). -/
structure Plan where
  ctx     : Nat
  comm    : BitVec 32
  rank    : Nat
  nranks  : Nat
  prio    : Nat := 0
  fanin   : Nat := 1
  chunk   : Nat := 4096
  slotNs  : Nat := 0
  limit   : Nat := 1000000
  nbuf    : Nat := 1
  prog    : List Word := []
  locs    : List (Nat × Nat) := []
  wins    : List Nat := []
  vc      : Nat := 0
  ports   : BitVec 32 := 0
  reach   : List Nat := []
  staging : Nat := 0
  seq     : Nat := 0
  sig     : Word := 0
  used    : SMap Nat := []
  bufs    : List DMsg := []
  deriving DecidableEq, Repr

/-- A Damask instance (R381): one round of a plan at this member. In `acc` an absent element is empty; `accRaw` says that it
holds bytes. `status` is the round status (R94). `keys` are the messages received in this round, `senders` the distinct ranks
that sent, `noticed` the failing members already merged from notices. `scale` to `scaleX` are a SCALEX under way (R387). -/
structure Inst where
  plan    : Nat
  g       : SMap Word := []
  c       : SMap (BitVec 32) := []
  pc      : Nat := 0
  acc     : SMap (BitVec 32) := []
  accRaw  : Bool := false
  status  : Nat := 0x00000000FFFF0000
  seq     : Nat := 0
  arg     : Word := 0
  began   : Nat := 0
  registered : Bool := false
  acked   : List Nat := []
  keys    : List (Nat × Nat × BitVec 16) := []
  senders : List Nat := []
  noticed : List Nat := []
  node    : Option (Nat × Nat) := none
  timed   : Option Word := none
  scale   : Nat := 0
  scaleMax : Nat := 0
  scaleNf : Bool := false
  scaleX  : BitVec 8 := 0
  deriving DecidableEq, Repr

/-- Damask (R372 to R394): plans by handle, windows by number, instances by number 0 to 63, the datapaths in use
with their instance and the time each step ends, the instance each datapath last served in each class (key 4 * path +
class, R392, R405), and the virtual channels held, as port, channel and communicator. -/
structure Damask where
  plans  : SMap Plan := []
  wins   : SMap Win := []
  insts  : SMap Inst := []
  paths  : SMap (Nat × Nat) := []
  served : SMap Nat := []
  chans  : List (Nat × Nat × BitVec 32) := []
  nextHandle : Nat := 1
  deriving DecidableEq, Repr

/-! ### Imqua -/

/-- A journal entry (R167): mailbox, request ID, the command record, and the outcome, absent while begun. -/
structure JEntry where
  box   : Requester
  id    : Word
  cmd   : List (BitVec 8)
  reply : Option (Nat × List (BitVec 8)) := none
  deriving DecidableEq, Repr

/-- A command mailbox (R165): bytes 0 to 511 and the doorbell bits. -/
structure Mailbox where
  bytes : SMap (BitVec 8) := []
  done  : Bool := false
  lost  : Bool := false
  busy  : Bool := false
  deriving DecidableEq, Repr

/-- Imqua: mailboxes, what it keeps in flash (R167, R193, R407, R409, R412), the boot state (R406), margins (R409)
and power conditions (R414). `bootCnt` and `skipped` are the boot journal bytes. A margin table lists the cores whose supply
voltage, in mV, is not the factory table's; `margin` is the table in force and `volts` what the cores now get. `powered` is
the time in ticks since the last re-plan, and `drift` the worst drift since then. `certificate` is the Lyfold certificate of the
identity key, as flash holds it (R412, log 9). -/
structure Imqua where
  host     : Mailbox := {}
  hc       : Mailbox := {}
  journal  : List JEntry := []
  bootCnt  : SMap Nat := []
  skipped  : List Nat := []
  booted   : Bool := false
  safe     : Bool := false
  image    : Nat := 0
  slowHbm  : Bool := false
  starts   : Nat := 0
  flashId  : Nat := 0
  flashRoutes : SMap Word := []
  flashFailed : List Nat := []
  marginFail : List Nat := []
  flashMargin : SMap Nat := []
  flashMarginV : Nat := 0
  margin   : SMap Nat := []
  marginV  : Nat := 0
  volts    : SMap Nat := []
  lastVolt : Nat := 0
  drift    : List Nat := [0, 0, 0, 0]
  powered  : Nat := 0
  lastSample : Nat := 0
  sessions : Nat := 0
  evidence : SMap (BitVec 8) := []
  certificate : List (BitVec 8) := []
  throttled : Bool := false
  deriving DecidableEq, Repr

/-! ### The package -/

/-- What the package interrupts a requester for: its mailbox has a reply (R165), a link is degraded (R190), the margin table
is planned anew (R411), the upstream host has reset its port (R184). -/
inductive Irq where
  | mailbox
  | link (l : Nat)
  | replan
  | hostReset
  deriving DecidableEq, Repr

/-- Who executes an instruction: a group's stream or a Damask instance. -/
inductive Actor where
  | none
  | group (g : Nat)
  | damask (i : Nat)
  deriving DecidableEq, Repr

/-- What one turn of the agenda does: a group's A-stream or C-stream issues, a Damask instance executes, an event
or outside act takes place, or another package's packet, message, notice or credit sets out for
this one, or a line, register or tile meets an error, a clock offset estimate changes (R391), or the package ID record or a route of
the flash is written (R193). -/
inductive Move where
  | a (g : Nat)
  | c (g : Nat)
  | odnar (i : Nat)
  | ev (i : Instr)
  | packet (w : Wire)
  | rxFull (on : Bool)
  | linkTake (l : Nat) (toDie : Bool) (cls : Nat)
  | message (m : DMsg)
  | notice (n : DNotice)
  | credit (c : Credit)
  | ecc (line : Nat) (bad : Bool)
  | forward (die : Nat)
  | readAhead (g n lane k : Nat)
  | halfStore (g : Nat)
  | dropCopy (die line : Nat)
  | eccCorr (line : Nat) (on : Bool)
  | eccReg (g : Nat) (r : RegRef) (lanes : BitVec 32) (corrected : Bool)
  | eccTile (core tile : Nat) (corrected : Bool)
  | clock (pkg off : Nat)
  | flashId (n : Nat)
  | flashRoute (pkg : Nat) (v : Word)
  deriving DecidableEq, Repr

/-- One turn: the time that passes before it, in ticks of 1/17 ns (one cycle is 10 ticks, R2), and the move. -/
structure Turn where
  dt   : Nat
  move : Move
  deriving DecidableEq, Repr

/-- The whole package. `agenda`, `cur` and `free` are the model's own: the order in which agents move, who executes
the present instruction, and the counter that free values are drawn with. `cxlData` is what the upstream host's last CXL.mem
read returned (R18, R211). -/
structure State where
  agenda  : List Turn := []
  cur     : Actor := .none
  free    : Nat := 0
  now     : Nat := 0
  serial  : Nat := 1
  mem     : List Host.Cell := []
  lineKey : SMap Nat := []
  bad     : List Nat := []
  corr    : List Nat := []
  keys    : SMap (BitVec 512) := []
  groups  : SMap Group := []
  teams   : SMap Team := []
  spans   : SMap Span := []
  kernels : SMap Kernel := []
  graphs  : SMap Graph := []
  ctxs    : SMap Context := []
  parts   : SMap Part := []
  cores   : SMap Core := []
  dies    : SMap Die := []
  queues  : SMap Queue := []
  engines : SMap EngCmd := []
  migr    : SMap Migr := []
  homeQ   : List BarUpd := []
  fabric  : Fabric := {}
  links   : SMap Link := []
  damask  : Damask := {}
  imqua   : Imqua := {}
  irqs    : List (Requester × Irq) := []
  cxlData : List (BitVec 8) := []
  deriving DecidableEq, Repr

/-- The machine right after reset (R406 before its first step): nothing created, every table empty, every register
at the value the spec gives it. -/
def State.reset : State := {}

end Sys2Proof.Machine
end

