-- ==== Sys2Proof/Machine/Ops.lean ====
section
/-! DEFINITION. Named operations over memory, caches, translation, range locks, groups and their queues, and the
taking of faults: everything the meanings share. -/

namespace Sys2Proof.Machine

open Sys2Proof

/-- The answer of a step. -/
abbrev Res := Host.Outcome State Fault Refusal

/-! ### Bits and lanes -/

/-- The lanes of a group in ascending order. -/
def allLanes : List Nat := List.range 32

/-- The lanes of a mask in ascending order. -/
def lanesOf (m : BitVec 32) : List Nat := allLanes.filter fun l => m.getLsbD l

/-- The mask with one lane set. -/
def laneBit (l : Nat) : BitVec 32 := BitVec.ofNat 32 (2 ^ l)

/-- The mask of some lanes. -/
def maskOf (ls : List Nat) : BitVec 32 := ls.foldl (fun m l => m ||| laneBit l) 0

/-- The number of bits set. -/
def popc (w v : Nat) : Nat := ((List.range w).filter fun i => v.testBit i).length

/-- Bits `lo + n - 1 : lo` of a value. -/
def bits (v lo n : Nat) : Nat := v / 2 ^ lo % 2 ^ n

/-- The lanes of quads that hold any lane of the mask (R21). -/
def quadsOf (m : BitVec 32) : BitVec 32 :=
  maskOf (allLanes.filter fun l => (List.range 4).any fun j => m.getLsbD (4 * (l / 4) + j))

/-- The helper lanes of a present mask (R21). -/
def helpers (present : BitVec 32) : BitVec 32 := quadsOf present &&& ~~~present

/-! ### The device-view map (R206) -/

def isHbm (pa : Nat) : Bool := decide (pa < 0x10000000000)
def isBank (pa : Nat) : Bool := decide (0x10000000000 ≤ pa) && decide (pa < 0x10040000000)
def isAlias (pa : Nat) : Bool := decide (0x20000000000 ≤ pa) && decide (pa < 0x30000000000)
def isEnq (pa : Nat) : Bool := decide (0x30000000000 ≤ pa) && decide (pa < 0x30000010000)
def isDev (pa : Nat) : Bool := decide (0x40000000000 ≤ pa) && decide (pa < 0x40001000000)
def isHostMem (pa : Nat) : Bool := decide (0x100000000000 ≤ pa) && decide (pa < 0x80000000000000)
def isFabric (pa : Nat) : Bool := pa.testBit 55

/-- The die that owns a local physical address: the die of its HBM range or of its bank store. -/
def dieOf (pa : Nat) : Nat :=
  if isHbm pa then pa / 0x4000000000 else (pa - 0x10000000000) / 0x10000000

/-! ### Bytes of memory -/

/-- The byte a cell of memory holds; an unlisted cell reads as zero (log 5). -/
def cell (s : State) (pa : Nat) : Byte := SMap.get s.mem 0 pa

/-- The key slot under which an HBM line is held (R160); slot 0 everywhere else. -/
def lineSlot (s : State) (pa : Nat) : Nat := if isHbm pa then SMap.get s.lineKey 0 (pa / 128) else 0

/-- The 128 bytes of a line, byte 0 lowest. -/
def rawLine (s : State) (line : Nat) : BitVec 1024 :=
  BitVec.ofNat 1024 (bytesToNat ((List.range 128).map fun i => cell s (128 * line + i)))

/-- The key pair a slot holds; a slot that holds none reads as zero. -/
def keyOf (s : State) (slot : Nat) : BitVec 512 := SMap.get s.keys 0 slot

/-- The plaintext of a line read under another slot than the one it is held under (R160): its ciphertext under its
own slot, decrypted under the reader's; the data-unit number is the line's address. -/
def reKey (s : State) (line have_ want : Nat) (p : BitVec 1024) : BitVec 1024 :=
  let c := if have_ = 0 then p else xtsEncrypt (keyOf s have_) (128 * line) p
  if want = 0 then c else xtsDecrypt (keyOf s want) (128 * line) c

/-- The line as an access under `slot` sees it (R160). -/
def lineImage (s : State) (slot line : Nat) : BitVec 1024 :=
  let h := lineSlot s (128 * line)
  if h = slot ∨ ¬ isHbm (128 * line) then rawLine s line else reKey s line h slot (rawLine s line)

/-- One byte at a home, under a slot. -/
def memByte (s : State) (slot pa : Nat) : Byte :=
  if isHbm pa ∧ lineSlot s pa ≠ slot then (lineImage s slot (pa / 128)).extractLsb' (8 * (pa % 128)) 8
  else cell s pa

/-- `n` bytes at a home, under a slot, lowest address first. -/
def memBytes (s : State) (slot pa n : Nat) : List Byte := (List.range n).map fun i => memByte s slot (pa + i)

/-- `Mem[pa, n]` as a little-endian value (R13). -/
def memNat (s : State) (slot pa n : Nat) : Nat := bytesToNat (memBytes s slot pa n)

/-- Write one cell, keeping the canonical form. -/
def setCell (s : State) (pa : Nat) (b : Byte) : State := { s with mem := SMap.set s.mem 0 pa b }

/-- Write cells from an address on. -/
def setCells (s : State) (pa : Nat) : List Byte → State
  | [] => s
  | b :: bs => setCells (setCell s pa b) (pa + 1) bs

/-- Bring an HBM line under a slot before it is written (R160). -/
def claimLine (s : State) (slot pa : Nat) : State :=
  if isHbm pa ∧ lineSlot s pa ≠ slot then
    let img := lineImage s slot (pa / 128)
    let s' := setCells s (128 * (pa / 128)) (natToBytes 128 img.toNat)
    { s' with lineKey := SMap.set s'.lineKey 0 (pa / 128) slot }
  else s

/-- Write bytes at a home, under a slot. -/
def memWrite (s : State) (slot pa : Nat) : List Byte → State
  | [] => s
  | b :: bs => memWrite (setCell (claimLine s slot pa) pa b) slot (pa + 1) bs

/-- A line that holds an uncorrectable error (R131, R306). -/
def badLine (s : State) (pa : Nat) : Bool := s.bad.contains (pa / 128)

/-- A line of a run of bytes holds an uncorrectable error. -/
def badRun (s : State) (pa n : Nat) : Bool := (List.range ((pa % 128 + n + 127) / 128)).any fun i => badLine s (pa + 128 * i)

/-- The lines of a run of bytes, each with the offset of its first byte in the run. -/
def runLines (pa n : Nat) : List (Nat × Nat) :=
  (List.range ((pa % 128 + n + 127) / 128)).map fun i => (pa / 128 + i, 128 * i - pa % 128)

/-- A line of a run of bytes holds an error that a read corrects (R100). -/
def corrRun (s : State) (pa n : Nat) : Bool := (runLines pa n).any fun x => s.corr.contains x.1

/-! ### Reading and changing parts of the state -/

def grp? (s : State) (g : Nat) : Option Group := SMap.find? s.groups g
def setGrp (s : State) (g : Nat) (x : Group) : State := { s with groups := SMap.put s.groups g x }
def modGrp (s : State) (g : Nat) (f : Group → Group) : State := { s with groups := SMap.modify s.groups g f }
def ctxOf (s : State) (c : Nat) : Context :=
  (SMap.find? s.ctxs c).getD { owner := .host, state := .destroyed }
def modCtx (s : State) (c : Nat) (f : Context → Context) : State := { s with ctxs := SMap.modify s.ctxs c f }
def partOf (s : State) (p : Nat) : Part := SMap.get s.parts {} p
def kern? (s : State) (k : Nat) : Option Kernel := SMap.find? s.kernels k
def modKern (s : State) (k : Nat) (f : Kernel → Kernel) : State := { s with kernels := SMap.modify s.kernels k f }
def hdrOf (s : State) (k : Nat) : Header := ((kern? s k).map (·.hdr)).getD {}
def coreOf (s : State) (c : Nat) : Core := SMap.get s.cores {} c
def setCore (s : State) (c : Nat) (x : Core) : State := { s with cores := SMap.set s.cores {} c x }
def modCore (s : State) (c : Nat) (f : Core → Core) : State := setCore s c (f (coreOf s c))
def dieSt (s : State) (d : Nat) : Die := SMap.get s.dies {} d
def modDie (s : State) (d : Nat) (f : Die → Die) : State :=
  { s with dies := SMap.set s.dies {} d (f (dieSt s d)) }
def queueOf (s : State) (q : Nat) : Queue := SMap.get s.queues {} q
def modQueue (s : State) (q : Nat) (f : Queue → Queue) : State :=
  { s with queues := SMap.set s.queues {} q (f (queueOf s q)) }
def migrOf (s : State) (m : Nat) : Migr := SMap.get s.migr {} m
def modMigr (s : State) (m : Nat) (f : Migr → Migr) : State :=
  { s with migr := SMap.set s.migr {} m (f (migrOf s m)) }
def linkOf (s : State) (l : Nat) : Link := SMap.get s.links {} l
def modLink (s : State) (l : Nat) (f : Link → Link) : State :=
  { s with links := SMap.set s.links {} l (f (linkOf s l)) }

/-- The key under which a team or span of a kernel is held. -/
def teamKey (k t : Nat) : Nat := k * 4294967296 + t

def team? (s : State) (k t : Nat) : Option Team := SMap.find? s.teams (teamKey k t)
def modTeam (s : State) (k t : Nat) (f : Team → Team) : State :=
  { s with teams := SMap.modify s.teams (teamKey k t) f }

/-- The die of a core (core numbers run over the package, 192 to a die). -/
def coreDie (c : Nat) : Nat := c / 192

/-- Fabric time in ns (R363 FTIME); `now` counts ticks of 1/17 ns (log 4). -/
def ftime (s : State) : Nat := s.now / 17

/-- Ticks of a number of cycles (R2). -/
def cycles (n : Nat) : Nat := 10 * n

/-- The key slot of a context's own accesses (R160). -/
def slotOf (s : State) (c : Nat) : Nat := (ctxOf s c).slot

/-- The groups of a team, spawned groups included, by group number. -/
def teamGroups (s : State) (k t : Nat) : List (Nat × Group) :=
  s.groups.filter fun e => e.2.kern = k ∧ e.2.team = t

/-- The groups of a kernel. -/
def kernGroups (s : State) (k : Nat) : List (Nat × Group) := s.groups.filter fun e => e.2.kern = k

/-- A group occupies a group slot of its core (R51, R52). -/
def holdsSlot (g : Group) : Bool :=
  match g.st with
  | .pending => true
  | .active => true
  | .blocked => true
  | .yielding => true
  | .handler => true
  | .parked => true
  | .stopped => true
  | _ => false

/-- Draw a fresh value of the free-value counter. -/
def fresh (s : State) : Nat × State := (s.free, { s with free := s.free + 1 })

/-- Draw a fresh serial number. -/
def newSerial (s : State) : Nat × State := (s.serial, { s with serial := s.serial + 1 })

/-! ### Registers of a group -/

/-- The group is in handler state, where scalar fields are read as R259 gives. -/
def inHandler (g : Group) : Bool := g.st = .handler

/-- An s-register of the group itself; s0 reads zero (R10). -/
def sReg (g : Group) (n : Nat) : Word := if n = 0 then 0 else SMap.get g.s 0 n

/-- A scalar operand: h0 to h15 for fields 0 to 15 in handler state, else an s-register (R10, R259). -/
def rs (g : Group) (n : BitVec 6) : Word :=
  if inHandler g ∧ n.toNat < 16 then SMap.get g.h 0 n.toNat else sReg g n.toNat

/-- Write a scalar register; a write to s0 is discarded (R10, R259). -/
def ws (g : Group) (n : BitVec 6) (v : Word) : Group :=
  if inHandler g ∧ n.toNat < 16 then { g with h := SMap.set g.h 0 n.toNat v }
  else if n.toNat = 0 then g
  else { g with s := SMap.set g.s 0 n.toNat v }

/-- Lane `l` of a-register `n`. -/
def aReg (g : Group) (n l : Nat) : Word := SMap.get g.a 0 (32 * n + l)

def wa (g : Group) (n l : Nat) (v : Word) : Group := { g with a := SMap.set g.a 0 (32 * n + l) v }

/-- Lane `l` of v-register `n`. -/
def vReg (g : Group) (n l : Nat) : BitVec 32 := SMap.get g.v 0 (32 * n + l)

def wv (g : Group) (n l : Nat) (v : BitVec 32) : Group := { g with v := SMap.set g.v 0 (32 * n + l) v }

/-- k-register `n`; k0 reads zero (R10). -/
def kReg (g : Group) (n : Nat) : Word := if n = 0 then 0 else SMap.get g.k 0 n

def wk (g : Group) (n : Nat) (v : Word) : Group := if n = 0 then g else { g with k := SMap.set g.k 0 n v }

def xReg (g : Group) (n l : Nat) : BitVec 16 := SMap.get g.x 0 (32 * n + l)

def wx (g : Group) (n l : Nat) (v : BitVec 16) : Group := { g with x := SMap.set g.x 0 (32 * n + l) v }

/-- Write the A-side exec mask, ANDed with the present mask (R31). -/
def wem (g : Group) (m : BitVec 32) : Group := { g with em := m &&& g.present }

/-! ### Register writes within their latency (R264) -/

/-- The lanes of a register in which a list of errors holds it. -/
def errLanes (l : List (RegRef × BitVec 32)) (r : RegRef) : BitVec 32 :=
  l.foldl (fun m x => if x.1 = r then m ||| x.2 else m) 0

/-- A write to some lanes of a register ends their errors. -/
def mendLanes (l : List (RegRef × BitVec 32)) (r : RegRef) (m : BitVec 32) : List (RegRef × BitVec 32) :=
  l.filterMap fun x => if x.1 = r then (if x.2 &&& ~~~m = 0 then none else some (x.1, x.2 &&& ~~~m)) else some x

/-- A C-stream write takes effect. -/
def applyWrite (g : Group) (p : PendWrite) : Group :=
  let m : BitVec 32 := match p.reg with | .k _ => BitVec.allOnes 32 | _ => maskOf (p.val.map (·.1))
  let g1 := { g with badRegs := mendLanes g.badRegs p.reg m, corRegs := mendLanes g.corRegs p.reg m }
  match p.reg with
  | .v n => p.val.foldl (fun g e => wv g n e.1 (e.2.truncate 32)) g1
  | .k n => wk g1 n (SMap.get p.val 0 0)
  | .x n => p.val.foldl (fun g e => wx g n e.1 (e.2.truncate 16)) g1

/-- What remains of the writes under way after `n` cycles: a write that has taken effect prevails over earlier ones still
to come (R264). -/
def keepPend (n : Nat) : List PendWrite → List PendWrite
  | [] => []
  | e :: rest =>
    let r := keepPend n rest
    if e.left ≤ n then r
    else
      let past (l : Nat) : Bool := rest.any fun y => decide (y.left ≤ n) && decide (y.reg = e.reg) && (SMap.find? y.val l).isSome
      { e with left := e.left - n, val := e.val.filter fun x => !past x.1 } :: r

/-- `n` cycles pass for the writes under way. -/
def agePend (g : Group) (n : Nat) : Group :=
  { (g.pend.filter fun e => decide (e.left ≤ n)).foldl applyWrite g with pend := keepPend n g.pend }

/-- Every latency passes. -/
def flushPend (g : Group) : Group := { g.pend.foldl applyWrite g with pend := [] }

/-- The registers that a SPILLB reads. -/
def spillCap (g : Group) (first cnt : Nat) : SMap (BitVec 32) :=
  (List.range cnt).foldl (fun m r => allLanes.foldl (fun m l => SMap.set m 0 (32 * r + l) (vReg g (first + r) l)) m) []

/-! ### Address windows of a kernel's code -/

/-- The virtual address of the A-code section (R108). -/
def aBase (k : Kernel) : Word := k.image + BitVec.ofNat 64 k.hdr.aoff

/-- The virtual address of C-instruction 0 (R252). -/
def cBase (k : Kernel) : Word := k.image + BitVec.ofNat 64 k.hdr.coff

/-- The A-stream PC lies in the A-code section (R253). -/
def inACode (k : Kernel) (pc : Word) : Bool := decide ((pc - aBase k).toNat < k.hdr.alen)

/-! ### Monitors and writes at a home -/

/-- Mark the monitors armed on the lines of a write performed at its home (R226). -/
def hitMonitors (s : State) (pa n : Nat) : State :=
  { s with groups := s.groups.map fun e =>
      match e.2.mon with
      | some (line, false) =>
        if pa / 128 ≤ line ∧ line ≤ (pa + n - 1) / 128 then (e.1, { e.2 with mon := some (line, true) }) else e
      | _ => e }

/-- The home of a line performs a write: no die keeps a copy of it (R210). -/
def dropCopies (s : State) (pa n : Nat) : State :=
  { s with dies := s.dies.map fun e =>
      (e.1, { e.2 with copies := e.2.copies.filter fun x => !(decide (pa / 128 ≤ x.1) && decide (x.1 ≤ (pa + n - 1) / 128)) }) }

/-- A write performed at its home. -/
def homeWrite (s : State) (slot pa : Nat) (bs : List Byte) : State :=
  if bs.isEmpty then s else dropCopies (hitMonitors (memWrite s slot pa bs) pa bs.length) pa bs.length

/-- Write an `n`-byte little-endian value at a home. -/
def memPut (s : State) (slot pa n v : Nat) : State := homeWrite s slot pa (natToBytes n v)

/-! ### Links between the dies (R186, R190) -/

/-- The link of a die that a line's accesses take: the one that line-address bits 8:7 choose, or the next that has not
failed (R186). -/
def linkFor (s : State) (die pa : Nat) : Option Nat :=
  ((List.range 4).map fun i => 4 * die + (pa / 128 + i) % 4).find? fun l => decide ((linkOf s l).state ≠ .failed)

/-- All four links of a die are FAILED (R190). -/
def cutOff (s : State) (die : Nat) : Bool :=
  (List.range 4).all fun i => decide ((linkOf s (4 * die + i)).state = .failed)

/-- An address that lies off the die, beyond its links. -/
def offDie (die pa : Nat) : Bool := !((isHbm pa || isBank pa) && dieOf pa == die)

/-- An access of a die cannot leave it, or cannot enter the die that owns the place (R190). -/
def severed (s : State) (die pa : Nat) : Bool :=
  offDie die pa && (cutOff s die || ((isHbm pa || isBank pa) && cutOff s (dieOf pa)))

/-- The link between a die and the switch die that an access takes is RETRAINING. -/
def linkHeld (s : State) (die pa : Nat) : Bool :=
  ((linkFor s die pa).map fun l => decide ((linkOf s l).state = .retraining)).getD false

/-- The link that leads into the die of a place is RETRAINING. -/
def enterHeld (s : State) (pa : Nat) : Bool := (isHbm pa || isBank pa) && linkHeld s (dieOf pa) pa

/-- The link that an access takes out of its die, or into the die of the place, is RETRAINING: the access waits (R186). -/
def linkWaits (s : State) (die pa : Nat) : Bool := offDie die pa && (linkHeld s die pa || enterHeld s pa)

/-! ### L2 (R210) -/

/-- A line that a die's L2 holds as a copy only: HBM homed on another die. -/
def farLine (die pa : Nat) : Bool := isHbm pa && dieOf pa != die

/-- Replace bytes of a line. -/
def setBytes (x : BitVec 1024) (bs : List (Nat × Byte)) : BitVec 1024 :=
  bs.foldl (fun x b => x &&& ~~~(BitVec.ofNat 1024 (255 * 2 ^ (8 * b.1))) ||| BitVec.ofNat 1024 (b.2.toNat * 2 ^ (8 * b.1))) x

/-- The forwarded bytes of a die that are still on their way to a line's home, oldest first. -/
def fwdBytes (s : State) (die line : Nat) : List (Nat × Byte) :=
  ((dieSt s die).fwd.filter fun f => f.line = line).flatMap (·.bytes)

/-- A line as the agents of a die read it (R210, R213): its copy, or the home's line under the writes still to be forwarded. -/
def dieLine (s : State) (die slot line : Nat) : BitVec 1024 :=
  if farLine die (128 * line) then
    match (SMap.find? (dieSt s die).copies line).filter fun x => x.slot = slot with
    | some x => x.data
    | none => setBytes (lineImage s slot line) (fwdBytes s die line)
  else lineImage s slot line

/-- A byte as the agents of a die read it. -/
def dieByte (s : State) (die slot pa : Nat) : Byte :=
  if farLine die pa then (dieLine s die slot (pa / 128)).extractLsb' (8 * (pa % 128)) 8 else memByte s slot pa

def dieBytes (s : State) (die slot pa n : Nat) : List Byte := (List.range n).map fun i => dieByte s die slot (pa + i)

/-- Bring a line homed on another die into a die's L2. -/
def copyLine (s : State) (die slot line : Nat) : State :=
  if farLine die (128 * line) then
    modDie s die fun d => { d with copies := SMap.put d.copies line { slot := slot, data := dieLine s die slot line } }
  else s

/-- A forwarded write is performed at its home. -/
def performFwd (s : State) (f : Forward) : State :=
  f.bytes.foldl (fun s b => homeWrite s f.slot (128 * f.line + b.1) [b.2]) s

/-- A forward may go: the links between the two dies carry it (R186, R190). -/
def fwdFree (s : State) (die : Nat) (f : Forward) : Bool := !severed s die (128 * f.line) && !linkWaits s die (128 * f.line)

/-- Forward the writes of a die to some lines, oldest first. -/
def forwardLines (s : State) (die : Nat) (on : Nat → Bool) : State :=
  let go (f : Forward) : Bool := on f.line && fwdFree s die f
  let out := (dieSt s die).fwd.filter go
  out.foldl performFwd (modDie s die fun d => { d with fwd := d.fwd.filter fun f => !go f })

/-- Forward every write of a die: they are then performed at package scope (R213). -/
def forwardAll (s : State) (die : Nat) : State := forwardLines s die fun _ => true

/-- The oldest write that a die is to forward reaches its home. -/
def forwardOne (s : State) (die : Nat) : State :=
  match (dieSt s die).fwd with
  | [] => s
  | f :: rest => if fwdFree s die f then performFwd (modDie s die fun d => { d with fwd := rest }) f else s

/-- A die's L2 gives up a copy. -/
def dropCopy (s : State) (die line : Nat) : State := modDie s die fun d => { d with copies := SMap.erase d.copies line }

/-- A write of a die at its L2 (R210, R213): the home of the line, or the die's copy, from which it is forwarded. -/
def dieWrite (s : State) (die slot line : Nat) (bs : List (Nat × Byte)) : State :=
  if bs.isEmpty then s
  else if farLine die (128 * line) then
    let s1 := if (dieSt s die).fwd.any fun f => f.line = line ∧ f.slot ≠ slot then forwardLines s die fun l => l == line else s
    modDie s1 die fun d => { d with
      copies := SMap.modify d.copies line fun x => if x.slot = slot then { x with data := setBytes x.data bs } else x
      fwd := d.fwd ++ [{ line := line, slot := slot, bytes := bs }] }
  else bs.foldl (fun s b => homeWrite s slot (128 * line + b.1) [b.2]) s

/-! ### L1 caches (R210) -/

/-- A line is held in L1: HBM and host memory of ordinary pages. -/
def cached (pa : Nat) (direct : Bool) : Bool := !direct && (isHbm pa || isHostMem pa)

/-- The dirty bytes of a line, by their place in it. -/
def dirtyBytes (x : L1Line) : List (Nat × Byte) :=
  ((List.range 128).filter fun i => x.dirty.getLsbD i).map fun i => (i, x.data.extractLsb' (8 * i) 8)

/-- Write a dirty line back to its die's L2 (R210). -/
def writeBack (s : State) (die line : Nat) (x : L1Line) : State := dieWrite s die x.slot line (dirtyBytes x)

/-- Write back and forget one line of a core's L1. -/
def evictLine (s : State) (c line : Nat) : State :=
  match SMap.find? (coreOf s c).l1 line with
  | none => s
  | some x => modCore (writeBack s (coreDie c) line x) c fun k => { k with l1 := SMap.erase k.l1 line }

/-- Write back one line and keep it clean. -/
def cleanLine (s : State) (c line : Nat) : State :=
  match SMap.find? (coreOf s c).l1 line with
  | none => s
  | some x => modCore (writeBack s (coreDie c) line x) c fun k => { k with l1 := SMap.put k.l1 line { x with dirty := 0 } }

/-- Write back every dirty line of a core: its writes are then performed at die scope (R213). -/
def flushCore (s : State) (c : Nat) : State :=
  ((coreOf s c).l1.map (·.1)).foldl (fun s line => cleanLine s c line) s

/-- Perform the writes of a core, and of its die where the scope is wider, at a scope of die or beyond (R213). -/
def flushTo (s : State) (c scope : Nat) : State :=
  let s1 := flushCore s c
  if 3 ≤ scope then forwardAll s1 (coreDie c) else s1

/-- What every core and die holds goes home, as far as the links let it. -/
def flushAll (s : State) : State := (List.range 4).foldl forwardAll ((s.cores.map (·.1)).foldl flushCore s)

/-- What a core and its die hold of a line goes to its home, where an access of the core is performed next (R215, R221). -/
def settleLine (s : State) (c line : Nat) : State :=
  forwardLines (evictLine s c line) (coreDie c) fun l => l == line

/-- An acquire drops what is clean in a core's L1: whole lines, and the clean bytes beside dirty ones (R218, R219). -/
def dropClean (s : State) (c : Nat) : State :=
  modCore s c fun k => { k with
    l1 := (k.l1.filter fun e => e.2.dirty ≠ 0).map fun e => (e.1, { e.2 with stale := ~~~e.2.dirty }) }

/-- The line that has been in L1 longest. -/
def oldestLine (m : SMap L1Line) : Option Nat :=
  (m.foldl (fun (b : Option (Nat × Nat)) e =>
    match b with
    | none => some (e.1, e.2.filled)
    | some (l, t) => if e.2.filled < t then some (e.1, e.2.filled) else some (l, t)) none).map (·.1)

/-- Lines the L1 of a core holds at its split: 512 to a granule of 64 KiB (R1). -/
def l1Lines (c : Core) : Nat := 512 * c.split.2.2

/-- A line fresh from the die's L2. -/
def freshLine (s : State) (die slot line : Nat) : L1Line :=
  { slot := slot, data := dieLine s die slot line, filled := s.now }

/-- The bytes that an acquire dropped are read again; the dirty ones stay. -/
def renewLine (s : State) (die line : Nat) (x : L1Line) : L1Line :=
  { x with data := setBytes (dieLine s die x.slot line) (dirtyBytes x), stale := 0, filled := s.now }

/-- Hold a line in a core's L1. -/
def holdLine (s : State) (c line : Nat) (y : L1Line) : State × L1Line :=
  (modCore s c fun k => { k with l1 := SMap.put k.l1 line y }, y)

/-- Bring a line into a core's L1 under a slot, filling it from its die's L2 (R160, R210). -/
def fillLine (s : State) (c slot line : Nat) : State × L1Line :=
  let die := coreDie c
  match SMap.find? (coreOf s c).l1 line with
  | some x =>
    if x.slot ≠ slot then
      let s1 := copyLine (evictLine s c line) die slot line
      holdLine s1 c line (freshLine s1 die slot line)
    else if x.stale = 0 then (s, x)
    else
      let s1 := copyLine s die slot line
      holdLine s1 c line (renewLine s1 die line x)
  | none =>
    let s0 := if (coreOf s c).l1.length < l1Lines (coreOf s c) then s
      else match oldestLine (coreOf s c).l1 with
        | some o => evictLine s c o
        | none => s
    let s1 := copyLine s0 die slot line
    holdLine s1 c line (freshLine s1 die slot line)

/-! ### Accesses by place -/

/-- One byte of a place, read at its home. -/
def locByte (s : State) (core slot : Nat) : Loc → Byte
  | .scratch off => SMap.get (coreOf s core).scratch 0 off
  | .phys pa _ => memByte s slot pa

/-- `n` bytes of a place, read at the home (engines, barrier homes, atomics). -/
def locNat (s : State) (core slot : Nat) (l : Loc) (n : Nat) : Nat :=
  match l with
  | .scratch off => bytesToNat ((List.range n).map fun i => SMap.get (coreOf s core).scratch 0 (off + i))
  | .phys pa _ => memNat s slot pa n

/-- Write bytes of a core's scratchpad unit. -/
def scratchWrite (s : State) (core off : Nat) : List Byte → State
  | [] => s
  | b :: bs => scratchWrite (modCore s core fun k => { k with scratch := SMap.set k.scratch 0 off b }) core (off + 1) bs

/-- Write bytes of a place at its home. -/
def locWrite (s : State) (core slot : Nat) (l : Loc) (bs : List Byte) : State :=
  match l with
  | .scratch off => scratchWrite s core off bs
  | .phys pa _ => homeWrite s slot pa bs

/-- The bytes of a place as a thread of the core reads them: through L1 where the line is cached. -/
def thrBytes (s : State) (core slot : Nat) (l : Loc) : Nat → State × List Byte
  | 0 => (s, [])
  | n + 1 =>
    match l with
    | .scratch off =>
      let r := thrBytes s core slot (.scratch (off + 1)) n
      (r.1, SMap.get (coreOf s core).scratch 0 off :: r.2)
    | .phys pa direct =>
      if cached pa direct then
        let f := fillLine s core slot (pa / 128)
        let r := thrBytes f.1 core slot (.phys (pa + 1) direct) n
        (r.1, f.2.data.extractLsb' (8 * (pa % 128)) 8 :: r.2)
      else
        let s1 := if isHbm pa || isHostMem pa then settleLine s core (pa / 128) else s
        let r := thrBytes s1 core slot (.phys (pa + 1) direct) n
        (r.1, memByte s1 slot pa :: r.2)

def thrNat (s : State) (core slot : Nat) (l : Loc) (n : Nat) : State × Nat :=
  let r := thrBytes s core slot l n
  (r.1, bytesToNat r.2)

/-- A thread's store of bytes to a place: into L1 as dirty bytes where the line is cached, else at the home. -/
def thrWrite (s : State) (core slot : Nat) (l : Loc) : List Byte → State
  | [] => s
  | b :: bs =>
    match l with
    | .scratch off => thrWrite (scratchWrite s core off [b]) core slot (.scratch (off + 1)) bs
    | .phys pa direct =>
      if cached pa direct then
        let f := fillLine s core slot (pa / 128)
        let i := pa % 128
        let y := { f.2 with
          data := setBytes f.2.data [(i, b)]
          dirty := f.2.dirty ||| BitVec.ofNat 128 (2 ^ i)
          dirtied := if f.2.dirty = 0 then s.now else f.2.dirtied }
        thrWrite (modCore f.1 core fun k => { k with l1 := SMap.put k.l1 (pa / 128) y }) core slot (.phys (pa + 1) direct) bs
      else
        let s1 := if isHbm pa || isHostMem pa then settleLine s core (pa / 128) else s
        thrWrite (homeWrite s1 slot pa [b]) core slot (.phys (pa + 1) direct) bs

/-! ### Range locks (R223, R224) -/

/-- The lock tables that a physical line is checked in: that of the die that owns it, or for host memory the issuing
die's. -/
def lockTable (s : State) (die pa : Nat) : SMap Lock :=
  if isHbm pa || isBank pa then (dieSt s (dieOf pa)).locks else (dieSt s die).locks

/-- The locks that cover a line, with their entry numbers. -/
def locksOn (m : SMap Lock) (line : Nat) : List (Nat × Lock) :=
  m.filter fun e => e.2.first ≤ line ∧ line ≤ e.2.last

/-- The locks that cover a place's line. -/
def locksAt (s : State) (core : Nat) (l : Loc) : List (Nat × Lock) :=
  match l with
  | .scratch off => locksOn (coreOf s core).locks (off / 128)
  | .phys pa _ => locksOn (lockTable s (coreDie core) pa) (pa / 128)

def isMigr (l : Lock) : Bool := match l.by_ with | .migration _ => true | _ => false

/-- The fault a lock gives an access (R157, R224): code and word 7. -/
def lockFault (s : State) (core : Nat) (l : Loc) (kind : Access) : Option (Nat × Nat) :=
  let ls := locksAt s core l
  match ls.find? fun e => isMigr e.2 with
  | some (_, { by_ := .migration m, .. }) => some (0x07, m)
  | _ =>
    match ls.find? fun e => e.2.dst || kind != .read with
    | some (n, x) => some (0x06, n + (if x.dst then 1024 else 0))
    | none => none

/-! ### Translation (chapter 06) -/

/-- A translation fault: code and word 7. -/
abbrev TFault := Nat × Nat

/-- `DevicePA` of R132, with an address that names this package's own fabric range turned into its local offset. -/
def devicePA (s : State) (c : Context) (p : Nat) : Except TFault Nat :=
  let r : Except TFault Nat :=
    if !c.pamode then .ok p
    else if p.testBit 55 then .ok p
    else if c.devbase ≤ p ∧ p < c.devbase + 0x100000000000 then .ok (p - c.devbase)
    else if p < 0x7FF00000000000 then .ok (p + 0x100000000000)
    else .error (0x02, 7)
  r.map fun q => if q.testBit 55 ∧ bits q 43 12 = s.fabric.pkgId then q % 2 ^ 43 else q

/-- HBM inside the partition's range (R162). -/
def inPart (s : State) (c : Context) (pa : Nat) : Bool :=
  let p := partOf s c.part
  isHbm pa && decide (p.hbase ≤ pa) && decide (pa < p.hbase + p.hlen)

/-- A bank-store address inside the partition's share of its die (R163, R206). -/
def inShare (s : State) (c : Context) (pa : Nat) : Bool :=
  let p := partOf s c.part
  let d := dieOf pa
  let lo := 0x10000000000 + 0x10000000 * d + 0x2000000 * (p.first.getD d 0xFF)
  isBank pa && p.first.getD d 0xFF != 0xFF && decide (lo ≤ pa) && decide (pa < lo + 0x2000000 * p.share.getD d 0)

/-- A place a table walk may read (R131). -/
def walkable (s : State) (c : Context) (pa : Nat) : Bool :=
  (inPart s c pa || (isHostMem pa && !s.fabric.hostReset)) && !badLine s pa

/-- A walker read under key slot 0 (R131, R160). -/
def walkRead (s : State) (c : Context) (pa n : Nat) : Except TFault Nat :=
  if walkable s c pa then .ok (memNat s 0 pa n) else .error (0x02, 4)

/-- Bytes that a non-leaf entry of a level covers (R130, R135). -/
def walkSpan (fmt : Bool) (level : Nat) : Nat := if fmt then 2 ^ (15 + 9 * level) else 2 ^ (12 + 9 * level)

/-- The entry of the page-walk caches that a walk of an address meets at a level (R140). -/
def walkHit (m : List WalkEnt) (cn : Nat) (fmt : Bool) (level va : Nat) : Option Nat :=
  (m.find? fun e => e.ctx = cn ∧ e.fmt = fmt ∧ e.level = level ∧ e.va ≤ va ∧ va < e.va + walkSpan fmt level).map (·.word)

/-- A table entry that a walk needs: from the page-walk caches, or read (R131, R141). -/
def walkEntry (s : State) (c : Context) (m : List WalkEnt) (cn : Nat) (fmt : Bool) (level va pa : Nat) : Except TFault Nat :=
  match walkHit m cn fmt level va with
  | some w => .ok w
  | none => walkRead s c pa 8

/-- The entry that a walk leaves in the page-walk caches. -/
def walkEnt (cn : Nat) (fmt : Bool) (level va word : Nat) : WalkEnt :=
  { ctx := cn, fmt := fmt, level := level, va := va / walkSpan fmt level * walkSpan fmt level, word := word }

/-- What the format walk of R135 to R137 finds: the entry, or `none` for a pointer with bad zero bits, and the span
over which it holds. -/
def fmtWalk (s : State) (c : Context) (m : List WalkEnt) (cn va : Nat) : Nat → Nat → Except TFault (Option (BitVec 8) × Nat)
  | 0, table =>
    (walkRead s c (table + bits va 12 12) 1).map fun b => (some (BitVec.ofNat 8 b), 4096)
  | lvl + 1, table =>
    let shift := 24 + 9 * lvl
    let idx := if lvl = 3 then bits va 51 6 else bits va shift 9
    match walkEntry s c m cn true (lvl + 1) va (table + 8 * idx) with
    | .error e => .error e
    | .ok p =>
      if p % 2 = 0 then .ok (some 0, 2 ^ shift)
      else if bits p 56 8 ≠ 0 ∨ bits p 10 2 ≠ 0 then .ok (none, if bits p 1 1 = 1 then 2 ^ shift else 4096)
      else if bits p 1 1 = 1 then .ok (some (BitVec.ofNat 8 (bits p 2 8)), 2 ^ shift)
      else fmtWalk s c m cn va lvl (bits p 12 44 * 4096)

/-- The format pointers that a format walk passes. -/
def fmtPath (s : State) (c : Context) (m : List WalkEnt) (cn va : Nat) : Nat → Nat → List WalkEnt
  | 0, _ => []
  | lvl + 1, table =>
    let idx := if lvl = 3 then bits va 51 6 else bits va (24 + 9 * lvl) 9
    match walkEntry s c m cn true (lvl + 1) va (table + 8 * idx) with
    | .error _ => []
    | .ok p =>
      let e := walkEnt cn true (lvl + 1) va p
      if p % 2 = 0 ∨ bits p 56 8 ≠ 0 ∨ bits p 10 2 ≠ 0 ∨ bits p 1 1 = 1 then [e]
      else e :: fmtPath s c m cn va lvl (bits p 12 44 * 4096)

/-- A leaf found by the Sv57 walk (R130): its PTE and where it lies, its page size and raw base, and the non-leaf entries
passed. -/
structure Leaf where
  pte  : Nat
  at_  : Nat
  size : Nat
  base : Nat
  path : List WalkEnt := []
  deriving DecidableEq, Repr

/-- The Sv57 walk from a level down (R130 to R132). A non-leaf entry with U, A, D, N or PBMT bits set, which the Sv57 rules
reserve, has reason 1, as R150 gives no reason of its own; PBMT 3 is judged before N and N before alignment (log 22). -/
def sv57 (s : State) (c : Context) (m : List WalkEnt) (cn va : Nat) : Nat → Nat → Except TFault Leaf
  | lvl, table =>
    let at_ := table + 8 * bits va (12 + 9 * lvl) 9
    match walkEntry s c m cn false lvl va at_ with
    | .error e => .error e
    | .ok pte =>
      if pte % 2 = 0 ∨ (bits pte 1 1 = 0 ∧ bits pte 2 1 = 1) ∨ bits pte 54 7 ≠ 0 then .error (0x02, 1)
      else if bits pte 1 3 = 0 then
        match lvl with
        | 0 => .error (0x02, 1)
        | l + 1 =>
          if bits pte 61 3 ≠ 0 ∨ bits pte 4 1 = 1 ∨ bits pte 6 2 ≠ 0 then .error (0x02, 1)
          else
            match devicePA s c (bits pte 10 44 * 4096) with
            | .error e => .error e
            | .ok t => (sv57 s c m cn va l t).map fun lf => { lf with path := walkEnt cn false (l + 1) va pte :: lf.path }
      else if bits pte 61 2 = 3 then .error (0x02, 6)
      else
        let ppn := bits pte 10 44
        if bits pte 63 1 = 1 then
          if lvl = 0 ∧ ppn % 16 = 8 then .ok ⟨pte, at_, 65536, ppn / 16 * 65536, []⟩ else .error (0x02, 3)
        else if ppn % 2 ^ (9 * lvl) ≠ 0 then .error (0x02, 3)
        else .ok ⟨pte, at_, 4096 * 2 ^ (9 * lvl), ppn * 4096, []⟩
  termination_by structural lvl => lvl

/-- The permission check of R130 on a leaf's R, W and X bits. -/
def permFault (r w x : Bool) : Access → Option TFault
  | .read => if r then none else some (0x03, 2)
  | .write => if w then none else some (0x03, 3)
  | .atomic => if !r then some (0x03, 2) else if w then none else some (0x03, 3)
  | .fetch => if x then none else some (0x03, 4)

def writes : Access → Bool
  | .write => true
  | .atomic => true
  | _ => false

/-- The page sizes a TLB entry may have (R139), largest first. -/
def tlbSizes : List Nat := [2 ^ 48, 2 ^ 39, 2 ^ 30, 2 ^ 21, 65536, 4096]

/-- The span of the format entry around a 64 KiB leaf: its 16 leaf bytes read together (R139). -/
def napotSpan (s : State) (c : Context) (m : List WalkEnt) (cn va span size : Nat) : Nat :=
  if size = 65536 ∧ span = 4096 then
    let es := (List.range 16).map fun i => fmtWalk s c m cn (va / 65536 * 65536 + 4096 * i) 4 c.fmroot
    let same := es.all fun e =>
      match e, fmtWalk s c m cn va 4 c.fmroot with
      | .ok (a, n), .ok (b, n') => decide (a = b) && decide (n = 4096) && decide (n' = 4096)
      | _, _ => false
    if same then 65536 else 4096
  else span

/-- A whole walk over the page-walk caches `m` (R130 to R141): the checks, those of PAGE before those of PROT (R147), the A and
D update, and the entry to install. -/
def walk (s : State) (m : List WalkEnt) (ctxN : Nat) (va : Nat) (kind : Access) : State × Except TFault TlbEnt :=
  let c := ctxOf s ctxN
  if bits va 56 8 ≠ 0 ∧ bits va 56 8 ≠ 255 then (s, .error (0x02, 2))
  else
    match sv57 s c m ctxN va 4 c.root with
    | .error e => (s, .error e)
    | .ok lf =>
      match fmtWalk s c m ctxN va 4 c.fmroot, devicePA s c (lf.base + va % lf.size) with
      | .error e, _ => (s, .error e)
      | _, .error e => (s, .error e)
      | .ok (fmt, span), .ok _ =>
        if bits lf.pte 4 1 = 0 then (s, .error (0x03, 1))
        else
          let r := bits lf.pte 1 1 = 1
          let w := bits lf.pte 2 1 = 1
          let x := bits lf.pte 3 1 = 1
          match permFault r w x kind with
          | some e => (s, .error e)
          | none =>
            let aBit := if bits lf.pte 6 1 = 0 then 64 else 0
            let dBit := if writes kind ∧ bits lf.pte 7 1 = 0 then 128 else 0
            let pte := lf.pte + aBit + dBit
            let s' := if pte = lf.pte then s else homeWrite s 0 lf.at_ (natToBytes 8 pte)
            let sp := napotSpan s c m ctxN va span lf.size
            let size := (tlbSizes.find? fun z => decide (z ≤ lf.size) && decide (z ≤ sp)).getD 4096
            let vb := va / size * size
            (s', .ok { ctx := ctxN, va := vb, size := size,
                       pa := lf.base + (vb % lf.size), r := r, w := w, x := x,
                       d := bits pte 7 1 = 1, glob := bits lf.pte 5 1 = 1,
                       direct := bits lf.pte 61 2 ≠ 0, fmt := fmt })

/-- The non-leaf entries that a walk passes and the page-walk caches do not hold (R140). -/
def walkPath (s : State) (m : List WalkEnt) (ctxN va : Nat) : List WalkEnt :=
  let c := ctxOf s ctxN
  let sv := match sv57 s c m ctxN va 4 c.root with
    | .ok lf => lf.path
    | .error _ => []
  (sv ++ fmtPath s c m ctxN va 4 c.fmroot).filter fun e => !m.contains e

/-- A TLB entry that serves an access (R131, R140). -/
def tlbHit (m : List TlbEnt) (ctxN va : Nat) (kind : Access) : Option TlbEnt :=
  m.find? fun e => e.ctx = ctxN ∧ e.va ≤ va ∧ va < e.va + e.size ∧ (e.d ∨ ¬ writes kind)

/-- The set of a die's TLB in which an entry lies: 4,096 sets of 16 ways, by page number (R140; which set is log 22). -/
def tlbSet (e : TlbEnt) : Nat := e.va / e.size % 4096

/-- Put an entry into a die's TLB: of its set the 15 newest others stay (R140). -/
def tlbPut (e : TlbEnt) (m : List TlbEnt) : List TlbEnt :=
  e :: (m.filter fun x => tlbSet x ≠ tlbSet e ∨ x ∈ (m.filter fun y => tlbSet y = tlbSet e).take 15)

/-- What a finished walk leaves in its die: the entry in the TLB, the non-leaf entries in the page-walk caches; the oldest go
beyond their sizes (R140). -/
def walkDone (e : TlbEnt) (w : List WalkEnt) (d : Die) : Die :=
  { d with tlb := tlbPut e d.tlb, walks := (w ++ d.walks).take 4096 }

/-- Install a walk's results in a core's L1 TLB and in its die. -/
def tlbInstall (s : State) (core : Nat) (e : TlbEnt) (w : List WalkEnt) : State :=
  let s1 := modCore s core fun k => { k with tlb := (e :: k.tlb).take 96 }
  modDie s1 (coreDie core) (walkDone e w)

/-- A translated address: its device-view physical address, whether the page bypasses the caches, and the format
entry. -/
structure Trans where
  pa     : Nat
  direct : Bool
  fmt    : Option (BitVec 8)
  deriving DecidableEq, Repr

/-- Finish a translation with the entry found: DevicePA, which can raise PAGE, before permission (R132, R147). DevicePA is
applied to the address of the access, so that a leaf larger than what remains of a window of R132 is judged piece by piece
(log 22). -/
def useEntry (s : State) (ctxN va : Nat) (kind : Access) (e : TlbEnt) : Except TFault Trans :=
  match devicePA s (ctxOf s ctxN) (e.pa + (va - e.va)) with
  | .error f => .error f
  | .ok pa =>
    match permFault e.r e.w e.x kind with
    | some f => .error f
    | none => .ok ⟨pa, e.direct, e.fmt⟩

/-- `Translate(va, kind)` of R13 for a core: L1 TLB, die TLB, or a walk whose result is installed. -/
def translate (s : State) (core ctxN va : Nat) (kind : Access) : State × Except TFault Trans :=
  if bits va 56 8 ≠ 0 ∧ bits va 56 8 ≠ 255 then (s, .error (0x02, 2))
  else
    match tlbHit (coreOf s core).tlb ctxN va kind with
    | some e => (s, useEntry s ctxN va kind e)
    | none =>
      match tlbHit (dieSt s (coreDie core)).tlb ctxN va kind with
      | some e => (modCore s core fun k => { k with tlb := (e :: k.tlb).take 96 }, useEntry s ctxN va kind e)
      | none =>
        let m := (dieSt s (coreDie core)).walks
        match walk s m ctxN va kind with
        | (s1, .error e) => (s1, .error e)
        | (s1, .ok e) => (tlbInstall s1 core e (walkPath s m ctxN va), useEntry s1 ctxN va kind e)

/-- The check of R133, R162 and R206 on a translated address of a thread access: the reason of R150, if it fails.
Alias windows pass for the caller to judge. -/
def placeFault (s : State) (ctxN pa : Nat) : Option Nat :=
  let c := ctxOf s ctxN
  if isFabric pa then none
  else if isHbm pa then (if inPart s c pa then none else some 5)
  else if isBank pa then (if inShare s c pa then none else some 5)
  else if isAlias pa then none
  else if isEnq pa then some 6
  else if isHostMem pa then none
  else some 5

/-! ### Checking one access of a group (R147) -/

/-- A failing check: code, first faulting byte, start of the access, word 7. -/
structure Bad where
  code : Nat
  w3   : Word
  w4   : Word
  w7   : Nat
  deriving DecidableEq, Repr

/-- The scratchpad bytes of a group's team (R108, R116). -/
def scratchSize (s : State) (g : Group) : Nat := ((kern? s g.kern).map (·.scratch)).getD 0

/-- The place of an offset in address space 1 (R207, R417), if all `n` bytes lie in one of its ranges. -/
def scratchLoc (s : State) (g : Group) (off n : Nat) : Option Loc :=
  let t := (team? s g.kern g.team).getD { span := 0 }
  let h := hdrOf s g.kern
  if off + n ≤ scratchSize s g then some (.scratch (t.sbase + off))
  else if 0x200000 ≤ off ∧ off + n ≤ 0x200000 + 32 * h.bslots then
    some (.scratch (0x200000 + 32 * t.bbase + (off - 0x200000)))
  else none

/-- The place of an offset in address space 2 (R207). -/
def bankLoc (s : State) (g : Group) (off n : Nat) : Option Loc :=
  let t := (team? s g.kern g.team).getD { span := 0 }
  match SMap.find? s.spans (teamKey g.kern t.span) with
  | some sp => if off + n ≤ sp.size then some (.phys (sp.base + off) true) else none
  | none => none

/-- The check of a range lock on each line of an access. -/
def lockBad (s : State) (core : Nat) (l : Loc) (n : Nat) (kind : Access) (addr : Word) : Option Bad :=
  let lineOff := match l with | .scratch o => o % 128 | .phys pa _ => pa % 128
  let starts := (List.range ((lineOff + n + 127) / 128)).map fun i => if i = 0 then 0 else 128 * i - lineOff
  starts.findSome? fun o =>
    let l' := match l with | .scratch x => Loc.scratch (x + o) | .phys pa d => Loc.phys (pa + o) d
    (lockFault s core l' kind).map fun f => ⟨f.1, addr + BitVec.ofNat 64 o, addr, f.2⟩

/-- Check one naturally aligned access (R147): alignment, translation, permission, place, locks. Format entries are
not judged here. -/
def checkAccess (s : State) (g : Group) (asp : Nat) (addr : Word) (n align : Nat) (kind : Access) :
    State × Except Bad Loc :=
  if addr.toNat % align ≠ 0 then (s, .error ⟨0x05, addr, addr, align⟩)
  else
    let fin (s' : State) (l : Loc) : State × Except Bad Loc :=
      match lockBad s' g.core l n kind addr with
      | some b => (s', .error b)
      | none => (s', .ok l)
    match asp with
    | 1 =>
      match scratchLoc s g addr.toNat n with
      | none => (s, .error ⟨0x03, addr, addr, 7⟩)
      | some l => fin s l
    | 2 =>
      match bankLoc s g addr.toNat n with
      | none => (s, .error ⟨0x03, addr, addr, 7⟩)
      | some l => fin s l
    | _ =>
      match translate s g.core g.ctx addr.toNat kind with
      | (s', .error (c, w)) =>
        let w7 := if c = 0x02 ∧ g.refused.contains (addr.toNat / 4096) then 5 else w
        (s', .error ⟨c, addr, addr, w7⟩)
      | (s', .ok t) =>
        match placeFault s' g.ctx t.pa with
        | some r => (s', .error ⟨0x03, addr, addr, r⟩)
        | none =>
          if isAlias t.pa ∧ kind ≠ .write then (s', .error ⟨0x03, addr, addr, 5⟩)
          else if isFabric t.pa ∨ isAlias t.pa then (s', .ok (.phys t.pa t.direct))
          else fin s' (.phys t.pa t.direct)

/-! ### A context's structures (R162) -/

/-- A run of bytes of a context's structures lies in its partition's HBM range (R162). -/
def inStruct (s : State) (cn pa n : Nat) : Bool := n == 0 || (inPart s (ctxOf s cn) pa && inPart s (ctxOf s cn) (pa + n - 1))

/-- Bytes of a structure, under the context's slot; outside the range nothing is read (R162, log 42). -/
def ctxBytes (s : State) (cn pa n : Nat) : List Byte :=
  if inStruct s cn pa n then memBytes s (slotOf s cn) pa n else List.replicate n 0

/-- A value of a structure. -/
def ctxRead (s : State) (cn pa n : Nat) : Nat := bytesToNat (ctxBytes s cn pa n)

/-- Write bytes of a structure, under the context's slot; outside the range nothing is written (R162, log 42). -/
def ctxWrite (s : State) (cn pa : Nat) (bs : List Byte) : State :=
  if inStruct s cn pa bs.length then homeWrite s (slotOf s cn) pa bs else s

/-- Write a value of a structure. -/
def ctxPut (s : State) (cn pa n v : Nat) : State := ctxWrite s cn pa (natToBytes n v)

/-! ### Group-table entries and slip rings (R88, R180) -/

/-- Address of a field of a group's table entry. -/
def gtAddr (s : State) (g : Group) (off : Nat) : Nat := (ctxOf s g.ctx).gtable + 2048 * g.entry + off

def gtRead (s : State) (g : Group) (off n : Nat) : Nat := ctxRead s g.ctx (gtAddr s g off) n

def gtWrite (s : State) (g : Group) (off n v : Nat) : State := ctxPut s g.ctx (gtAddr s g off) n v

/-- A structure that an instruction of the group needs lies outside the partition's HBM range: its group-table entry, or with
`ring` the spawn ring (R162). -/
def structOut (s : State) (g : Group) (ring : Bool) : Option Nat :=
  let c := ctxOf s g.ctx
  if !inStruct s g.ctx (gtAddr s g 0) 2048 then some (gtAddr s g 0)
  else if ring && !inStruct s g.ctx c.spawnRing (2 ^ c.spawnLog) then some c.spawnRing
  else none

/-- The outstanding-spawn count of a group (R53, R180). -/
def spawns (s : State) (g : Group) : Nat := gtRead s g 0 4

def ringHead (s : State) (g : Group) : Nat := gtRead s g 8 4
def ringTail (s : State) (g : Group) : Nat := gtRead s g 12 4
def ringCount (s : State) (g : Group) : Nat := gtRead s g 16 4

/-- The slip count (R86): entries reserved and not yet popped. -/
def slip (s : State) (g : Group) : Nat := g.lq.length + ringCount s g + g.hold.length

/-- The chunk that holds ring slot `p`, or 0 (R180). -/
def chunkAt (s : State) (g : Group) (p : Nat) : Nat := gtRead s g (512 + 8 * p) 8

/-- Bytes of a slip-ring chunk (R88). -/
def chunkBytes : Nat := 73728

/-- The address of ring entry `i`'s data, and of its tag. -/
def ringData (s : State) (g : Group) (i : Nat) : Nat := chunkAt s g (i % 65536 / 512) + 128 * (i % 512)
def ringTag (s : State) (g : Group) (i : Nat) : Nat := chunkAt s g (i % 65536 / 512) + 65536 + 16 * (i % 512)

/-- Code of an entry's state in its tag (R88). -/
def lqCode : LqState → Nat
  | .free => 0
  | .reserved => 1
  | .complete => 2
  | .held => 3

def lqOfCode : Nat → LqState
  | 1 => .reserved
  | 2 => .complete
  | 3 => .held
  | _ => .free

/-- The 128 data bytes of lane values, lane 0 first. -/
def lanesToBytes (m : SMap (BitVec 32)) : List Byte :=
  allLanes.flatMap fun l => natToBytes 4 (SMap.get m 0 l).toNat

/-- Lane values from 128 bytes read by a function of the offset. -/
def lanesFrom (rd : Nat → Nat) : SMap (BitVec 32) :=
  allLanes.foldl (fun m l => SMap.set m 0 l (BitVec.ofNat 32 (rd (4 * l)))) []

/-- Read ring entry `i` from the chunk that holds it. -/
def ringGet (s : State) (g : Group) (i : Nat) : LqEntry :=
  let rd := ctxRead s g.ctx
  let tag := ringTag s g i
  { data := lanesFrom fun o => rd (ringData s g i + o) 4
    arrived := BitVec.ofNat 32 (rd tag 4)
    poisoned := BitVec.ofNat 32 (rd (tag + 4) 4)
    st := lqOfCode (rd (tag + 8) 1) }

/-- Write ring entry `i` into the chunk that holds it. -/
def ringPut (s : State) (g : Group) (i : Nat) (e : LqEntry) : State :=
  let tag := ringTag s g i
  let s1 := ctxWrite s g.ctx (ringData s g i) (lanesToBytes e.data)
  ctxWrite s1 g.ctx tag (natToBytes 4 e.arrived.toNat ++ natToBytes 4 e.poisoned.toNat ++ natToBytes 8 (lqCode e.st))

/-- The chunks that the groups of a kernel hold together (R89). -/
def kernChunks (s : State) (k : Nat) : Nat := ((kernGroups s k).map fun e => gtRead s e.2 20 4).foldl (· + ·) 0

/-- A chunk may be taken for a group (R89). -/
def chunkFree (s : State) (g : Group) : Bool :=
  let c := ctxOf s g.ctx
  let h := hdrOf s g.kern
  decide (c.chunks.length < c.quota) && (h.share == 0 || decide (kernChunks s g.kern < h.share))

/-- Mark ring entries of the chunk at `base` free in their tags (R88). -/
def freeTags (s : State) (cn base : Nat) (is : List Nat) : State :=
  is.foldl (fun s i => ctxPut s cn (base + 65536 + 16 * i + 8) 1 0) s

/-- Take the lowest free chunk of the context's pool for ring slot `p` (R88; which free chunk is taken is log 14); its
entries are free. -/
def takeChunk (s : State) (g : Group) (p : Nat) : State :=
  let c := ctxOf s g.ctx
  let i := ((List.range (c.chunks.length + 1)).find? fun i => !c.chunks.contains i).getD 0
  let s0 := freeTags s g.ctx (c.pool + chunkBytes * i) (List.range 512)
  let s1 := modCtx s0 g.ctx fun c => { c with chunks := i :: c.chunks }
  let s2 := gtWrite s1 g (512 + 8 * p) 8 (c.pool + chunkBytes * i)
  gtWrite s2 g 20 4 (gtRead s g 20 4 + 1)

/-- Return the chunk of ring slot `p` to the pool (R88). -/
def returnChunk (s : State) (g : Group) (p : Nat) : State :=
  let a := chunkAt s g p
  if a = 0 then s
  else
    let s1 := modCtx s g.ctx fun c => { c with
      chunks := c.chunks.filter fun i => c.pool + chunkBytes * i ≠ a
      freed := c.freed + 1 }
    let s2 := gtWrite s1 g (512 + 8 * p) 8 0
    gtWrite s2 g 20 4 (gtRead s g 20 4 - 1)

/-- Return every chunk a group holds (R88). -/
def returnChunks (s : State) (g : Group) : State :=
  if gtRead s g 20 4 = 0 then s else (List.range 128).foldl (fun s p => returnChunk s g p) s

/-- Entry of a reservation number: in the hardware LQ, in the ring, or in the hold buffer. -/
def lqGet (s : State) (g : Group) (num : Nat) : LqEntry :=
  let p := num - (g.resv - slip s g)
  let rc := ringCount s g
  if p < g.lq.length then g.lq.getD p {}
  else if p < g.lq.length + rc then ringGet s g (ringHead s g + (p - g.lq.length))
  else g.hold.getD (p - g.lq.length - rc) {}

/-- Replace the entry of a reservation number. -/
def lqPut (s : State) (gid num : Nat) (e : LqEntry) : State :=
  match grp? s gid with
  | none => s
  | some g =>
    let p := num - (g.resv - slip s g)
    let rc := ringCount s g
    if p < g.lq.length then setGrp s gid { g with lq := g.lq.set p e }
    else if p < g.lq.length + rc then ringPut s g (ringHead s g + (p - g.lq.length)) e
    else setGrp s gid { g with hold := g.hold.set (p - g.lq.length - rc) e }

/-- Reserve one LQ entry (R86 to R89): hardware while it has room, else the ring, else the hold buffer. -/
def reserveOne (s : State) (gid : Nat) : State :=
  match grp? s gid with
  | none => s
  | some g =>
    let rc := ringCount s g
    if g.lq.length < 64 ∧ rc = 0 ∧ g.hold = [] then
      setGrp s gid { g with lq := g.lq ++ [{}], resv := g.resv + 1 }
    else
      let i := ringTail s g
      let p := i % 65536 / 512
      let have_ := chunkAt s g p ≠ 0
      if g.hold = [] ∧ (have_ ∨ chunkFree s g = true) then
        let s1 := if have_ then s else takeChunk s g p
        let s2 := ringPut s1 g i {}
        let s3 := gtWrite s2 g 12 4 ((i + 1) % 65536)
        let s4 := gtWrite s3 g 16 4 (rc + 1)
        modGrp s4 gid fun x => { x with resv := x.resv + 1 }
      else setGrp s gid { g with hold := g.hold ++ [{ st := .held }], resv := g.resv + 1 }

/-- Reserve `n` entries in order. -/
def reserve (s : State) (gid : Nat) : Nat → State
  | 0 => s
  | n + 1 => reserve (reserveOne s gid) gid n

/-- Entries of the hold buffer whose turn has come move into storage: the hardware LQ when they are within the 64
oldest, else the ring when a chunk can be had (R89). -/
def settleHoldOne (s : State) (gid : Nat) (chunk : Bool) : State :=
  match grp? s gid with
  | none => s
  | some g =>
    match g.hold with
    | [] => s
    | e :: rest =>
      let rc := ringCount s g
      if g.lq.length < 64 ∧ rc = 0 then setGrp s gid { g with lq := g.lq ++ [e], hold := rest }
      else
        let i := ringTail s g
        let p := i % 65536 / 512
        let have_ := chunkAt s g p ≠ 0
        if chunk ∧ (have_ ∨ chunkFree s g = true) then
          let s1 := if have_ then s else takeChunk s g p
          let s2 := ringPut s1 g i e
          let s3 := gtWrite s2 g 12 4 ((i + 1) % 65536)
          let s4 := gtWrite s3 g 16 4 (rc + 1)
          modGrp s4 gid fun x => { x with hold := rest }
        else s

/-- Move held entries into storage, oldest first, at most four. -/
def settleHold (s : State) (gid : Nat) (chunk : Bool) : State :=
  (List.range 4).foldl (fun s _ => settleHoldOne s gid chunk) s

/-! ### Event log (R182) and context states (R173) -/

/-- Write an entry into a context's event log. -/
def logEvent (s : State) (cn kind code w16 w24 : Nat) : State :=
  match SMap.find? s.ctxs cn with
  | none => s
  | some c =>
    let at_ := c.evlog + 32 * (c.cevt % c.evcount)
    let bs := natToBytes 8 (ftime s) ++ natToBytes 1 kind ++ natToBytes 1 code ++ natToBytes 6 0 ++ natToBytes 8 w16
      ++ natToBytes 8 w24
    modCtx (ctxWrite s cn at_ bs) cn fun c => { c with cevt := (c.cevt + 1) % 2 ^ 64 }

/-- Code of a context state (R174). -/
def cstateCode : CState → Nat
  | .created => 0
  | .loaded => 1
  | .running => 2
  | .quiescing => 3
  | .saved => 4
  | .faulted => 5
  | .destroyed => 6

/-- Change a context's state and log it (R173, R182 kind 2). -/
def setCState (s : State) (cn : Nat) (st : CState) (why : Nat) : State :=
  let s1 := modCtx s cn fun c => { c with state := st, why := why }
  logEvent s1 cn 2 (cstateCode st) cn why

/-- A kernel counted as live (R173). -/
def isLive (k : Kernel) : Bool :=
  match k.state with
  | .placing => true
  | .running => true
  | .suspended => true
  | .draining => true
  | _ => false

/-- RUNNING becomes LOADED when no kernel of the context is live (R173). -/
def settleCtx (s : State) (cn : Nat) : State :=
  if (ctxOf s cn).state = .running ∧ ¬ (s.kernels.any fun e => decide (e.2.ctx = cn) && isLive e.2) = true then
    setCState s cn .loaded 0
  else s

/-! ### Barrier arrivals made by units of the package (R79, R93, R100) -/

/-- Translation for a unit of the package, which walks without the TLBs and walk caches of a die. -/
def translatePkg (s : State) (cn va : Nat) (kind : Access) : State × Except TFault Trans :=
  match walk s [] cn va kind with
  | (s1, .error e) => (s1, .error e)
  | (s1, .ok e) => (s1, useEntry s1 cn va kind e)

/-- Where a barrier named by a virtual address lies, when it passes R93: 32-byte aligned, in HBM or a bank store. -/
def barrierHome (s : State) (cn : Nat) (va : Word) : State × Except TFault Loc :=
  if va.toNat % 32 ≠ 0 then (s, .error (0x05, 32))
  else
    match translatePkg s cn va.toNat .atomic with
    | (s1, .error e) => (s1, .error e)
    | (s1, .ok t) =>
      match placeFault s1 cn t.pa with
      | some r => (s1, .error (0x03, r))
      | none => if isHbm t.pa ∨ isBank t.pa then (s1, .ok (.phys t.pa t.direct)) else (s1, .error (0x03, 5))

/-- Send an update to a barrier's home. -/
def sendUpd (s : State) (u : BarUpd) : State := { s with homeQ := s.homeQ ++ [u] }

/-- An arrival of `m` at a barrier of a context's memory, made by a unit of the package; a barrier that fails its
check receives nothing (R118). -/
def arriveAt (s : State) (cn : Nat) (va : Word) (m : Nat) (st : Status) : State :=
  if va = 0 then s
  else
    match barrierHome s cn va with
    | (s1, .error _) => s1
    | (s1, .ok l) => sendUpd s1 { home := l, core := 0, slot := slotOf s1 cn, from_ := none, op := .arrive m st }

/-- Status bits of R94. -/
def stAband : BitVec 12 := 0x800
def stProto : BitVec 12 := 0x400
def stDup : BitVec 12 := 0x200
def stSkew : BitVec 12 := 0x100
def stLate : BitVec 12 := 0x080
def stFpart : BitVec 12 := 0x040
def stCpyf : BitVec 12 := 0x020
def stInf : BitVec 12 := 0x010
def stNan : BitVec 12 := 0x008
def stOecc : BitVec 12 := 0x004
def stAunc : BitVec 12 := 0x002
def stAcor : BitVec 12 := 0x001

/-- Make the arrival of launched work that has completed (R83, R100), with LATE and the queue's late count; a graph's
node reports to its graph instead. -/
def completeRecord (s : State) (cn : Nat) (o : Origin) (barrier : Word) (m : Nat) (st : Status) : State :=
  match o with
  | .node n i => { s with graphs := SMap.modify s.graphs n fun x => { x with done := x.done ++ [(i, st)] } }
  | .record q late =>
    let s1 := if late then modQueue s q fun x => { x with lateCnt := (x.lateCnt + 1) % 2 ^ 24 } else s
    arriveAt s1 cn barrier m { st with bits := st.bits ||| (if late then stLate else 0), member := 0xFFFE }

/-! ### Ending groups, teams and kernels (R52, R72, R117, R118) -/

/-- Free the save-pool space that begins at an offset. -/
def freeSave (s : State) (cn off : Nat) : State :=
  modCtx s cn fun c => { c with used := c.used.filter fun e => e.1 ≠ off }

/-- A retired group's slot, chunks, group-table entry and reserved save space are freed (R52, R61, R88, R180). -/
def freeGroup (s : State) (gid : Nat) : State :=
  match grp? s gid with
  | none => s
  | some g =>
    let s1 := returnChunks (if g.evict then freeSave s g.ctx g.saveAt else s) g
    { s1 with
      groups := SMap.erase s1.groups gid
      fabric := { s1.fabric with reqs := s1.fabric.reqs.map fun e => if e.2.g = gid then (e.1, { e.2 with g := 0 }) else e } }

/-- Free a spawn record: state 0 in the ring (R54) and its index free. -/
def freeRecord (s : State) (cn i : Nat) : State :=
  let c := ctxOf s cn
  let s1 := ctxPut s cn (c.spawnRing + 256 * i + 25) 1 0
  modCtx s1 cn fun c => { c with recs := SMap.erase c.recs i }

/-- Adopt the waiting split of a core that no team holds any more (R123): L1 is written back and invalidated, the
scratchpad's contents are not kept. A mark whose kernel has ended is cleared. -/
def settleCore (s : State) (c : Nat) : State :=
  match (coreOf s c).pendSplit with
  | none => s
  | some (k, v, sc, l) =>
    let gone : Bool := match kern? s k with
      | some x => !(x.state = .placing || x.state = .running || x.state = .suspended || x.state = .ready)
      | none => true
    if gone then modCore s c fun x => { x with pendSplit := none }
    else if s.teams.any fun e => decide (e.2.core = c) && e.2.placed then s
    else
      let s1 := flushCore s c
      modCore s1 c fun x => { x with split := (v, sc, l), pendSplit := none, l1 := [], scratch := [] }

def settleCores (s : State) : State := (s.cores.map (·.1)).foldl settleCore s

/-- Teams of a kernel, placed or saved. -/
def kernTeams (s : State) (k : Nat) : List (Nat × Team) := s.teams.filter fun e => e.1 / 4294967296 = k

/-- A span none of whose teams is placed gives its bank-store allocation back (R119). -/
def freeSpan (s : State) (k sp : Nat) : State :=
  if (kernTeams s k).any fun e => decide (e.2.span = sp) && e.2.placed then s
  else { s with spans := SMap.erase s.spans (teamKey k sp) }

/-- A running kernel whose teams have all retired drains; one whose remaining teams are all saved is suspended (R118), after
every waiting kernel of its priority when a YIELD saved them (R361). -/
def settleKernel (s : State) (k : Nat) : State :=
  match kern? s k with
  | none => s
  | some x =>
    let ts := kernTeams s k
    if x.state ≠ .running then s
    else if ts.isEmpty ∧ x.teams ≤ x.nextSpan * x.perSpan then modKern s k fun x => { x with state := .draining }
    else if ts.isEmpty ∨ (ts.any fun e => e.2.placed) = true then s
    else
      let late := (kernGroups s k).any fun e => decide (e.2.wake = some .yield)
      modKern s k fun x => { x with state := .suspended, waitFrom := s.now, handed := if late then s.now + 1 else x.handed }

/-- A team whose last group has ended retires: its resources are free (R118, R119). -/
def settleTeam (s : State) (k t : Nat) : State :=
  match team? s k t with
  | none => s
  | some x =>
    if !(teamGroups s k t).isEmpty then s
    else settleCores (settleKernel (freeSpan { s with teams := SMap.erase s.teams (teamKey k t) } k x.span) k)

/-- The group that an engine command acts for, while it lasts. -/
def engGroup (s : State) (c : EngCmd) : Option Group :=
  match c.for_ with
  | .record _ _ => none
  | .group gid _ => (grp? s gid).filter fun g => g.kern = c.kern

/-- What a command that has not yet read its group's registers or tile reads when its kernel ends (R355: it completes). -/
def killCap (s : State) (n : Nat) (c : EngCmd) : SMap (BitVec 32) :=
  match engGroup s c with
  | none => c.cap
  | some g =>
    match c.kind with
    | .spillb first cnt _ => spillCap (flushPend g) first cnt
    | .mdrain _ _ rows _ =>
      let o := g.mops.find? fun (o : MOp) => match o.kind with | .mdrain id => id == n | _ => false
      let t := ((team? s g.kern g.team).getD { span := 0 }).tbase + (o.map fun (x : MOp) => x.tile).getD 0
      ((List.range 64).filter fun r => rows.getLsbD r).foldl (fun m r => (List.range 64).foldl (fun m j =>
        SMap.set m 0 (64 * r + j) (SMap.get (coreOf s g.core).tiles 0 (4096 * t + 64 * r + j))) m) []
    | _ => c.cap

/-- The engine commands of a kernel's groups go on without the groups (R355). -/
def freeEngines (s : State) (k : Nat) : State :=
  { s with engines := s.engines.map fun e =>
      if e.2.kern = k ∧ e.2.ready = false then (e.1, { e.2 with ready := true, wait := 0, cap := killCap s e.1 e.2 }) else e }

/-- End a kernel (R72, R117, R118): its groups retire, its forming entries, spawn records, slots, slip rings, teams
and spans are freed, its completion barrier receives an arrival with ABAND, and the event log an entry of kind 1. -/
def endKernel (s : State) (k : Nat) (st : KState) (reason : Nat) : State :=
  match kern? s k with
  | none => s
  | some kn =>
    let s1 := ((kernGroups s k).map (·.1)).foldl freeGroup (freeEngines s k)
    let s2 := { s1 with dies := s1.dies.map fun e =>
      (e.1, { e.2 with forming := e.2.forming.filter fun f => f.2.kern ≠ k,
                       waiting := e.2.waiting.filter fun w => ¬ (w.1 = kn.ctx ∧
                         SMap.find? (ctxOf s1 kn.ctx).recs w.2 = some k) }) }
    let s3 := (((ctxOf s2 kn.ctx).recs.filter fun e => e.2 = k).map (·.1)).foldl (fun s i => freeRecord s kn.ctx i) s2
    let mine := s3.teams.filter fun e => e.1 / 4294967296 = k
    let s4 := (mine.filter fun e => !e.2.placed || e.2.reserved != 0).foldl (fun s e => freeSave s kn.ctx e.2.saveAt) s3
    let s5 := { s4 with teams := s4.teams.filter (fun e => e.1 / 4294967296 ≠ k),
                        spans := s4.spans.filter (fun e => e.1 / 4294967296 ≠ k) }
    let s6 := modKern s5 k fun x => { x with state := st, reason := reason, ended := s5.now }
    let s7 := completeRecord s6 kn.ctx kn.origin kn.barrier 1 { bits := stAband, failures := 1, member := 0xFFFE }
    let s8 := logEvent s7 kn.ctx 1 reason k 0
    settleCores (settleCtx s8 kn.ctx)

/-! ### Taking a fault (R357, R358) and the requests that stop or cut groups -/

/-- Word 6 of the fault record, the layout of bytes 32 to 39 of the stop record (R69). -/
def occupancy (s : State) (g : Group) : Nat :=
  g.lq.length + 2 ^ 8 * g.xq.length + 2 ^ 16 * g.bq.length + 2 ^ 24 * g.saq.length + 2 ^ 32 * g.sdq.length
    + 2 ^ 40 * ringCount s g

/-- Word 2 of the fault record: the C-stream's place. -/
def cWord (g : Group) : Word :=
  match g.cpos with
  | some p => BitVec.ofNat 64 (p.idx + 2 ^ 32 * p.start)
  | none => BitVec.allOnes 64

def ofFlag (b : Bool) (n : Nat) : Nat := if b then 2 ^ n else 0

/-- The words of the fault record that no rule gives a value (R357: words 3, 4, 5 and 7 hold what the chapter of each fault
gives): of ILLEGAL, PRIV and TRAP all but word 7, and for a place outside its section, where no word was fetched, that one
too (R253, R268, R361); of a misaligned jump all but word 7 (R253); of BOUND and QOVF words 3 and 4 (R325, R89); of STALL,
SPDIST and SPAWN all four (R264, R65, R56); of ECC word 7, and words 3 and 4 for a register (R199, R306). Log 3. -/
def openWords (inside : Bool) (f : FaultInfo) : List Nat :=
  match f.code with
  | 0x01 => if inside then [3, 4, 5] else [3, 4, 5, 7]
  | 0x12 => [3, 4, 5]
  | 0x15 => [3, 4, 5]
  | 0x05 => if f.w3 = 0 then [3, 4, 5] else []
  | 0x08 => [3, 4]
  | 0x0C => [3, 4]
  | 0x0A => [3, 4, 5, 7]
  | 0x0B => [3, 4, 5, 7]
  | 0x0D => [3, 4, 5, 7]
  | 0x0E => if f.cside then [3, 4, 7] else [7]
  | _ => []

/-- The place of a fault lies inside its code section (R253). -/
def faultInside (k : Kernel) (g : Group) (f : FaultInfo) : Bool :=
  if f.cside then
    match g.cpos with
    | some p => decide (12 * p.idx + 12 ≤ k.hdr.clen)
    | none => true
  else inACode k f.pc

/-- The eight words of the fault record (R357); an open word is a free value. -/
def faultWords (s : State) (g : Group) (k : Kernel) (f : FaultInfo) : SMap Word :=
  let w0 := f.code + ofFlag f.cside 8 + ofFlag f.inslot 9 + ofFlag f.safe 10 + ofFlag f.done 11 + ofFlag f.store 12
    + 2 ^ 16 * (match f.slot with | some n => (n + 65536 - g.slotBase % 65536) % 65536 | none => 0xFFFF)
  let open_ (n : Nat) : Bool := (openWords (faultInside k g f) f).contains n
  let given (n : Nat) (v : Word) : Word := if open_ n then Config.freeWord (s.free + n) else v
  [(0, BitVec.ofNat 64 w0), (1, f.pc), (2, cWord g), (3, given 3 f.w3), (4, given 4 f.w4),
   (5, (if open_ 5 then (Config.freeWord (s.free + 5)).truncate 32 else f.w5).zeroExtend 64),
   (6, BitVec.ofNat 64 (occupancy s g)), (7, given 7 f.w7)]

/-- The serials of the locks that cover the line of word 3 when a fault is taken (R368 code 2), in the address space of the
access. -/
def faultLockIds (s : State) (g : Group) (f : FaultInfo) : List Nat :=
  let at_ (l : Loc) : List Nat := (locksAt s g.core l).map (·.2.id)
  if f.code ≠ 0x06 ∧ f.code ≠ 0x07 then []
  else
    match f.asp with
    | 1 => ((scratchLoc s g f.w3.toNat 1).map at_).getD []
    | 2 => ((bankLoc s g f.w3.toNat 1).map at_).getD []
    | _ =>
      match translate s g.core g.ctx f.w3.toNat .read with
      | (_, .ok t) => at_ (.phys t.pa t.direct)
      | (_, .error _) => []

/-- Enter handler state with a fault record (R358): write the record, save and clear the last-SP index, zero h0 to
h15, go to the fault vector. -/
def enterHandler (s : State) (gid : Nat) (g : Group) (k : Kernel) (f : FaultInfo) : State :=
  setGrp { s with free := s.free + 8 } gid { g with
    frec := faultWords s g k f
    faultLocks := faultLockIds s g f
    hLastSp := none
    hFollow := false
    h := []
    retPc := g.pc
    pc := aBase k + g.fvec.zeroExtend 64
    wake := none
    woken := false
    fkind := f.kind
    fmapFull := false
    preq := none
    out := g.out || g.st == .pending
    chunkMark := (ctxOf s g.ctx).freed
    st := .handler }

/-- Take a fault that R356 takes to a handler (R358). A group that a team stop has reached keeps the first fault and stops
(R43). Without a vector, or in HANDLER state, the kernel ends FAULTED with DOUBLE. -/
def takeFault (s : State) (gid : Nat) (f : FaultInfo) : State :=
  match grp? s gid with
  | none => s
  | some g =>
    match kern? s g.kern with
    | none => s
    | some k =>
      match g.stop with
      | some x => setGrp s gid { g with st := .stopped, stop := some { x with fault := some (x.fault.getD f) } }
      | none => if g.st = .handler ∨ g.fvec = 0xFFFFFFFF then endKernel s g.kern .faulted 4 else enterHandler s gid g k f

/-- Post a yield request to every group of a team (R66); a BLOCKED group moves to YIELDING at once. -/
def yieldTeam (s : State) (k t : Nat) : State :=
  { s with groups := s.groups.map fun e =>
      if e.2.kern = k ∧ e.2.team = t then
        (e.1, if e.2.st = .blocked then { e.2 with yreq := true, st := .yielding, bqMark := e.2.bq.length }
              else { e.2 with yreq := true })
      else e }

/-- Post a yield request to a team, or to every team of its grid under COOP (R121). -/
def postYield (s : State) (k t : Nat) : State :=
  match kern? s k with
  | none => s
  | some kn =>
    if kn.coop then
      (s.teams.filter fun e => e.1 / 4294967296 = k).foldl (fun s e => yieldTeam s k (e.1 % 4294967296)) s
    else yieldTeam s k t

/-- States in which a group holds no skid at a team stop and can be stopped (R52, R68). -/
def stoppable : GState → Bool
  | .pending => true
  | .active => true
  | .blocked => true
  | .yielding => true
  | .handler => true
  | .parked => true
  | _ => false

/-- What a stop broadcast does to one group (R68): a group that is not issuing, and the group that caused the stop,
become STOPPED at once; an ACTIVE one is marked, and goes on issuing within the skid bounds until STOP_RECORD_WRITE
(the turns it still gets are the agenda's, log 15). -/
def stopGroup (g : Group) (reason : Nat) (origin : BitVec 32) : Group :=
  let info : StopInfo := { prior := g.st, reason := reason, origin := origin }
  if g.st = .active ∧ BitVec.ofNat 32 g.handle ≠ origin then { g with stop := some info }
  else { g with st := .stopped, stop := some info, out := g.out || g.st == .pending }

/-- Broadcast a team stop (R68). One event-log entry of kind 6 is written (R362). -/
def stopTeam (s : State) (k t reason : Nat) (origin : BitVec 32) : State :=
  match kern? s k with
  | none => s
  | some kn =>
    let s1 := { s with groups := s.groups.map fun e =>
      if e.2.kern = k ∧ e.2.team = t ∧ stoppable e.2.st then
        (e.1, stopGroup e.2 reason origin)
      else e }
    logEvent s1 kn.ctx 6 reason k origin.toNat

end Sys2Proof.Machine
end

