-- ==== Sys2Proof/WellFormed.lean ====
section
/-! DEFINITION. Which instructions are well formed as words (R268 orders 4 and 5, and the pair and immediate rules of
order 6): what the word alone shows. A malformed one raises ILLEGAL. -/

namespace Sys2Proof

/-- The ty codes of LD and PREF (R256). -/
def loadTy (ty : BitVec 4) : Bool := decide (ty.toNat ≤ 6)

/-- The ty codes of ST (R256). -/
def storeTy (ty : BitVec 4) : Bool := ty == 0 || ty == 2 || ty == 4 || ty == 5 || ty == 6

/-- A scope code of R11. -/
def scopeOk (sc : BitVec 3) : Bool := decide (sc.toNat ≤ 5)

/-- A condition code of R256. -/
def ccOk (cc : BitVec 4) : Bool := decide (cc.toNat ≤ 8)

/-- An address space other than 3 (R207). -/
def aspOk (asp : BitVec 2) : Bool := asp != 3

/-- The block base of an engine command (R345): a multiple of 8, not 0. -/
def blockOk (a : BitVec 6) : Bool := decide (a.toNat % 8 = 0) && a != 0

/-- The control registers that R363 lists. -/
def csrOk (n : BitVec 6) : Bool := decide (n.toNat ≤ 13)

/-! ### C-words: what each entry accepts (R303 to R332, R336 to R342) -/

/-- Every operand kind (R262). -/
def anyKind : List Nat := [0, 1, 2, 3]

/-- The integer types of R308. -/
def intTy : List Nat := [0, 1, 2, 3, 4, 5, 11, 12]

/-- The float types of R311. -/
def fltTy : List Nat := [6, 7, 8]

/-- What the entry of a C-instruction accepts: type codes, kinds of each operand (none where the operand is unused),
destination kinds, whether the d field is unused, the modifiers (8 neg a, 4 neg b, 2 abs, 1 sat), whether rnd may be
set, the highest and lowest value of a c control, whether it is uniform (msel 00, mk 0), refuses msel 10, has no
stall count, uses imm24 as a field of its own, or reads its d field as an indexed form (R323), which may start at an odd
register. -/
structure CSpec where
  types   : List Nat
  a       : List Nat := []
  b       : List Nat := []
  c       : List Nat := []
  dks     : List Nat := [0, 2]
  noDest  : Bool := false
  mods    : Nat := 0
  rnd     : Bool := false
  ctl     : Option Nat := none
  ctlMin  : Nat := 0
  uniform : Bool := false
  noAll   : Bool := false
  noStall : Bool := false
  immUse  : Bool := false
  idxDest : Bool := false
  deriving DecidableEq, Repr

/-- The entry of each C-instruction. -/
def cSpec (i : Instr) : Option (CFields × CSpec) :=
  match i with
  | .nop f => some (f, { types := [0], dks := [0], noDest := true, uniform := true })
  | .end_ f => some (f, { types := [0], dks := [0], noDest := true, noStall := true, uniform := true })
  | .vadd f => some (f, { types := intTy, a := anyKind, b := anyKind, mods := 15 })
  | .vsub f => some (f, { types := intTy, a := anyKind, b := anyKind, mods := 15 })
  | .vmul f => some (f, { types := intTy, a := anyKind, b := anyKind, mods := 15 })
  | .vmulh f => some (f, { types := intTy, a := anyKind, b := anyKind, mods := 14 })
  | .vmin f => some (f, { types := intTy, a := anyKind, b := anyKind, mods := 14 })
  | .vmax f => some (f, { types := intTy, a := anyKind, b := anyKind, mods := 14 })
  | .vmad f => some (f, { types := intTy, a := anyKind, b := anyKind, c := anyKind, mods := 15 })
  | .vand f => some (f, { types := [13, 11, 12], a := anyKind, b := anyKind })
  | .vor f => some (f, { types := [13, 11, 12], a := anyKind, b := anyKind })
  | .vxor f => some (f, { types := [13, 11, 12], a := anyKind, b := anyKind })
  | .vshl f => some (f, { types := intTy, a := anyKind, b := anyKind })
  | .vshr f => some (f, { types := intTy, a := anyKind, b := anyKind })
  | .vsar f => some (f, { types := intTy, a := anyKind, b := anyKind })
  | .vabs f => some (f, { types := [0, 2, 4, 11], a := anyKind, mods := 1 })
  | .vclz f => some (f, { types := [1, 3, 5, 13], a := anyKind })
  | .vpopc f => some (f, { types := [1, 3, 5, 13], a := anyKind })
  | .vbrev f => some (f, { types := [1, 3, 5, 13], a := anyKind })
  | .vbfe f => some (f, { types := [0, 1], a := anyKind, b := anyKind })
  | .vbfi f => some (f, { types := [13], a := anyKind, b := anyKind, c := anyKind })
  | .vsel f => some (f, { types := [13, 11], a := anyKind, b := anyKind, c := [0, 1] })
  | .vicmp f => some (f, { types := [0, 1, 11, 12], a := anyKind, b := anyKind, mods := 14, dks := [0, 1, 3], ctl := some 5 })
  | .vfadd f => some (f, { types := fltTy, a := anyKind, b := anyKind, mods := 15, rnd := true })
  | .vfsub f => some (f, { types := fltTy, a := anyKind, b := anyKind, mods := 15, rnd := true })
  | .vfmul f => some (f, { types := fltTy, a := anyKind, b := anyKind, mods := 15, rnd := true })
  | .vfma f => some (f, { types := fltTy, a := anyKind, b := anyKind, c := anyKind, mods := 15, rnd := true })
  | .vfmin f => some (f, { types := fltTy, a := anyKind, b := anyKind, mods := 14 })
  | .vfmax f => some (f, { types := fltTy, a := anyKind, b := anyKind, mods := 14 })
  | .vfrcp f => some (f, { types := [6], a := anyKind, mods := 10 })
  | .vfrsq f => some (f, { types := [6], a := anyKind, mods := 10 })
  | .vfsqrt f => some (f, { types := [6], a := anyKind, mods := 10, rnd := true })
  | .vfexp2 f => some (f, { types := [6], a := anyKind, mods := 10 })
  | .vflog2 f => some (f, { types := [6], a := anyKind, mods := 10 })
  | .vfclass f => some (f, { types := fltTy, a := anyKind })
  | .vfcmp f => some (f, { types := [6], a := anyKind, b := anyKind, mods := 14, dks := [0, 1, 3], ctl := some 7 })
  | .vcvt f => some (f, { types := [0, 1, 2, 3, 4, 5, 6, 7, 8, 9, 10], a := anyKind, mods := 11, rnd := true, ctl := some 63 })
  | .vqswp f => some (f, { types := [13], a := anyKind, ctl := some 7, ctlMin := 1 })
  | .vshfl f => some (f, { types := [13], a := anyKind, b := anyKind, dks := [0] })
  | .vbcast f => some (f, { types := [13], a := anyKind, b := [1, 3], dks := [0] })
  | .vballot f => some (f, { types := [13], a := anyKind, dks := [0, 1, 3] })
  | .vprefix f => some (f, { types := [0, 1, 6], a := anyKind, mods := 1, rnd := true, ctl := some 7 })
  | .vred f => some (f, { types := [0, 1, 6, 13], a := anyKind, mods := 1, rnd := true, dks := [0, 1, 3], ctl := some 5 })
  | .vtopk f => some (f, { types := [0, 6], a := anyKind, dks := [0], ctl := some 32, ctlMin := 1 })
  | .vqred f => some (f, { types := [0, 1, 6, 13], a := anyKind, mods := 1, rnd := true, dks := [0], ctl := some 5 })
  | .kop f => some (f, { types := [11, 12, 13], a := [1, 3], b := if decide (12 ≤ f.c.toNat) && decide (f.c.toNat ≤ 14) then [] else [1, 3], dks := [1, 3], ctl := some 15, uniform := true })
  | .kfromv f => some (f, { types := [13], a := [0], b := [1, 3], dks := [1, 3], uniform := true })
  | .vfromk f => some (f, { types := [13], a := [1] })
  | .vmov f => some (f, { types := [13, 11], a := anyKind, immUse := true, idxDest := f.imm.getLsbD 0 && f.ak != 3 })
  | .xbound f => some (f, { types := [13], a := [1, 3], b := [1, 3], dks := [0], noDest := true, ctl := some 3, uniform := true })
  | .xset f => some (f, { types := [1], a := anyKind, dks := [0], noDest := true, ctl := some 3 })
  | .emnarrow f => some (f, { types := [13], a := [1, 3], dks := [0], noDest := true, uniform := true })
  | .emrestore f => some (f, { types := [13], a := [1, 3], dks := [0], noDest := true, uniform := true })
  | .nif f => some (f, { types := [13], a := [0], dks := [0], noDest := true, noAll := true })
  | .nelse f => some (f, { types := [0], dks := [0], noDest := true, noAll := true })
  | .nend f => some (f, { types := [0], dks := [0], noDest := true, noAll := true })
  | .nbreak f => some (f, { types := [13], a := [0], dks := [0], noDest := true, noAll := true, ctl := some 255, ctlMin := 1 })
  | .vpack f => some (f, { types := [4, 5, 6], a := anyKind, b := if f.c == 0 then anyKind else [], mods := 1, ctl := some 7 })
  | .vunpk f => some (f, { types := [4, 5, 6], a := anyKind, ctl := some 23 })
  | .vscale f => some (f, { types := fltTy, a := anyKind, b := [0, 1, 2], mods := 11, rnd := true })
  | .region f => some (f, { types := [0], dks := [0], immUse := true, uniform := true })
  | .mma f => some (f, { types := [0, 6], a := [0], b := [0], c := [0], dks := [0], immUse := true })
  | .mzero f => some (f, { types := [0, 6], dks := [0] })
  | .mload f => some (f, { types := [0, 6], a := [0], dks := [0], immUse := true })
  | .mstore f => some (f, { types := [0, 6], a := [0], dks := [0], immUse := true })
  | .mdrain f => some (f, { types := [0], a := [0], b := [1], c := [1], dks := [0], noDest := true, immUse := true })
  | .mdrainWindow f => some (f, { types := [0], a := [0], b := [1], dks := [0], noDest := true, immUse := true })
  | .mbf f => some (f, { types := [0], dks := [1, 3], uniform := true })
  | .mbw f => some (f, { types := [0], a := [1, 3], dks := [0], noDest := true, immUse := true, uniform := true })
  | .mbind f => some (f, { types := [0], a := [1], dks := [0], noDest := true, immUse := true, uniform := true })
  | _ => none

/-- The types whose values take an even register pair (R261). -/
def isPair (ty : Nat) : Bool := ty == 11 || ty == 12

/-- One operand field by its kind (R262). -/
def operandOk (ks : List Nat) (ty : Nat) (v : BitVec 8) (k : BitVec 2) : Bool :=
  if ks.isEmpty then v == 0 && k == 0
  else ks.contains k.toNat &&
    match k.toNat with
    | 0 => !isPair ty || decide (v.toNat % 2 = 0)
    | 1 => decide (v.toNat < 32)
    | 2 => decide (v.toNat ≤ 4) || v.getLsbD 7
    | _ => v == 0

/-- The c field as a control (R304), or as an operand. -/
def cFieldOk (sp : CSpec) (f : CFields) : Bool :=
  match sp.ctl with
  | some m => f.ck == 0 && decide (sp.ctlMin ≤ f.c.toNat) && decide (f.c.toNat ≤ m)
  | none => operandOk sp.c f.ty.toNat f.c f.ck

/-- The destination field by its kind (R263, R305). -/
def destOk (sp : CSpec) (f : CFields) : Bool :=
  sp.dks.contains f.dk.toNat &&
    (if sp.noDest then f.d == 0
     else match f.dk.toNat with
       | 0 => sp.idxDest || !isPair f.ty.toNat || decide (f.d.toNat % 2 = 0)
       | 1 => decide (f.d.toNat < 32)
       | 2 => f.d == 0 && !isPair f.ty.toNat
       | _ => f.d == 0)

/-- How many operands are immediates (R262 allows one). -/
def immCount (sp : CSpec) (f : CFields) : Nat :=
  (if f.ak == 3 then 1 else 0) + (if f.bk == 3 then 1 else 0) + (if f.ck == 3 && sp.ctl.isNone then 1 else 0)

/-- Reuse bits stand only on operands of kind 0 (R265). -/
def reuseOk (sp : CSpec) (f : CFields) : Bool :=
  (!f.reuse.getLsbD 2 || (!sp.a.isEmpty && f.ak == 0)) && (!f.reuse.getLsbD 1 || (!sp.b.isEmpty && f.bk == 0))
    && (!f.reuse.getLsbD 0 || (!sp.c.isEmpty && f.ck == 0 && sp.ctl.isNone))

/-- The rules every C-word shares (R260 to R265, R303, R304). -/
def commonOk (sp : CSpec) (f : CFields) : Bool :=
  sp.types.contains f.ty.toNat
    && (if sp.uniform then f.msel == 0 else !(sp.noAll && f.msel == 2))
    && (f.msel == 1 || f.msel == 3 || f.mreg == 0)
    && operandOk sp.a f.ty.toNat f.a f.ak && operandOk sp.b f.ty.toNat f.b f.bk && cFieldOk sp f
    && destOk sp f && reuseOk sp f
    && decide (immCount sp f ≤ 1)
    && (sp.immUse || immCount sp f == 1 || f.imm == 0)
    && decide (f.mod.toNat &&& sp.mods = f.mod.toNat)
    && (sp.rnd || f.rnd == 0)
    && (!sp.noStall || f.stall == 0)

/-- Elements in a lane of a type of VCVT (R314). -/
def elemCount (ty : Nat) : Nat :=
  match ty with
  | 0 => 1
  | 1 => 1
  | 6 => 1
  | 2 => 2
  | 3 => 2
  | 7 => 2
  | 8 => 2
  | _ => 4

/-- The rules of VCVT's control and rounding (R314, R268 order 5: rnd is 0 where nothing rounds). -/
def cvtOk (f : CFields) : Bool :=
  let tt := (f.c.extractLsb' 0 4).toNat
  let p := (f.c.extractLsb' 4 2).toNat
  let nf := elemCount f.ty.toNat
  let nt := elemCount tt
  decide (tt ≤ 10) && decide (p * min nf nt ≤ max nf nt - min nf nt)
    && (f.rnd == 0 || !(tt == f.ty.toNat || (decide (tt ≤ 5) && decide (f.ty.toNat ≤ 5))))

/-- Class of an MMA format code (R336); 0 for a reserved one. -/
def mmaClass (n : Nat) : Nat :=
  match n with
  | 0 => 1
  | 1 => 1
  | 2 => 2
  | 3 => 2
  | 4 => 3
  | 9 => 5
  | 5 => 4
  | 6 => 4
  | 7 => 4
  | 8 => 4
  | 10 => 4
  | _ => 0

/-- The reductions VRED and VQRED pair with types (R319), and rnd only where an add rounds. -/
def redOk (f : CFields) : Bool :=
  let ty := f.ty.toNat
  let op := f.c.toNat
  (if ty == 6 then decide (op ≤ 2) else if ty == 13 then decide (3 ≤ op) else true)
    && (f.rnd == 0 || (ty == 6 && op == 0))

/-- The rules an entry adds to the common ones. -/
def extraOk (i : Instr) : Bool :=
  match i with
  | .vcvt f => cvtOk f
  | .vprefix f => (f.c.extractLsb' 0 2 != 3 || f.ty != 6) && (f.rnd == 0 || (f.ty == 6 && f.c.extractLsb' 0 2 == 0))
  | .vred f => redOk f
  | .vqred f => redOk f
  | .vtopk f => decide (f.d.toNat ≤ 254)
  | .vmov f =>
    if f.imm.getLsbD 0 && f.ak != 3 then f.dk == 0 && f.d.getLsbD 7 && f.imm.extractLsb' 1 23 == 0
    else f.ak == 3 || f.imm == 0
  | .vpack f =>
    if f.c == 0 then f.ty != 6
    else f.ty == 6 && f.mod == 0
      && (f.c != 6 || (f.ak == 0 && decide (f.a.toNat ≤ 244) && f.dk == 0 && decide (f.d.toNat ≤ 254)))
  | .vunpk f =>
    let code := (f.c.extractLsb' 0 4).toNat
    decide (code ≤ 7) &&
      (if code == 0 then f.ty != 6
       else f.ty == 6 && decide (f.c.toNat < 16)
         && (code != 6 || (f.ak == 0 && decide (f.a.toNat ≤ 254) && f.dk == 0 && decide (f.d.toNat ≤ 244))))
  | .mma f =>
    let ca := mmaClass (f.imm.extractLsb' 0 4).toNat
    let cb := mmaClass (f.imm.extractLsb' 4 4).toNat
    ca != 0 && ca == cb && f.imm.extractLsb' 8 16 == 0 && (if ca == 3 then f.ty == 0 else f.ty == 6)
      && (decide (4 ≤ ca) || f.c == 0) && f.reuse == 0
  | .mzero f => f.reuse == 0
  | .mload f => f.imm.extractLsb' 3 21 == 0 && f.reuse == 0
  | .mstore f => f.imm.extractLsb' 3 21 == 0 && f.reuse == 0
  | .mdrain f =>
    decide ((f.imm.extractLsb' 0 4).toNat ≤ 7) && (f.imm.extractLsb' 4 2 == 0 || f.imm.extractLsb' 4 2 == 2)
      && f.imm.extractLsb' 6 2 != 3 && f.imm.extractLsb' 9 15 == 0 && f.c != 0 && f.reuse == 0
  | .mdrainWindow f =>
    f.imm.extractLsb' 0 4 == 15 && (f.imm.extractLsb' 4 2 == 0 || f.imm.extractLsb' 4 2 == 2) && f.imm.extractLsb' 6 2 != 3
      && f.imm.extractLsb' 9 15 == 0 && f.reuse == 0
  | .mbf f => f.mod == 0
  | .mbw f => if f.ak == 3 then f.imm.extractLsb' 16 8 == 0 else f.imm == 0
  | .mbind f => f.imm.extractLsb' 0 2 != 3 && f.imm.extractLsb' 2 22 == 0
  | _ => true

/-- A C-word is well formed: its entry accepts every field. -/
def cWf (i : Instr) : Bool :=
  match cSpec i with
  | some (f, sp) => commonOk sp f && extraOk i
  | none => true

/-! ### Odnar words (R267, R383 to R391) -/

/-- A tree arity (R383): 2 to 64. -/
def arityOk (q : Nat) : Bool := decide (2 ≤ q) && decide (q ≤ 64)

/-- The unused fields of an Odnar word are zero and its controls are listed ones, whatever plan holds it. -/
def oWf (i : Instr) : Bool :=
  match i with
  | .odnarNop x => x.d == 0 && x.a == 0 && x.b == 0 && x.f == 0 && x.imm == 0
  | .setg x => x.a == 0 && x.b == 0 && decide (x.f.toNat ≤ 12)
      && (if x.f == 0 then true else if x.f == 8 then decide (x.imm.toNat < 16) else x.imm == 0)
  | .addg x => decide (x.f.toNat ≤ 7)
  | .peer x => x.b == 0 && decide (x.f.toNat ≤ 4)
      && (decide (x.f.toNat ≤ 1) || (arityOk x.imm.toNat && (x.f == 3 || x.a == 0)))
  | .chunk x => x.b == 0 && decide (x.f.toNat ≤ 2) && (x.f != 0 || x.a == 0) && decide (x.imm.toNat < 16)
  | .sendAcc x => x.f == 0 && x.d == 0 && decide (x.imm.toNat < 0x100000)
  | .sendOwn x => x.f == 1 && x.d == 0 && decide (x.imm.toNat < 0x100000)
  | .sendMem x => x.f == 2 && decide (x.imm.toNat < 0x100000)
  | .recvAcc x => x.f == 0 && x.d == 0 && decide (x.imm.toNat < 0x100000)
  | .recvDest x => x.f == 1 && x.d == 0 && decide (x.imm.toNat < 0x100000)
  | .rrs x => x.f == 0 && decide (x.imm.toNat < 0x100000)
  | .copyOwn x => x.f == 0 && x.d == 0 && x.a == 0 && decide (x.imm.toNat < 16)
  | .copyDest x => x.f == 1 && x.d == 0 && x.a == 0 && decide (x.imm.toNat < 16)
  | .copyLoad x => x.f == 2 && x.d == 0 && decide (x.imm.toNat < 16)
  | .copyStore x => x.f == 3 && x.d == 0 && decide (x.imm.toNat < 16)
  | .match_ x => x.f == 0 && decide (x.imm.toNat < 0x100000)
  | .combine x => x.d == 0 && x.f == 0 && decide (x.imm.toNat < 0x100000)
  | .forward x => decide (x.f.toNat ≤ 1) && decide (x.imm.toNat < 0x100000)
  | .scalex x => x.d == 0 && x.b == 0 && x.f == 0 && arityOk (x.imm.toNat / 0x100000)
  | .waitWin x => x.f == 0 && x.d == 0 && x.a == 0 && x.b == 0 && decide (x.imm.toNat < 16)
  | .waitSig x => x.f == 1 && x.d == 0 && x.b == 0 && x.imm == 0
  | .waitTime x => x.f == 2 && x.d == 0 && x.b == 0 && x.imm == 0
  | .waitBar x => x.f == 3 && x.d == 0 && x.b == 0 && decide (x.imm.toNat < 2)
  | .signal x => x.f == 0 && x.d == 0 && x.b == 0 && decide (x.imm.toNat < 0x10000)
  | .signalSub x => x.f == 1 && x.d == 0 && x.imm == 0
  | .bset x => x.d == 0 && x.b == 0 && x.f == 0 && decide (x.imm.toNat < 0x1000)
  | .loop x => decide (x.d.toNat < 4) && x.b == 0 && x.f == 0
  | .endl x => decide (x.d.toNat < 4) && x.a == 0 && x.b == 0 && x.f == 0 && decide (x.imm.toNat < 0x100000)
  | .brg x => x.d == 0 && decide (x.f.toNat ≤ 6) && (x.f != 6 || (x.a == 0 && x.b == 0))
  | .tstart x => x.b == 0 && x.f == 0 && x.imm == 0
  | .yieldc x => x.d == 0 && x.a == 0 && x.b == 0 && x.f == 0 && x.imm == 0
  | .ackw x => x.d == 0 && x.a == 0 && x.b == 0 && x.f == 0 && decide (x.imm.toNat < 16)
  | .odnarEnd x => x.d == 0 && x.a == 0 && x.b == 0 && x.f == 0 && x.imm == 0
  | _ => true

/-! ### Every instruction -/

/-- A well-formed instruction, as far as the word alone shows. -/
def Instr.wf (i : Instr) : Bool :=
  match i with
  | .bcc cc _ _ => ccOk cc
  | .bxq cc _ => ccOk cc
  | .brs policy _ _ => policy != 3
  | .ld ty asp _ _ _ _ => loadTy ty && aspOk asp
  | .lda ty asp _ _ _ _ => decide (ty.toNat ≤ 5) && aspOk asp
  | .st ty asp _ _ _ _ => storeTy ty && aspOk asp
  | .pref ty asp _ _ _ _ => loadTy ty && aspOk asp
  | .ldf ty _ _ _ => ty == 8 || ty == 9
  | .atom aop asp sc _ _ at_ _ =>
    decide (aop.toNat ≤ 13) && aspOk asp && scopeOk sc && decide (at_.toNat ≤ 1) && (decide (aop.toNat ≤ 9) || at_ == 0)
  | .atoms aop sc _ _ _ => decide (aop.toNat ≤ 13) && scopeOk sc
  | .cpy _ a => blockOk a
  | .cpysp _ a => blockOk a
  | .gath _ a => blockOk a
  | .scat _ a => blockOk a
  | .spillb _ a => blockOk a
  | .filla _ a => blockOk a
  | .binit asp _ _ => aspOk asp
  | .barrive _ asp _ _ _ => aspOk asp
  | .bexpect asp _ _ => aspOk asp
  | .bwait asp _ _ => aspOk asp
  | .btest asp _ _ _ => aspOk asp
  | .bstat asp _ _ _ => aspOk asp
  | .fence kind sc => kind != 0 && scopeOk sc
  | .enq _ _ b => decide (b.toNat % 8 = 0)
  | .deq d _ => decide (d.toNat % 8 = 0) && d != 0
  | .csrr _ n => csrOk n
  | .csrw _ n => csrOk n
  | i => cWf i && oWf i

end Sys2Proof
end

