-- ==== Sys2Proof/Machine/Operands.lean ====
section
/-! DEFINITION. Operand forms of the A-stream and what every A-instruction shares: the fates of R268, SPDIST,
retirement, blocking. -/

namespace Sys2Proof.Machine

open Sys2Proof

/-! ### Operand forms (R255, R290) -/

/-- A signed immediate or offset of `n` bits as a 64-bit value. -/
def sx {n : Nat} (x : BitVec n) : Word := x.signExtend 64

/-- `PC + 4 * SignExt(off)` (R255, R279). -/
def target {n : Nat} (pc : Word) (off : BitVec n) : Word := pc + 4 * sx off

/-- Size in bytes of an AM type code (R256). -/
def tySize (ty : Nat) : Nat :=
  match ty with
  | 0 => 1
  | 1 => 1
  | 2 => 2
  | 3 => 2
  | 4 => 4
  | 5 => 8
  | 6 => 16
  | _ => 4

/-- LQ or SAQ entries of an AM type code (R256). -/
def tyEntries (ty : Nat) : Nat :=
  match ty with
  | 5 => 2
  | 6 => 4
  | _ => 1

/-- Lane address of an AM instruction (R290): value 31 of aa means no vector part. -/
def eaAM (g : Group) (aa : BitVec 5) (sb : BitVec 6) (disp : Word) (l : Nat) : Word :=
  (if aa = 31 then 0 else aReg g aa.toNat l) + rs g sb + disp

/-- Lane address of ATOM (R290): value 31 of aa names a31, and there is no displacement. -/
def eaAA (g : Group) (aa : BitVec 5) (sb : BitVec 6) (l : Nat) : Word := aReg g aa.toNat l + rs g sb

/-! ### Fates of encodings (R268) -/

/-- The major opcode of an A-instruction. -/
def majorOf (i : Instr) : Nat := ((encodeA i).extractLsb' 26 6).toNat

/-- The instructions that may be issued in handler state (R259). -/
def handlerOk (i : Instr) : Bool :=
  let m := majorOf i
  let fn := ((encodeA i).extractLsb' 0 8).toNat
  decide (m ≤ 0x0B) || (decide (0x10 ≤ m) && decide (m ≤ 0x13)) || m == 0x1E || m == 0x1F || m == 0x21 || m == 0x24
    || (m == 0x2A && fn == 0) || m == 0x30 || (m == 0x31 && (fn == 1 || fn == 3 || fn == 4)) || m == 0x38

/-- The a-registers an instruction names (R110, R255). -/
def aNames (i : Instr) : List Nat :=
  let am (aa : BitVec 5) : List Nat := if aa = 31 then [] else [aa.toNat]
  match i with
  | .vaadd d a b => [d.toNat, a.toNat, b.toNat]
  | .vaadds d a _ => [d.toNat, a.toNat]
  | .vasub d a b => [d.toNat, a.toNat, b.toNat]
  | .vamuls d a _ => [d.toNat, a.toNat]
  | .vamads d a _ => [d.toNat, a.toNat]
  | .vashls d a _ => [d.toNat, a.toNat]
  | .vashrs d a _ => [d.toNat, a.toNat]
  | .vaands d a _ => [d.toNat, a.toNat]
  | .vaiota d _ _ => [d.toNat]
  | .vamovs d _ => [d.toNat]
  | .vaext _ a _ => [a.toNat]
  | .vains d _ _ => [d.toNat]
  | .valtm _ a b => [a.toNat, b.toNat]
  | .vaeqm _ a b => [a.toNat, b.toNat]
  | .brx aa _ _ => [aa.toNat]
  | .ld _ _ _ aa _ _ => am aa
  | .lda _ _ _ aa _ d => d.toNat :: am aa
  | .st _ _ _ aa _ _ => am aa
  | .ldf _ _ aa _ => am aa
  | .atom _ _ _ aa _ _ _ => [aa.toNat]
  | .pref _ _ _ aa _ _ => am aa
  | _ => []

/-- The check of an SP's index and place (R112). -/
def spFault (k : Kernel) (g : Group) (idx : Nat) : Bool :=
  match k.table.drop idx with
  | [] => true
  | e :: _ =>
    match (if inHandler g then none else g.stub) with
    | some (j, _) => decide (idx ≠ j)
    | none => decide ((g.pc - aBase k).toNat ≠ e.pc) || decide (e.pc = 0xFFFFFFFF)

/-- Fate 7 of R268 for A-instructions: SP index, DISP offset. -/
def modeFault (k : Kernel) (g : Group) (i : Instr) : Bool :=
  match i with
  | .sp idx => spFault k g idx.toNat
  | .disp off => decide (k.hdr.clen ≤ 12 * off.toNat)
  | _ => false

/-- A fault at the instruction the A-stream stands at. -/
def faultAt (g : Group) (code : Nat) (w7 : Nat) : FaultInfo := { code := code, pc := g.pc, w7 := BitVec.ofNat 64 w7 }

/-- ILLEGAL at the A-stream's instruction, with the failing word in word 7 (R268). -/
def illegal (g : Group) (i : Instr) : FaultInfo := faultAt g 0x01 (encodeA i).toNat

/-- The first fate of R268, orders 2 to 7, that applies to a decoded A-instruction. -/
def fate (k : Kernel) (g : Group) (i : Instr) : Option FaultInfo :=
  if majorOf i = 0x38 ∧ ¬ inHandler g then some (faultAt g 0x15 (encodeA i).toNat)
  else if inHandler g ∧ ¬ handlerOk i then some (illegal g i)
  else if ¬ i.wf then some (illegal g i)
  else if (aNames i).any fun n => decide (k.hdr.na ≤ n) then some (illegal g i)
  else if modeFault k g i then some (illegal g i)
  else none

/-- The instruction would make the SPDIST count exceed the kernel's limit, or a stub run too long (R65, R114). -/
def spdistDue (k : Kernel) (g : Group) (i : Instr) : Bool :=
  !inHandler g &&
    match i, g.stub with
    | .sp _, _ => false
    | _, some (_, n) => decide (8192 ≤ n)
    | _, none => decide (k.hdr.spdist ≤ g.spcnt)

/-- The instructions that must immediately follow an SP (R35). -/
def isBlocking (i : Instr) : Bool :=
  match i with
  | .bwait _ _ _ => true
  | .mwait => true
  | .deq _ _ => true
  | .join => true
  | .xpop _ => true
  | .fpark _ _ => true
  | .yield => true
  | .lda _ _ _ _ _ _ => true
  | _ => false

/-- The instruction stands immediately after an SP of its own stream (R35). -/
def followsSp (g : Group) : Bool := if inHandler g then g.hFollow else g.follow

/-! ### Retirement -/

/-- Retire the instruction and go on at `npc`: counts, SP adjacency and, after a stop broadcast, the skid (R65,
R68, R363). -/
def retire (g : Group) (npc : Word) : Group :=
  { g with
    pc := npc
    retired := g.retired + 1
    spcnt := if inHandler g ∨ g.stub.isSome then g.spcnt else g.spcnt + 1
    stub := if inHandler g then g.stub else g.stub.map fun e => (e.1, e.2 + 1)
    follow := if inHandler g then g.follow else false
    hFollow := false
    refused := if inHandler g then g.refused else []
    deqRec := if inHandler g then g.deqRec else []
    woken := false
    wake := none
    stop := g.stop.map fun x => { x with skidA := x.skidA + 1 } }

/-- Retire and go on at the next word. -/
def advance (g : Group) : Group := retire g (g.pc + 4)

/-- A control transfer clears the last-SP index of its stream (R283, R359). -/
def clearSp (g : Group) : Group :=
  if inHandler g then { g with hLastSp := none } else { g with lastSp := none }

/-- Retire a control transfer to `npc`. -/
def jump (g : Group) (npc : Word) : Group := clearSp (retire g npc)

/-- The C-stream has finished every block dispatched so far. -/
def cIdle (g : Group) : Bool := g.bq.isEmpty && g.cpos.isNone

/-- A group that is BLOCKED or YIELDING leaves the active set, and gives up its operand buffer, once its C-stream is idle
(R46, R48, R50). -/
def leaveIdle (g : Group) : Group :=
  if (g.st == .blocked || g.st == .yielding) && cIdle g then { g with out := true, obuf := [] } else g

/-- Become BLOCKED at a blocking point, or YIELDING when a request is pending (R36, R52, R66). A group that a team stop has
reached issues nothing new: it goes no further (R68). -/
def blockOn (s : State) (gid : Nat) (g : Group) (w : Wake) : State :=
  if g.stop.isSome then s
  else setGrp s gid (leaveIdle { g with
    wake := some w
    woken := false
    blockedAt := s.now
    bqMark := g.bq.length
    st := if g.yreq then .yielding else .blocked })

/-! ### Issue -/

/-- The group may issue an A-instruction: it has its place in the active set, and is ACTIVE (within the skid of a stop) or
in HANDLER state (R46, R47). -/
def canIssue (g : Group) : Bool :=
  !g.out &&
    match g.st with
    | .active =>
      match g.stop with
      | none => true
      | some x => decide (x.skidA < 16)
    | .handler => true
    | _ => false

/-- What every A-instruction shares: pending faults of earlier accesses are taken at this boundary (R38), then the
fates of R268, SPDIST (R65), the SP that a blocking instruction needs (R35), and then the instruction's own body. -/
def issueCore (i : Instr) (gid : Nat) (g : Group) (k : Kernel) (s : State) (body : Nat → Group → State → State) :
    State :=
  if !canIssue g then s
  else
    match (if inHandler g then [] else g.afaults) with
    | (f, h) :: rest => takeFault (setGrp s gid { g with afaults := rest, held := h }) gid f
    | [] =>
      match fate k g i with
      | some f => takeFault s gid f
      | none =>
        if spdistDue k g i then takeFault s gid (faultAt g 0x0B 0)
        else if isBlocking i && !followsSp g then takeFault s gid (illegal g i)
        else body gid g s

/-- Issue an A-instruction of the current group. -/
def issueA (i : Instr) (s : State) (body : Nat → Group → State → State) : Res :=
  match s.cur with
  | .group gid =>
    match grp? s gid with
    | none => .refused .noActor
    | some g =>
      match kern? s g.kern with
      | none => .refused .noActor
      | some k => .next (issueCore i gid g k s body)
  | _ => .refused .noActor

/-- Issue an A-instruction that changes only the group's own registers. -/
def issueReg (i : Instr) (s : State) (f : Group → Group) : Res :=
  issueA i s fun gid g s => setGrp s gid (f g)

/-! ### Structures outside the partition's range (R162) -/

/-- The fault of an instruction that needs a structure outside its partition's range (R162, log 42). -/
def structFault (g : Group) (pa : Nat) : FaultInfo :=
  { code := 0x03, pc := g.pc, w3 := BitVec.ofNat 64 pa, w4 := BitVec.ofNat 64 pa, w7 := 5 }

/-- A reservation of `n` entries that goes on into the slip ring finds the group-table entry out of range. -/
def ringOut (s : State) (g : Group) (n : Nat) : Option Nat := if g.lq.length + n ≤ 64 then none else structOut s g false

/-! ### Where code lies -/

/-- The physical address of a byte of code (R133, R134): a range closed to threads closes fetches too, and code is not fetched
over the fabric (log 22). -/
def codePlace (s : State) (g : Group) (va : Word) : State × Except TFault Nat :=
  match translate s g.core g.ctx va.toNat .fetch with
  | (s1, .error e) => (s1, .error e)
  | (s1, .ok t) =>
    match placeFault s1 g.ctx t.pa with
    | some r => (s1, .error (0x03, r))
    | none => if isFabric t.pa ∨ isAlias t.pa then (s1, .error (0x03, 5)) else (s1, .ok t.pa)

end Sys2Proof.Machine
end

