-- ==== Sys2Proof/Machine/Remote.lean ====
section
/-! DEFINITION. Remote line requests of the coalescer (R193, R196 to R204): making them, and what becomes of one that
fails. -/

namespace Sys2Proof.Machine

open Sys2Proof

/-- The package a fabric address names (R132). -/
def pkgOf (pa : Nat) : Nat := bits pa 43 12

/-- The offset in the target package (R132). -/
def offOf (pa : Nat) : Nat := pa % 2 ^ 43

/-- The port mask of a package's route entry, empty where the entry is not valid (R193). -/
def routeMask (s : State) (pkg : Nat) : BitVec 32 :=
  let e := SMap.get s.fabric.routes 0 pkg
  if e.getLsbD 63 then e.truncate 32 else 0

/-- The ports on which a partition reaches a package (R193). -/
def partRoute (s : State) (part pkg : Nat) : BitVec 32 := routeMask s pkg &&& (partOf s part).ports

/-- A route to a package that the source partition may use (R193). -/
def routeOk (s : State) (ctxN pkg : Nat) : Bool := partRoute s (ctxOf s ctxN).part pkg != 0

/-- The port of a mask that a hash chooses (R193, log 11). -/
def pickPort (m : BitVec 32) (h : Nat) : Option Nat :=
  let ps := (List.range 32).filter fun i => m.getLsbD i
  ps[h % ps.length]?

/-- Why an access cannot leave: die cut off, host port in reset, no route (R184, R190, R193); the FABRIC reason. -/
def fabricReason (s : State) (core ctxN pa : Nat) : Option Nat :=
  if severed s (coreDie core) pa then some 6
  else if isHostMem pa && s.fabric.hostReset then some 5
  else if isFabric pa && !routeOk s ctxN (pkgOf pa) then some 7
  else none

/-- Line requests in a core's coalescer. -/
def coreReqs (s : State) (core : Nat) : List (Nat × RReq) :=
  s.fabric.reqs.filter fun e => decide (e.2.core = core) && !e.2.held

/-- The coalescer's input holds the remote lanes of 32 instructions, beyond the requests that have places in the tag
table (R196). -/
def inputFull (s : State) (core : Nat) : Bool :=
  let past := ((coreReqs s core).drop 4096).map fun e => (e.2.g, e.2.stamp)
  decide (32 ≤ (past.foldl (fun (m : List (Nat × Nat)) x => if m.contains x then m else x :: m) []).length)

/-- Put a line request into the coalescer of its core (R196). -/
def addReq (s : State) (r : RReq) : State :=
  { s with
    serial := s.serial + 1
    fabric := { s.fabric with
      reqs := SMap.put s.fabric.reqs s.serial { r with
        opened := s.now, ctx := r.g / 1048576, part := (ctxOf s (r.g / 1048576)).part } } }

/-- The 8-byte words that a run of bytes touches. -/
def wordsOf (pa n : Nat) : List Nat := (List.range ((pa % 8 + n + 7) / 8)).map fun i => pa / 8 + i

/-- Distinct members of a list, first occurrences kept. -/
def distinct : List Nat → List Nat
  | [] => []
  | x :: xs => x :: (distinct xs).filter fun y => y ≠ x

/-- The remote runs of a lane's access. -/
def remoteParts (a : LaneAcc) : List (Nat × Nat) :=
  a.parts.filterMap fun p =>
    match p.1 with
    | .phys pa _ => if isFabric pa then some (pa, p.2) else none
    | .scratch _ => none

/-- The remote words that some lanes of a load need. -/
def remoteWords (acc : SMap LaneAcc) (lanes : BitVec 32) : List Nat :=
  distinct ((acc.filter fun e => lanes.getLsbD e.1).flatMap fun e => (remoteParts e.2).flatMap fun p => wordsOf p.1 p.2)

/-- An empty line request. -/
def noLine : LineReq := ⟨0, 0, [], 0, false, false, 0, []⟩

/-- Make the small-read line requests that some lanes of a load need and have not had answered, one for each line (R196,
R197, R199). -/
def readReqs (s : State) (gid : Nat) (g : Group) (l : LoadReq) (lanes : BitVec 32) : State :=
  let ws := (remoteWords l.acc lanes).filter fun w => (SMap.find? l.data w).isNone
  (distinct (ws.map (· / 16))).foldl (fun s line =>
    let mask := (ws.filter fun w => w / 16 = line).foldl (fun (m : BitVec 128) w => m ||| BitVec.ofNat 128 (2 ^ (w % 16))) 0
    let on := maskOf ((lanesOf lanes).filter fun i =>
      (remoteWords l.acc (laneBit i)).any fun w => decide (w / 16 = line))
    addReq s { core := g.core, g := gid, lanes := on, op := 1, dst := pkgOf (128 * line), stamp := l.stamp,
               resv := l.first, pc := l.pc, addr := BitVec.ofNat 64 (128 * line),
               line := { noLine with line := offOf (128 * line) / 128, mask := mask } }) s

/-- A scalar access has a request to an address on its way. -/
def syncOut (s : State) (gid pa : Nat) : Bool :=
  s.fabric.reqs.any fun e => e.2.sync && decide (e.2.g = gid) && decide (e.2.addr.toNat = pa)

/-- A scalar access to a fabric address that has asked for nothing yet waits before translation while the coalescer's input is
full (R196). -/
def scalarHeld (s : State) (gid : Nat) (g : Group) (addr : Word) (n : Nat) (kind : Access) : Bool :=
  inputFull s g.core &&
    match (checkAccess s g 0 addr n n kind).2 with
    | .ok (.phys pa _) => isFabric pa && (SMap.find? g.rval pa).isNone && g.rbad.isNone && !syncOut s gid pa
    | _ => false

/-- What an access that waits for its data finds: its value, a fault, or nothing yet. -/
inductive Sync where
  | value (v : Word)
  | bad (code w7 : Nat)
  | wait
  deriving DecidableEq, Repr

/-- A scalar access to a fabric address (R295, R300): the value that has returned, the fault that has, or a wait after
sending the request. -/
def syncRemote (s : State) (gid : Nat) (g : Group) (pa : Nat) (op : Nat) (line : LineReq) : State × Sync :=
  match fabricReason s g.core g.ctx pa with
  | some r => (s, .bad 0x0F r)
  | none =>
    match SMap.find? g.rval pa with
    | some v => (s, .value v)
    | none =>
      match g.rbad with
      | some (a, c, w) => if a = pa then (s, .bad c w) else (s, .wait)
      | none =>
        if syncOut s gid pa then (s, .wait)
        else
          (addReq s { core := g.core, g := gid, op := op, dst := pkgOf pa, stamp := g.seq, pc := g.pc,
                      addr := BitVec.ofNat 64 pa, sync := true, lanes := 1, line := line }, .wait)

/-- A remote read of `n` bytes by a scalar access. -/
def syncRead (s : State) (gid : Nat) (g : Group) (pa n : Nat) : State × Sync :=
  let off := offOf pa
  let mask := BitVec.ofNat 128 (2 ^ (off % 128 / 8))
  match syncRemote s gid g pa 1 { noLine with line := off / 128, mask := mask } with
  | (s', .value v) => (s', .value (BitVec.ofNat 64 (v.toNat / 2 ^ (8 * (pa % 8)) % 2 ^ (8 * n))))
  | r => r

/-- Remote requests of a group that are not yet answered. -/
def remoteOut (s : State) (gid : Nat) : List (Nat × RReq) := s.fabric.reqs.filter fun e => e.2.g = gid

/-- Remote stores and non-fetching atomics of a group not yet acknowledged. -/
def unacked (s : State) (gid : Nat) : Bool :=
  (remoteOut s gid).any fun e => e.2.op == 3 || e.2.op == 4

/-! ### A group's order of accesses (R215, R216, R218) -/

/-- Two runs of bytes overlap. -/
def locsOverlap (a : Loc) (n : Nat) (b : Loc) (m : Nat) : Bool :=
  match a, b with
  | .scratch x, .scratch y => decide (x < y + m) && decide (y < x + n)
  | .phys x _, .phys y _ => decide (x < y + m) && decide (y < x + n)
  | _, _ => false

/-- The place of one lane of an SAQ entry, from its address (R418). -/
def saqLoc (s : State) (g : Group) (e : SaqEntry) (l : Nat) : Option Loc :=
  let a := SMap.get e.addr 0 l
  match e.asp with
  | 1 => scratchLoc s g a e.size
  | 2 => bankLoc s g a e.size
  | _ => some (.phys a (e.direct.getLsbD l))

/-- The number of a group. -/
def gidOf (g : Group) : Nat := g.ctx * 1048576 + g.entry

/-- Barrier updates of a group not yet performed (R350). -/
def ownUpdates (s : State) (gid : Nat) : List BarUpd := s.homeQ.filter fun u => u.from_ = some gid

/-- An unsent store or atomic of the group earlier than `stamp`, or an unperformed barrier update, that overlaps a run of
bytes (R216). A barrier update is sent once the group's earlier accesses to the object are performed, so every access that
finds one is later. -/
def overlapsSaq (s : State) (g : Group) (stamp : Nat) (l : Loc) (n : Nat) : Bool :=
  ((ownUpdates s (gidOf g)).any fun u => locsOverlap u.home 32 l n)
    || g.saq.any fun e => decide (e.stamp < stamp) && (lanesOf e.mask).any fun i =>
    match saqLoc s g e i with
    | some x => locsOverlap x e.size l n
    | none => false

/-- A remote request counts among the earlier writes of a fence: non-temporal ones do not (R222). -/
def reqBefore (gid stamp : Nat) (e : Nat × RReq) : Bool :=
  decide (e.2.g = gid) && decide (e.2.stamp < stamp) && (e.2.op == 3 || e.2.op == 4) && !e.2.nt

/-- A fence of a group is in force (R218): for an acquire every earlier read has returned; for a release every earlier
access is performed, non-temporal and window stores apart. -/
def fenceReady (s : State) (gid : Nat) (g : Group) (f : FenceRec) : Bool :=
  !(f.rel && decide (3 ≤ f.scope) && (dieSt s (coreDie g.core)).fwd.any fun w => linkWaits s (coreDie g.core) (128 * w.line))
    && (g.loads.all fun l => decide (f.stamp ≤ l.stamp))
    && (g.saq.all fun e => decide (f.stamp ≤ e.stamp) || (e.kind != .atomic && !f.rel) || e.nt || e.kind == .window)
    && !(s.fabric.reqs.any fun e => reqBefore gid f.stamp e && (f.rel || e.2.op == 4))
    && (!f.rel || (ownUpdates s gid).isEmpty)

/-- What coming into force does to the caches: a release performs the writes of the core, and of its die, at its scope; an
acquire drops what is clean in the core's L1, at die scope or wider (R210, R213, R218). -/
def fenceAct (s : State) (core : Nat) (f : FenceRec) : State :=
  let s1 := if f.rel ∧ 2 ≤ f.scope then flushTo s core f.scope else s
  if f.acq ∧ 2 ≤ f.scope then dropClean s1 core else s1

/-- Bring into force, oldest first, the fences that are ready. -/
def settleList (s : State) (gid : Nat) (g : Group) : List FenceRec → State
  | [] => modGrp s gid fun x => { x with fences := [] }
  | f :: rest =>
    if fenceReady s gid g f then settleList (fenceAct s g.core f) gid g rest
    else modGrp s gid fun x => { x with fences := f :: rest }

def settleFences (s : State) (gid : Nat) : State :=
  match grp? s gid with
  | none => s
  | some g => if g.fences.isEmpty then s else settleList s gid g g.fences

/-- An access of a group may be performed: no fence before it is still to come into force, a release alone holding
back writes only. -/
def accessOk (g : Group) (stamp : Nat) (isWrite : Bool) : Bool :=
  !(g.fences.any fun f => decide (f.stamp ≤ stamp) && (f.acq || isWrite))

/-- Put a fence into the group's program order at its present place. -/
def pushFence (g : Group) (acq rel : Bool) (scope : Nat) : Group :=
  { g with fences := g.fences ++ [{ acq := acq, rel := rel, scope := scope, stamp := g.seq }], seq := g.seq + 1 }

/-- A load of the group in flight that overlaps a run of bytes (R216). -/
def overlapsLoads (g : Group) (l : Loc) (n : Nat) : Bool :=
  g.loads.any fun r => r.acc.any fun e => r.lanes.getLsbD e.1 && e.2.parts.any fun p => locsOverlap p.1 p.2 l n

/-- A load of the group earlier than `stamp` and still in flight overlaps a run of bytes (R216). -/
def loadsBefore (g : Group) (stamp : Nat) (l : Loc) (n : Nat) : Bool :=
  overlapsLoads { g with loads := g.loads.filter fun r => decide (r.stamp < stamp) } l n

/-! ### Scalar reads (R295) -/

/-- What a scalar read finds: a value, a failing check, or nothing yet. -/
inductive Got where
  | value (v : Word)
  | bad (b : Bad)
  | wait
  deriving DecidableEq, Repr

/-- The fault record of a failing access at issue. -/
def badInfo (g : Group) (b : Bad) (lanes : BitVec 32) : FaultInfo :=
  { code := b.code, pc := g.pc, w3 := b.w3, w4 := b.w4, w5 := lanes, w7 := BitVec.ofNat 64 b.w7 }

/-- The same for a fault of the read itself: it is known only on return (R38). -/
def readInfo (g : Group) (b : Bad) (lanes : BitVec 32) : FaultInfo :=
  { badInfo g b lanes with inslot := b.code == 0x0E || b.code == 0x0F }

/-- Read a checked place for a scalar instruction: it waits for the group's own earlier accesses of the bytes (R216), a remote
place for its response, and a local one for its link (R186). -/
def scalarFetch (s : State) (gid : Nat) (g : Group) (addr : Word) (l : Loc) (n : Nat) : State × Got :=
  let pa := match l with | .phys p _ => p | .scratch _ => 0
  let phys := match l with | .phys _ _ => true | .scratch _ => false
  match (if phys then fabricReason s g.core g.ctx pa else none) with
  | some r => (s, .bad ⟨0x0F, addr, addr, r⟩)
  | none =>
    if overlapsSaq s g g.seq l n || loadsBefore g g.seq l n then (s, .wait)
    else if phys && isFabric pa then
      match syncRead s gid g pa n with
      | (s1, .value v) => (s1, .value v)
      | (s1, .bad c w) => (s1, .bad ⟨c, addr, addr, w⟩)
      | (s1, .wait) => (s1, .wait)
    else if phys && linkWaits s (coreDie g.core) pa then (s, .wait)
    else if phys && badLine s pa then (s, .bad ⟨0x0E, addr, addr, 0⟩)
    else
      let r := thrNat s g.core (slotOf s g.ctx) l n
      (r.1, .value (BitVec.ofNat 64 r.2))

/-- A naturally aligned scalar read of the virtual space by a group (R295). -/
def scalarRead (s : State) (gid : Nat) (addr : Word) (n : Nat) : State × Got :=
  let s0 := settleFences s gid
  match grp? s0 gid with
  | none => (s0, .wait)
  | some g =>
    if scalarHeld s0 gid g addr n .read then (s0, .wait)
    else
    match checkAccess s0 g 0 addr n n .read with
    | (s1, .error b) => (s1, .bad b)
    | (s1, .ok l) => if accessOk g g.seq false then scalarFetch s1 gid g addr l n else (s1, .wait)

end Sys2Proof.Machine
end

