-- ==== Sys2Proof/Machine/Flags.lean ====
section
/-! DEFINITION. The conditions that branches and compares test. The hardware has no flag register: a condition is
computed from a register (R280), from an exec mask, or from two operands (R310, R313). -/

namespace Sys2Proof.Machine

open Sys2Proof

/-- The branch conditions of R280 on a 64-bit value and the exec mask. -/
def ccHolds (cc : BitVec 4) (v : Word) (em : BitVec 32) : Bool :=
  match cc.toNat with
  | 0 => v == 0
  | 1 => v != 0
  | 2 => v.slt 0
  | 3 => !v.slt 0
  | 4 => (0 : Word).slt v
  | 5 => !(0 : Word).slt v
  | 6 => (v.truncate 32 &&& em) == em
  | 7 => (v.truncate 32 &&& em) != 0
  | _ => (v.truncate 32 &&& em) == 0

/-- The integer compare conditions of R310 from "less" and "equal". -/
def cmpHolds (cond : Nat) (lt eq : Bool) : Bool :=
  match cond with
  | 0 => eq
  | 1 => !eq
  | 2 => lt
  | 3 => lt || eq
  | 4 => !(lt || eq)
  | _ => !lt

end Sys2Proof.Machine
end

