-- ==== Sys2Proof/Machine/Scalar.lean ====
section
/-! DEFINITION. Scalar integer instructions (R274 to R276), the exec mask (R277) and address vectors (R278). -/

namespace Sys2Proof.Machine

open Sys2Proof

/-! ### Integer operations at a width (R258, R274) -/

/-- Apply an operation at 64 bits, or with .w at 32 bits with the result sign-extended (R258). -/
def atWidth (op : (n : Nat) → BitVec n → BitVec n → BitVec n) (w : Bool) (a b : Word) : Word :=
  if w then (op 32 (a.truncate 32) (b.truncate 32)).signExtend 64 else op 64 a b

def opAdd (n : Nat) (a b : BitVec n) : BitVec n := a + b
def opSub (n : Nat) (a b : BitVec n) : BitVec n := a - b
def opMul (n : Nat) (a b : BitVec n) : BitVec n := a * b

/-- High half of the exact signed product (R258). -/
def opMulh (n : Nat) (a b : BitVec n) : BitVec n := BitVec.ofInt n (a.toInt * b.toInt / 2 ^ n)

/-- High half of the exact unsigned product (R258). -/
def opMulhn (n : Nat) (a b : BitVec n) : BitVec n := BitVec.ofNat n (a.toNat * b.toNat / 2 ^ n)

/-- Signed quotient; all ones on a zero divisor (R258). -/
def opDiv (n : Nat) (a b : BitVec n) : BitVec n := if b = 0 then BitVec.allOnes n else a.sdiv b

/-- Unsigned quotient; all ones on a zero divisor (R258). -/
def opDivn (n : Nat) (a b : BitVec n) : BitVec n := if b = 0 then BitVec.allOnes n else a / b

/-- Signed remainder with the dividend's sign; the dividend on a zero divisor (R258). -/
def opRem (n : Nat) (a b : BitVec n) : BitVec n := if b = 0 then a else a.srem b

/-- Unsigned remainder; the dividend on a zero divisor (R258). -/
def opRemn (n : Nat) (a b : BitVec n) : BitVec n := if b = 0 then a else a % b

def opAnd (n : Nat) (a b : BitVec n) : BitVec n := a &&& b
def opOr (n : Nat) (a b : BitVec n) : BitVec n := a ||| b
def opXor (n : Nat) (a b : BitVec n) : BitVec n := a ^^^ b
def opAndn (n : Nat) (a b : BitVec n) : BitVec n := a &&& ~~~b

/-- Shifts and rotation take the amount modulo the width (R258). -/
def opShl (n : Nat) (a b : BitVec n) : BitVec n := a <<< (b.toNat % n)
def opShr (n : Nat) (a b : BitVec n) : BitVec n := a >>> (b.toNat % n)
def opSar (n : Nat) (a b : BitVec n) : BitVec n := a.sshiftRight (b.toNat % n)
def opRol (n : Nat) (a b : BitVec n) : BitVec n := a.rotateLeft (b.toNat % n)
def opMin (n : Nat) (a b : BitVec n) : BitVec n := if b.slt a then b else a
def opMax (n : Nat) (a b : BitVec n) : BitVec n := if a.slt b then b else a
def opMinn (n : Nat) (a b : BitVec n) : BitVec n := if b < a then b else a
def opMaxn (n : Nat) (a b : BitVec n) : BitVec n := if a < b then b else a
def opSlt (n : Nat) (a b : BitVec n) : BitVec n := if a.slt b then 1 else 0
def opSltn (n : Nat) (a b : BitVec n) : BitVec n := if a < b then 1 else 0
def opSeq (n : Nat) (a b : BitVec n) : BitVec n := if a = b then 1 else 0

/-- Set bits. -/
def opPopc (n : Nat) (a _b : BitVec n) : BitVec n := BitVec.ofNat n (popc n a.toNat)

/-- Leading zeros; the width for zero. -/
def clzNat (n v : Nat) : Nat := if v = 0 then n else n - 1 - Nat.log2 v

def opClz (n : Nat) (a _b : BitVec n) : BitVec n := BitVec.ofNat n (clzNat n a.toNat)

/-- Trailing zeros; the width for zero. -/
def ctzNat (n v : Nat) : Nat := ((List.range n).find? fun i => v.testBit i).getD n

def opCtz (n : Nat) (a _b : BitVec n) : BitVec n := BitVec.ofNat n (ctzNat n a.toNat)

/-- Bit order reversed. -/
def brevNat (n v : Nat) : Nat :=
  (List.range n).foldl (fun r i => r + (if v.testBit i then 2 ^ (n - 1 - i) else 0)) 0

def opBrev (n : Nat) (a _b : BitVec n) : BitVec n := BitVec.ofNat n (brevNat n a.toNat)

/-! ### The instructions of major 0x00 (R274) -/

/-- `S[d] := f(S[a], S[b])`, and on to the next word. -/
def aluStep (op : (n : Nat) → BitVec n → BitVec n → BitVec n) (d a b : BitVec 6) (w : Bool) (g : Group) : Group :=
  advance (ws g d (atWidth op w (rs g a) (rs g b)))

/-- ADD (R274). -/
def execAdd (d a b : BitVec 6) (w : Bool) (s : State) : Res :=
  issueReg (.add d a b w) s (aluStep opAdd d a b w)

/-- SUB (R274). -/
def execSub (d a b : BitVec 6) (w : Bool) (s : State) : Res :=
  issueReg (.sub d a b w) s (aluStep opSub d a b w)

/-- MUL (R274). -/
def execMul (d a b : BitVec 6) (w : Bool) (s : State) : Res :=
  issueReg (.mul d a b w) s (aluStep opMul d a b w)

/-- MULH (R274). -/
def execMulh (d a b : BitVec 6) (w : Bool) (s : State) : Res :=
  issueReg (.mulh d a b w) s (aluStep opMulh d a b w)

/-- MULHN (R274). -/
def execMulhn (d a b : BitVec 6) (w : Bool) (s : State) : Res :=
  issueReg (.mulhn d a b w) s (aluStep opMulhn d a b w)

/-- DIV (R274). -/
def execDiv (d a b : BitVec 6) (w : Bool) (s : State) : Res :=
  issueReg (.div d a b w) s (aluStep opDiv d a b w)

/-- DIVN (R274). -/
def execDivn (d a b : BitVec 6) (w : Bool) (s : State) : Res :=
  issueReg (.divn d a b w) s (aluStep opDivn d a b w)

/-- REM (R274). -/
def execRem (d a b : BitVec 6) (w : Bool) (s : State) : Res :=
  issueReg (.rem d a b w) s (aluStep opRem d a b w)

/-- REMN (R274). -/
def execRemn (d a b : BitVec 6) (w : Bool) (s : State) : Res :=
  issueReg (.remn d a b w) s (aluStep opRemn d a b w)

/-- AND (R274). -/
def execAnd (d a b : BitVec 6) (w : Bool) (s : State) : Res :=
  issueReg (.and_ d a b w) s (aluStep opAnd d a b w)

/-- OR (R274). -/
def execOr (d a b : BitVec 6) (w : Bool) (s : State) : Res :=
  issueReg (.or_ d a b w) s (aluStep opOr d a b w)

/-- XOR (R274). -/
def execXor (d a b : BitVec 6) (w : Bool) (s : State) : Res :=
  issueReg (.xor d a b w) s (aluStep opXor d a b w)

/-- ANDN (R274). -/
def execAndn (d a b : BitVec 6) (w : Bool) (s : State) : Res :=
  issueReg (.andn d a b w) s (aluStep opAndn d a b w)

/-- SHL (R274). -/
def execShl (d a b : BitVec 6) (w : Bool) (s : State) : Res :=
  issueReg (.shl d a b w) s (aluStep opShl d a b w)

/-- SHR (R274). -/
def execShr (d a b : BitVec 6) (w : Bool) (s : State) : Res :=
  issueReg (.shr d a b w) s (aluStep opShr d a b w)

/-- SAR (R274). -/
def execSar (d a b : BitVec 6) (w : Bool) (s : State) : Res :=
  issueReg (.sar d a b w) s (aluStep opSar d a b w)

/-- ROL (R274). -/
def execRol (d a b : BitVec 6) (w : Bool) (s : State) : Res :=
  issueReg (.rol d a b w) s (aluStep opRol d a b w)

/-- MIN (R274). -/
def execMin (d a b : BitVec 6) (w : Bool) (s : State) : Res :=
  issueReg (.min d a b w) s (aluStep opMin d a b w)

/-- MAX (R274). -/
def execMax (d a b : BitVec 6) (w : Bool) (s : State) : Res :=
  issueReg (.max d a b w) s (aluStep opMax d a b w)

/-- MINN (R274). -/
def execMinn (d a b : BitVec 6) (w : Bool) (s : State) : Res :=
  issueReg (.minn d a b w) s (aluStep opMinn d a b w)

/-- MAXN (R274). -/
def execMaxn (d a b : BitVec 6) (w : Bool) (s : State) : Res :=
  issueReg (.maxn d a b w) s (aluStep opMaxn d a b w)

/-- SLT (R274). -/
def execSlt (d a b : BitVec 6) (w : Bool) (s : State) : Res :=
  issueReg (.slt d a b w) s (aluStep opSlt d a b w)

/-- SLTN (R274). -/
def execSltn (d a b : BitVec 6) (w : Bool) (s : State) : Res :=
  issueReg (.sltn d a b w) s (aluStep opSltn d a b w)

/-- SEQ (R274). -/
def execSeq (d a b : BitVec 6) (w : Bool) (s : State) : Res :=
  issueReg (.seq d a b w) s (aluStep opSeq d a b w)

/-- POPC (R274). -/
def execPopc (d a : BitVec 6) (w : Bool) (s : State) : Res :=
  issueReg (.popc d a w) s (aluStep opPopc d a 0 w)

/-- CLZ (R274). -/
def execClz (d a : BitVec 6) (w : Bool) (s : State) : Res :=
  issueReg (.clz d a w) s (aluStep opClz d a 0 w)

/-- CTZ (R274). -/
def execCtz (d a : BitVec 6) (w : Bool) (s : State) : Res :=
  issueReg (.ctz d a w) s (aluStep opCtz d a 0 w)

/-- BREV (R274). -/
def execBrev (d a : BitVec 6) (w : Bool) (s : State) : Res :=
  issueReg (.brev d a w) s (aluStep opBrev d a 0 w)

/-! ### The AI instructions (R275) and LUI, AUIPC (R276) -/

/-- `S[d] := f(S[a], v)`, and on to the next word. -/
def immStep (op : (n : Nat) → BitVec n → BitVec n → BitVec n) (d a : BitVec 6) (v : Word) (g : Group) : Group :=
  advance (ws g d (op 64 (rs g a) v))

/-- ADDI (R275). -/
def execAddi (d a : BitVec 6) (imm : BitVec 14) (s : State) : Res :=
  issueReg (.addi d a imm) s (immStep opAdd d a (sx imm))

/-- ANDI (R275). -/
def execAndi (d a : BitVec 6) (imm : BitVec 14) (s : State) : Res :=
  issueReg (.andi d a imm) s (immStep opAnd d a (sx imm))

/-- ORI (R275). -/
def execOri (d a : BitVec 6) (imm : BitVec 14) (s : State) : Res :=
  issueReg (.ori d a imm) s (immStep opOr d a (sx imm))

/-- XORI (R275). -/
def execXori (d a : BitVec 6) (imm : BitVec 14) (s : State) : Res :=
  issueReg (.xori d a imm) s (immStep opXor d a (sx imm))

/-- SLTI (R275). -/
def execSlti (d a : BitVec 6) (imm : BitVec 14) (s : State) : Res :=
  issueReg (.slti d a imm) s (immStep opSlt d a (sx imm))

/-- SEQI (R275). -/
def execSeqi (d a : BitVec 6) (imm : BitVec 14) (s : State) : Res :=
  issueReg (.seqi d a imm) s (immStep opSeq d a (sx imm))

/-- SHLI (R275). -/
def execShli (d a amt : BitVec 6) (s : State) : Res :=
  issueReg (.shli d a amt) s (immStep opShl d a (amt.zeroExtend 64))

/-- SHRI (R275). -/
def execShri (d a amt : BitVec 6) (s : State) : Res :=
  issueReg (.shri d a amt) s (immStep opShr d a (amt.zeroExtend 64))

/-- SARI (R275). -/
def execSari (d a amt : BitVec 6) (s : State) : Res :=
  issueReg (.sari d a amt) s (immStep opSar d a (amt.zeroExtend 64))

/-- `SignExt(imm, 20) * 2^14` (R276). -/
def upper (imm : BitVec 20) : Word := sx imm <<< 14

/-- LUI (R276). -/
def execLui (d : BitVec 6) (imm : BitVec 20) (s : State) : Res :=
  issueReg (.lui d imm) s fun g => advance (ws g d (upper imm))

/-- AUIPC (R276). -/
def execAuipc (d : BitVec 6) (imm : BitVec 20) (s : State) : Res :=
  issueReg (.auipc d imm) s fun g => advance (ws g d (g.pc + upper imm))

/-! ### Exec mask (R277) -/

/-- Bits 31:0 of a scalar. -/
def lo32 (v : Word) : BitVec 32 := v.truncate 32

/-- EMSET (R277). -/
def execEmset (a : BitVec 6) (s : State) : Res :=
  issueReg (.emset a) s fun g => advance (wem g (lo32 (rs g a)))

/-- EMGET (R277). -/
def execEmget (d : BitVec 6) (s : State) : Res :=
  issueReg (.emget d) s fun g => advance (ws g d (g.em.zeroExtend 64))

/-- EMAND (R277). -/
def execEmand (a : BitVec 6) (s : State) : Res :=
  issueReg (.emand a) s fun g => advance (wem g (g.em &&& lo32 (rs g a)))

/-- EMANDN (R277). -/
def execEmandn (a : BitVec 6) (s : State) : Res :=
  issueReg (.emandn a) s fun g => advance (wem g (g.em &&& ~~~(lo32 (rs g a))))

/-- EMOR (R277). -/
def execEmor (a : BitVec 6) (s : State) : Res :=
  issueReg (.emor a) s fun g => advance (wem g (g.em ||| lo32 (rs g a)))

/-! ### Address vectors (R278) -/

/-- Write a-register `d` in the lanes of em with values of the lane number. -/
def vecWrite (g : Group) (d : Nat) (f : Nat → Word) : Group :=
  (lanesOf g.em).foldl (fun x l => wa x d l (f l)) g

/-- Engine fills of an a-register still to be made hold back its readers and writers (R349). -/
def fillPending (s : State) (gid n : Nat) : Bool :=
  s.engines.any fun e =>
    match e.2.kind, e.2.for_ with
    | .filla _ first cnt, .group x _ => x == gid && decide (first ≤ n) && decide (n < first + cnt)
    | _, _ => false

/-- Issue an address-vector instruction: it waits while a FILLA owes one of its a-registers (R349). -/
def issueVec (i : Instr) (s : State) (f : Group → Group) : Res :=
  issueA i s fun gid g s => if (aNames i).any (fillPending s gid) then s else setGrp s gid (f g)

/-- The mask of lanes in em for which a relation holds between two a-registers. -/
def vecCmp (g : Group) (a b : Nat) (r : Word → Word → Bool) : BitVec 32 :=
  maskOf ((lanesOf g.em).filter fun l => r (aReg g a l) (aReg g b l))

/-- VAADD (R278). -/
def execVaadd (d a b : BitVec 5) (s : State) : Res :=
  issueVec (.vaadd d a b) s fun g => advance (vecWrite g d.toNat fun l => aReg g a.toNat l + aReg g b.toNat l)

/-- VAADDS (R278). -/
def execVaadds (d a : BitVec 5) (b : BitVec 6) (s : State) : Res :=
  issueVec (.vaadds d a b) s fun g => advance (vecWrite g d.toNat fun l => aReg g a.toNat l + rs g b)

/-- VASUB (R278). -/
def execVasub (d a b : BitVec 5) (s : State) : Res :=
  issueVec (.vasub d a b) s fun g => advance (vecWrite g d.toNat fun l => aReg g a.toNat l - aReg g b.toNat l)

/-- VAMULS (R278). -/
def execVamuls (d a : BitVec 5) (b : BitVec 6) (s : State) : Res :=
  issueVec (.vamuls d a b) s fun g => advance (vecWrite g d.toNat fun l => aReg g a.toNat l * rs g b)

/-- VAMADS (R278). -/
def execVamads (d a : BitVec 5) (b : BitVec 6) (s : State) : Res :=
  issueVec (.vamads d a b) s fun g => advance (vecWrite g d.toNat fun l => aReg g d.toNat l + aReg g a.toNat l * rs g b)

/-- VASHLS (R278). -/
def execVashls (d a : BitVec 5) (b : BitVec 6) (s : State) : Res :=
  issueVec (.vashls d a b) s fun g => advance (vecWrite g d.toNat fun l => aReg g a.toNat l <<< ((rs g b).toNat % 64))

/-- VASHRS (R278). -/
def execVashrs (d a : BitVec 5) (b : BitVec 6) (s : State) : Res :=
  issueVec (.vashrs d a b) s fun g => advance (vecWrite g d.toNat fun l => aReg g a.toNat l >>> ((rs g b).toNat % 64))

/-- VAANDS (R278). -/
def execVaands (d a : BitVec 5) (b : BitVec 6) (s : State) : Res :=
  issueVec (.vaands d a b) s fun g => advance (vecWrite g d.toNat fun l => aReg g a.toNat l &&& rs g b)

/-- VAIOTA (R278). -/
def execVaiota (d : BitVec 5) (a b : BitVec 6) (s : State) : Res :=
  issueVec (.vaiota d a b) s fun g => advance (vecWrite g d.toNat fun l => rs g a + BitVec.ofNat 64 l * rs g b)

/-- VAMOVS (R278). -/
def execVamovs (d : BitVec 5) (a : BitVec 6) (s : State) : Res :=
  issueVec (.vamovs d a) s fun g => advance (vecWrite g d.toNat fun _ => rs g a)

/-- VAEXT (R278): the lane is read whatever em holds. -/
def execVaext (d : BitVec 6) (a : BitVec 5) (b : BitVec 6) (s : State) : Res :=
  issueVec (.vaext d a b) s fun g => advance (ws g d (aReg g a.toNat ((rs g b).toNat % 32)))

/-- VAINS (R278): writes one lane, when it is in em. -/
def execVains (d : BitVec 5) (a b : BitVec 6) (s : State) : Res :=
  issueVec (.vains d a b) s fun g =>
    let j := (rs g b).toNat % 32
    advance (if g.em.getLsbD j then wa g d.toNat j (rs g a) else g)

/-- VALTM (R278). -/
def execValtm (d : BitVec 6) (a b : BitVec 5) (s : State) : Res :=
  issueVec (.valtm d a b) s fun g => advance (ws g d ((vecCmp g a.toNat b.toNat BitVec.slt).zeroExtend 64))

/-- VAEQM (R278). -/
def execVaeqm (d : BitVec 6) (a b : BitVec 5) (s : State) : Res :=
  issueVec (.vaeqm d a b) s fun g => advance (ws g d ((vecCmp g a.toNat b.toNat (· == ·)).zeroExtend 64))

end Sys2Proof.Machine
end

