-- ==== Sys2Proof/Machine/Barrier.lean ====
section
/-! DEFINITION. Barrier objects: the object and its updates at the home (R93 to R99), and the instructions and events that
act on it (R350). -/

namespace Sys2Proof.Machine

open Sys2Proof

/-! ### The object (R94 to R99) -/

/-- The four words of a barrier object. -/
structure BarObj where
  ctl  : Nat
  txb  : Nat
  acc  : Nat
  last : Nat
  deriving DecidableEq, Repr

/-- The empty status value (R94). -/
def emptyStatus : Nat := 0x00000000FFFF0000

/-- EXP and PEND of a control word. -/
def barExp (ctl : Nat) : Nat := bits ctl 32 16
def barPend (ctl : Nat) : Nat := bits ctl 16 16
def barPh (ctl : Nat) : Bool := ctl.testBit 63

/-- A malformed control word (R95). -/
def malformed (ctl : Nat) : Bool :=
  bits ctl 48 15 != 0 || bits ctl 0 16 != 0 || decide (barExp ctl < barPend ctl)

/-- A control word from its fields. -/
def barCtl (ph : Bool) (exp pend : Nat) : Nat := (if ph then 2 ^ 63 else 0) + exp * 2 ^ 32 + pend * 2 ^ 16

/-- The status bits by which a contribution counts as failed (R99). -/
def failMask : BitVec 12 := stAunc ||| stCpyf ||| stFpart ||| stSkew ||| stAband

/-- Merge a contribution's status into an accumulating word (R99). -/
def mergeStatus (acc : Nat) (c : Status) : Nat :=
  let b := bits acc 0 12 ||| c.bits.toNat
  let hi := bits acc 12 4 * 4096
  if c.bits &&& failMask = 0 then bits acc 16 48 * 65536 + hi + b
  else
    Nat.min (bits acc 32 32 + c.failures) 0xFFFFFFFF * 2 ^ 32 + Nat.min (bits acc 16 16) (c.member % 65536) * 65536 + hi + b

/-- The object after an update that is not discarded, and whether it flips (R96, R98). -/
def barSettle (b : BarObj) (pend txb acc : Nat) : BarObj × Bool :=
  if pend = 0 ∧ txb = 0 then
    (⟨barCtl (!barPh b.ctl) (barExp b.ctl) (barExp b.ctl), 0, emptyStatus, acc⟩, true)
  else (⟨barCtl (barPh b.ctl) (barExp b.ctl) pend, txb, acc, b.last⟩, false)

/-- Discard an update to a well-formed object (R97). -/
def barProto (b : BarObj) : BarObj × Bool := ({ b with acc := b.acc ||| stProto.toNat }, false)

/-- One update of an object at its home, and whether it flips (R95 to R98). -/
def barApply (b : BarObj) : BarOp → BarObj × Bool
  | .init n =>
    if n % 65536 = 0 then (⟨0, 0, 0xFFFF0000, 0xFFFF0000⟩, false)
    else (⟨barCtl false (n % 65536) (n % 65536), 0, emptyStatus, emptyStatus⟩, false)
  | .arrive m st =>
    if malformed b.ctl then (b, false)
    else if barExp b.ctl = 0 ∨ m = 0 ∨ barPend b.ctl < m then barProto b
    else barSettle b (barPend b.ctl - m) b.txb (mergeStatus b.acc st)
  | .expect t =>
    if malformed b.ctl then (b, false)
    else if barExp b.ctl = 0 ∨ t = 0 ∨ 2 ^ 48 ≤ t then barProto b
    else barSettle b (barPend b.ctl) ((b.txb + t) % 2 ^ 64) b.acc
  | .complete t st =>
    if malformed b.ctl then (b, false)
    else if barExp b.ctl = 0 ∨ t = 0 ∨ 2 ^ 32 ≤ t then barProto b
    else barSettle b (barPend b.ctl) ((b.txb + (2 ^ 64 - t)) % 2 ^ 64) (mergeStatus b.acc st)

/-- The object at a home. -/
def barRead (s : State) (core slot : Nat) (l : Loc) : BarObj :=
  let w (i : Nat) : Nat :=
    match l with
    | .scratch o => locNat s core slot (.scratch (o + 8 * i)) 8
    | .phys pa d => locNat s core slot (.phys (pa + 8 * i) d) 8
  ⟨w 0, w 1, w 2, w 3⟩

/-- The 32 bytes of an object. -/
def barBytes (b : BarObj) : List Byte :=
  natToBytes 8 b.ctl ++ natToBytes 8 b.txb ++ natToBytes 8 b.acc ++ natToBytes 8 b.last

/-- A group waits at a barrier's home (R105); a scratchpad home is that of its own core. -/
def waitsAt (core : Nat) (home : Loc) (g : Group) : Bool :=
  match g.wake with
  | some (.bwait (.scratch o) _ _ _) => decide (home = .scratch o) && decide (g.core = core)
  | some (.bwait (.phys pa _) _ _ _) => match home with
    | .phys p _ => decide (p = pa)
    | .scratch _ => false
  | _ => false

/-- The flip wakes every group registered at the home (R105). -/
def wakeWaiters (s : State) (core : Nat) (home : Loc) : State :=
  { s with groups := s.groups.map fun e => if waitsAt core home e.2 then (e.1, { e.2 with woken := true }) else e }

/-- What a core's L1 holds of a barrier's line goes to the home before the home is read or written for that core's
groups (R215, R221). -/
def barSync (s : State) (core : Nat) (l : Loc) : State :=
  match l with
  | .phys pa _ => settleLine s core (pa / 128)
  | .scratch _ => s

/-- Release the locks of one holder. -/
def unlock (s : State) (by_ : LockBy) : State :=
  { s with
    dies := s.dies.map (fun e => (e.1, { e.2 with locks := e.2.locks.filter fun l => l.2.by_ ≠ by_ }))
    cores := s.cores.map fun e => (e.1, { e.2 with locks := e.2.locks.filter fun l => l.2.by_ ≠ by_ }) }

/-- Two places are the same home. -/
def sameHome (a b : Loc) : Bool :=
  match a, b with
  | .phys x _, .phys y _ => decide (x = y)
  | .scratch x, .scratch y => decide (x = y)
  | _, _ => false

/-- An ACKW's arrival has counted at a home. -/
def countWin (s : State) (home : Loc) (w : Nat × Nat) : State :=
  { s with damask := { s.damask with wins := SMap.modify s.damask.wins w.1 fun x => { x with counted := (home, w.2) :: x.counted } } }

/-- The flip of a barrier releases the destination locks of the rounds whose ACKW counted in its phase (R380). -/
def freeWins (s : State) (home : Loc) : State :=
  let done := s.damask.wins.flatMap fun e => (e.2.counted.filter fun c => sameHome c.1 home).map fun c => (e.1, c.2)
  let s1 := { s with damask := { s.damask with wins := s.damask.wins.map fun e =>
    (e.1, { e.2 with counted := e.2.counted.filter fun c => !sameHome c.1 home }) } }
  done.foldl (fun s d => unlock s (.window d.1 d.2)) s1

/-- A malformed object discards every update but BINIT (R95): its home writes nothing. -/
def barDiscards (b : BarObj) : BarOp → Bool
  | .init _ => false
  | _ => malformed b.ctl

/-- Perform an update at its home, indivisibly (R96, R98); the write wakes a monitor of the line even where it leaves the
bytes as they were (R226). -/
def performUpd (s : State) (u : BarUpd) : State :=
  let s0 := if u.from_.isSome then barSync s u.core u.home else s
  let b := barRead s0 u.core u.slot u.home
  let r := barApply b u.op
  let s1 := if barDiscards b u.op then s0 else locWrite s0 u.core u.slot u.home (barBytes r.1)
  let took : Bool := decide (r.1.ctl ≠ b.ctl) || r.2
  let s2 := match u.win with
    | some w => if took then countWin s1 u.home w else s1
    | none => s1
  if r.2 then freeWins (wakeWaiters s2 u.core u.home) u.home else s2

/-! ### Instructions (R350) -/

/-- The check of a barrier address (R93, R102, R207, R350): aligned to 32, in scratchpad, bank store or HBM, not locked,
and reachable from the die (R190). -/
def checkBarrier (s : State) (g : Group) (asp : Nat) (addr : Word) : State × Except Bad Loc :=
  if asp ≠ 0 then checkAccess s g asp addr 32 32 .atomic
  else if addr.toNat % 32 ≠ 0 then (s, .error ⟨0x05, addr, addr, 32⟩)
  else
    match translate s g.core g.ctx addr.toNat .atomic with
    | (s1, .error (c, w)) =>
      let w7 := if c = 0x02 ∧ g.refused.contains (addr.toNat / 4096) then 5 else w
      (s1, .error ⟨c, addr, addr, w7⟩)
    | (s1, .ok t) =>
      match placeFault s1 g.ctx t.pa with
      | some r => (s1, .error ⟨0x03, addr, addr, r⟩)
      | none =>
        if !(isHbm t.pa || isBank t.pa) then (s1, .error ⟨0x03, addr, addr, 5⟩)
        else
          match lockBad s1 g.core (.phys t.pa t.direct) 32 .atomic addr with
          | some b => (s1, .error b)
          | none =>
            match fabricReason s1 g.core g.ctx t.pa with
            | some r => (s1, .error ⟨0x0F, addr, addr, r⟩)
            | none => (s1, .ok (.phys t.pa t.direct))

/-- The scope of a barrier (R93): team, die or package. -/
def barScope : Loc → Nat
  | .scratch _ => 1
  | .phys pa _ => if isBank pa then 2 else 3

/-- A link that a core's access to a barrier's home takes is RETRAINING (R186). -/
def homeHeld (s : State) (core : Nat) : Loc → Bool
  | .scratch _ => false
  | .phys pa _ => linkWaits s (coreDie core) pa

/-- What the barrier instructions share: the check, and the order behind the group's earlier fences and accesses to the
object (R216, R218). -/
def barrierAt (s : State) (gid : Nat) (g : Group) (asp : Nat) (addr : Word) (k : State → Group → Loc → State) : State :=
  let s0 := settleFences s gid
  match checkBarrier s0 g asp addr with
  | (s1, .error b) => takeFault s1 gid { badInfo g b 0 with kind := 3, asp := asp }
  | (s1, .ok l) =>
    match grp? s1 gid with
    | none => s1
    | some x =>
      if accessOk x x.seq true && !(x.saq.any fun e => (lanesOf e.mask).any fun i =>
          match saqLoc s1 x e i with
          | some y => locsOverlap y e.size l 32
          | none => false) && !overlapsLoads x l 32 && !homeHeld s1 g.core l
      then k s1 x l else s1

/-- The group has sent updates to this home that are not yet performed. -/
def homeBusy (s : State) (gid : Nat) (l : Loc) : Bool := (ownUpdates s gid).any fun u => locsOverlap u.home 32 l 32

/-- The update of a group. -/
def groupUpd (s : State) (gid : Nat) (g : Group) (l : Loc) (op : BarOp) : BarUpd :=
  { home := l, core := g.core, slot := slotOf s g.ctx, from_ := some gid, op := op }

/-- Send one update and retire. -/
def sendAndGo (s : State) (gid : Nat) (g : Group) (l : Loc) (op : BarOp) : State :=
  modGrp (sendUpd s (groupUpd s gid g l op)) gid advance

/-- BINIT (R350). -/
def execBinit (asp : BitVec 2) (a b : BitVec 6) (s : State) : Res :=
  issueA (.binit asp a b) s fun gid g s =>
    barrierAt s gid g asp.toNat (rs g a) fun s g l => sendAndGo s gid g l (.init ((rs g b).toNat % 65536))

/-- BEXPECT (R350). -/
def execBexpect (asp : BitVec 2) (a b : BitVec 6) (s : State) : Res :=
  issueA (.bexpect asp a b) s fun gid g s =>
    barrierAt s gid g asp.toNat (rs g a) fun s g l => sendAndGo s gid g l (.expect (rs g b).toNat)

/-- The arrival a BARRIVE makes, which carries no status (R100). -/
def arriveOp (g : Group) (b : BitVec 6) : BarOp := .arrive ((rs g b).toNat % 65536) { member := g.handle % 65536 }

/-- Arrive, and go on at once or with the control word before the update. -/
def arriveNow (s : State) (gid : Nat) (g : Group) (d b : BitVec 6) (l : Loc) : State :=
  if d = 0 then sendAndGo s gid g l (arriveOp g b)
  else if homeBusy s gid l then s
  else
    let s1 := barSync s g.core l
    let old := (barRead s1 g.core (slotOf s1 g.ctx) l).ctl
    modGrp (performUpd s1 (groupUpd s1 gid g l (arriveOp g b))) gid fun x => advance (ws x d (BitVec.ofNat 64 old))

/-- BARRIVE (R350): with `.rel` it first waits for its release set at the barrier's scope (R218). -/
def execBarrive (rel : Bool) (asp : BitVec 2) (d a b : BitVec 6) (s : State) : Res :=
  issueA (.barrive rel asp d a b) s fun gid g s =>
    barrierAt s gid g asp.toNat (rs g a) fun s g l =>
      let f : FenceRec := { acq := false, rel := true, scope := barScope l, stamp := g.seq }
      if !rel then arriveNow s gid g d b l
      else if fenceReady s gid g f then arriveNow (fenceAct s g.core f) gid g d b l
      else s

/-- A group that has seen its barrier's flip goes on with an acquire at the barrier's scope (R103). -/
def flipSeen (g : Group) (l : Loc) : Group := pushFence (advance g) true false (barScope l)

/-- BWAIT (R105, R350). -/
def execBwait (asp : BitVec 2) (a b : BitVec 6) (s : State) : Res :=
  issueA (.bwait asp a b) s fun gid g s =>
    match g.wake, g.woken with
    | some (.bwait home _ _ _), true => setGrp s gid (flipSeen g home)
    | _, _ =>
      barrierAt s gid g asp.toNat (rs g a) fun s g l =>
        if homeBusy s gid l then s
        else
          let p := (rs g b).getLsbD 0
          let s1 := barSync s g.core l
          if barPh (barRead s1 g.core (slotOf s1 g.ctx) l).ctl ≠ p then modGrp s1 gid fun x => flipSeen x l
          else
            match grp? s1 gid with
            | some x => blockOn s1 gid x (.bwait l asp.toNat (rs g a) p)
            | none => s1

/-- BTEST (R350): an acquire when it observes the flip. -/
def execBtest (asp : BitVec 2) (d a b : BitVec 6) (s : State) : Res :=
  issueA (.btest asp d a b) s fun gid g s =>
    barrierAt s gid g asp.toNat (rs g a) fun s g l =>
      if homeBusy s gid l then s
      else
        let s1 := barSync s g.core l
        if barPh (barRead s1 g.core (slotOf s1 g.ctx) l).ctl ≠ (rs g b).getLsbD 0 then
          modGrp s1 gid fun x => flipSeen (ws x d 1) l
        else modGrp s1 gid fun x => advance (ws x d 0)

/-- The word of an object that BSTAT reads (R350). -/
def barWord (b : BarObj) (w : Nat) : Nat :=
  match w with
  | 0 => b.ctl
  | 1 => b.txb
  | 2 => b.acc
  | _ => b.last

/-- BSTAT (R350). -/
def execBstat (asp : BitVec 2) (d a b : BitVec 6) (s : State) : Res :=
  issueA (.bstat asp d a b) s fun gid g s =>
    barrierAt s gid g asp.toNat (rs g a) fun s g l =>
      if homeBusy s gid l then s
      else
        let s1 := barSync s g.core l
        let v := barWord (barRead s1 g.core (slotOf s1 g.ctx) l) ((rs g b).toNat % 4)
        modGrp s1 gid fun x => advance (ws x d (BitVec.ofNat 64 v))

/-! ### Updates reaching their home (R96) -/

/-- An earlier update of the same group to the same home goes first (R350). -/
def updFirst (s : State) (n : Nat) (u : BarUpd) : Bool :=
  !((s.homeQ.take n).any fun x => x.from_.isSome && decide (x.from_ = u.from_) && locsOverlap x.home 32 u.home 32)

/-- An update waits while a link that it takes is RETRAINING (R186): one of a group leaves its core's die, any other comes from
the switch die. -/
def updHeld (s : State) (u : BarUpd) : Bool :=
  match u.home, u.from_ with
  | .scratch _, _ => false
  | .phys pa _, some _ => linkWaits s (coreDie u.core) pa
  | .phys pa _, none => enterHeld s pa

/-- Perform update `n` of those on their way, when it is of the kind named. -/
def reachHome (s : State) (n : Nat) (ok : BarOp → Bool) : State :=
  match s.homeQ[n]? with
  | none => s
  | some u =>
    if ok u.op && updFirst s n u && !updHeld s u then
      let s1 := performUpd { s with homeQ := s.homeQ.eraseIdx n } u
      match u.from_ with
      | some g => settleFences s1 g
      | none => s1
    else s

/-- BARRIER_INIT (R96). -/
def execBarrierInit (n : Nat) (s : State) : Res :=
  .next (reachHome s n fun o => match o with | .init _ => true | _ => false)

/-- BARRIER_ARRIVAL (R96). -/
def execBarrierArrival (n : Nat) (s : State) : Res :=
  .next (reachHome s n fun o => match o with | .arrive _ _ => true | _ => false)

/-- BARRIER_EXPECT (R96). -/
def execBarrierExpect (n : Nat) (s : State) : Res :=
  .next (reachHome s n fun o => match o with | .expect _ => true | _ => false)

/-- BARRIER_ENGINE_COMPLETION (R96). -/
def execBarrierEngineCompletion (n : Nat) (s : State) : Res :=
  .next (reachHome s n fun o => match o with | .complete _ _ => true | _ => false)

end Sys2Proof.Machine
end

