-- ==== Sys2Proof/Machine/Control.lean ====
section
/-! DEFINITION. Control flow (R279 to R282), spawning branches and rejoining (R53 to R64, R283 to R286), dispatch and the
crossing queue (R287 to R289). -/

namespace Sys2Proof.Machine

open Sys2Proof

/-! ### Jumps and branches -/

/-- Write the link of CALL and CALLR: s63, or h15 in handler state (R279, R359). -/
def link (g : Group) (v : Word) : Group :=
  if inHandler g then { g with h := SMap.set g.h 0 15 v } else { g with s := SMap.set g.s 0 63 v }

/-- Jump to a register's value: ALIGN at the jump for a target that is not a multiple of 4 (R253, R279). -/
def jumpReg (s : State) (gid : Nat) (g g' : Group) (t : Word) : State :=
  if t.toNat % 4 ≠ 0 then takeFault s gid (faultAt g 0x05 4) else setGrp s gid (jump g' t)

/-- Branch when the condition holds, else go on (R280). -/
def branch (g : Group) (hold : Bool) (off : BitVec 16) : Group :=
  jump g (if hold then target g.pc off else g.pc + 4)

/-- J (R279). -/
def execJ (off : BitVec 26) (s : State) : Res :=
  issueReg (.j off) s fun g => jump g (target g.pc off)

/-- CALL (R279). -/
def execCall (off : BitVec 26) (s : State) : Res :=
  issueReg (.call off) s fun g => jump (link g (g.pc + 4)) (target g.pc off)

/-- JR (R279). -/
def execJr (a : BitVec 6) (s : State) : Res :=
  issueA (.jr a) s fun gid g s => jumpReg s gid g g (rs g a)

/-- CALLR (R279): the register is read before the link is written. -/
def execCallr (a : BitVec 6) (s : State) : Res :=
  issueA (.callr a) s fun gid g s => jumpReg s gid g (link g (g.pc + 4)) (rs g a)

/-- Bcc (R280). -/
def execBcc (cc : BitVec 4) (a : BitVec 6) (off : BitVec 16) (s : State) : Res :=
  issueReg (.bcc cc a off) s fun g => branch g (ccHolds cc (rs g a) g.em) off

/-- LOOPD (R281). -/
def execLoopd (a : BitVec 6) (off : BitVec 16) (s : State) : Res :=
  issueReg (.loopd a off) s fun g => branch (ws g a (rs g a - 1)) (rs g a - 1 != 0) off

/-- BXQ (R282): waits by interlock on an empty XQ. -/
def execBxq (cc : BitVec 4) (off : BitVec 16) (s : State) : Res :=
  issueReg (.bxq cc off) s fun g =>
    match g.xq with
    | [] => g
    | v :: rest => branch { g with xq := rest } (ccHolds cc v g.em) off

/-! ### Dispatch and the crossing queue -/

/-- Translate the pages of a block in order, stopping at the first fault: where each page lies. The fault is DISP's, with the
first byte of the page that the block touches in word 3 and the block in word 4 (R134, R149). -/
def dispPages (s : State) (g : Group) (block : Word) : List Word → State × Except FaultInfo (List Nat)
  | [] => (s, .ok [])
  | va :: rest =>
    match codePlace s g va with
    | (s1, .error e) =>
      (s1, .error { code := e.1, pc := g.pc, w3 := va, w4 := block, w7 := BitVec.ofNat 64 e.2, kind := 4 })
    | (s1, .ok pa) =>
      match dispPages s1 g block rest with
      | (s2, .error f) => (s2, .error f)
      | (s2, .ok ps) => (s2, .ok ((pa - va.toNat % 4096) :: ps))

/-- The addresses at which the pages of a block begin within it: from the block to the lesser of 12,287 bytes on and the
end of the C-code section (R134). -/
def blockPages (k : Kernel) (off : Nat) : List Word :=
  let block := cBase k + BitVec.ofNat 64 (12 * off)
  let n := Nat.min 12288 (k.hdr.clen - 12 * off)
  let lead := block.toNat % 4096
  (List.range ((lead + n + 4095) / 4096)).map fun i => if i = 0 then block else block + BitVec.ofNat 64 (4096 * i - lead)

/-- Push the BQ entry of a DISP (R26) once BQ has room. -/
def pushBlock (g : Group) (off : Nat) (code : List Nat) : Group :=
  if 32 ≤ g.bq.length then g
  else advance { g with bq := g.bq ++ [{ block := off, payload := g.kput, snap := g.em, code := code }], kput := [] }

/-- DISP (R287). -/
def execDisp (off : BitVec 26) (s : State) : Res :=
  issueA (.disp off) s fun gid g s =>
    match kern? s g.kern with
    | none => s
    | some k =>
      match dispPages s g (cBase k + BitVec.ofNat 64 (12 * off.toNat)) (blockPages k off.toNat) with
      | (s1, .error f) => takeFault s1 gid f
      | (s1, .ok code) => modGrp s1 gid fun x => pushBlock x off.toNat code

/-- Stage a k-register's value for the next DISP, replacing an earlier one (R26). -/
def stage (p : List (Nat × Word)) (n : Nat) (v : Word) : List (Nat × Word) :=
  if p.any fun e => e.1 = n then p.map fun e => if e.1 = n then (n, v) else e else p ++ [(n, v)]

/-- KPUT (R288): a ninth distinct register is ILLEGAL (R26). -/
def execKput (d : BitVec 5) (a : BitVec 6) (s : State) : Res :=
  issueA (.kput d a) s fun gid g s =>
    if d = 0 then setGrp s gid (advance g)
    else
      let p := stage g.kput d.toNat (rs g a)
      if 8 < p.length then takeFault s gid (illegal g (.kput d a)) else setGrp s gid (advance { g with kput := p })

/-- XPOP (R289): a blocking point while XQ is empty. -/
def execXpop (d : BitVec 6) (s : State) : Res :=
  issueA (.xpop d) s fun gid g s =>
    match g.xq with
    | [] => blockOn s gid g .xpop
    | v :: rest => setGrp s gid (advance (ws { g with xq := rest } d v))

/-- XPEEK (R289): waits by interlock on an empty XQ. -/
def execXpeek (d : BitVec 6) (s : State) : Res :=
  issueReg (.xpeek d) s fun g =>
    match g.xq with
    | [] => g
    | v :: _ => advance (ws g d v)

/-! ### The words of a spawn record (R54, R55) -/

/-- The registers set in a bitmap, in ascending number. -/
def liveRegs {n : Nat} (m : BitVec n) : List Nat := (List.range n).filter fun i => m.getLsbD i

/-- The registers a spawn record carries under a safe-point entry: class (0 s, 1 a, 2 v, 3 x) and number (R55). -/
def carried (e : SpEntry) : List (Nat × Nat) :=
  (liveRegs e.slive).map (fun n => (0, n)) ++ (liveRegs e.alive).map (fun n => (1, n))
    ++ (liveRegs e.vlive).map (fun n => (2, n)) ++ (liveRegs e.xlive).map (fun n => (3, n))

/-- 32-bit words a register of a class takes. -/
def classWords (c : Nat) : Nat := if c < 2 then 2 else 1

/-- Words carried under a safe-point entry. -/
def carriedWords (e : SpEntry) : Nat := ((carried e).map fun r => classWords r.1).foldl (· + ·) 0

/-- A register's value in one lane, as the value of its words. -/
def regNat (g : Group) (l : Nat) (r : Nat × Nat) : Nat :=
  match r.1 with
  | 0 => (sReg g r.2).toNat
  | 1 => (aReg g r.2 l).toNat
  | 2 => (vReg g r.2 l).toNat
  | _ => (xReg g r.2 l).toNat

/-- The data bytes of a lane's registers, in record order; low word first. -/
def regBytes (g : Group) (l : Nat) (rs : List (Nat × Nat)) : List Byte :=
  rs.flatMap fun r => natToBytes (4 * classWords r.1) (regNat g l r)

/-- Load a lane's registers from the value of a record's data, registers in record order. `withS` says whether the
s-words are loaded. -/
def loadRegs (g : Group) (l : Nat) (withS : Bool) : List (Nat × Nat) → Nat → Group
  | [], _ => g
  | r :: rest, v =>
    let w := 32 * classWords r.1
    let x := v % 2 ^ w
    let g' := match r.1 with
      | 0 => if withS ∧ r.2 ≠ 0 then { g with s := SMap.set g.s 0 r.2 (BitVec.ofNat 64 x) } else g
      | 1 => wa g r.2 l (BitVec.ofNat 64 x)
      | 2 => wv g r.2 l (BitVec.ofNat 32 x)
      | _ => wx g r.2 l (BitVec.ofNat 16 x)
    loadRegs g' l withS rest (v / 2 ^ w)

/-- The safe-point entry of an index. -/
def spEntry (k : Kernel) (idx : Nat) : SpEntry := k.table.getD idx {}

/-- Address of spawn record `i` of a context. -/
def recAddr (s : State) (cn i : Nat) : Nat := (ctxOf s cn).spawnRing + 256 * i

/-- A field of a spawn record. -/
def recRead (s : State) (cn i off n : Nat) : Nat := ctxRead s cn (recAddr s cn i + off) n

/-- Records the spawn ring can hold and does not (R53). -/
def freeRecs (s : State) (cn : Nat) : Nat :=
  let c := ctxOf s cn
  2 ^ c.spawnLog / 256 - c.recs.length

/-- Write one spawn record in state 1 at the lowest free index, and offer it to Bramble (R54, R56). -/
def writeRec (s : State) (g : Group) (sp : BitVec 16) (target : Word) (l : Nat) : State :=
  let c := ctxOf s g.ctx
  match SMap.lowestFree c.recs 0 (2 ^ c.spawnLog / 256) with
  | none => s
  | some i =>
    let e := spEntry ((kern? s g.kern).getD { ctx := g.ctx }) sp.toNat
    let data := regBytes g l (carried e)
    let bs := natToBytes 8 g.kern ++ natToBytes 4 g.handle ++ natToBytes 4 g.team ++ natToBytes 8 target.toNat
      ++ natToBytes 1 l ++ natToBytes 1 1 ++ natToBytes 1 (carriedWords e) ++ natToBytes 1 0 ++ natToBytes 2 sp.toNat
      ++ natToBytes 2 0 ++ natToBytes 32 0 ++ data ++ List.replicate (192 - data.length) 0
    let s1 := ctxWrite s g.ctx (recAddr s g.ctx i) bs
    let s2 := modCtx s1 g.ctx fun c => { c with recs := SMap.put c.recs i g.kern }
    modDie s2 (coreDie g.core) fun d => { d with waiting := d.waiting ++ [(g.ctx, i)] }

/-- Write the records of the lanes that leave, each with its target, in order (R56). -/
def writeRecs (s : State) (g : Group) (sp : BitVec 16) : List (Nat × Word) → State
  | [] => s
  | (l, t) :: rest => writeRecs (writeRec s g sp t l) g sp rest

/-- The last-SP index of a spawning branch when it may spawn: held, and its live set within 32 words and the header's
limit (R283). -/
def spawnSp (k : Kernel) (g : Group) : Option (BitVec 16) :=
  match g.lastSp with
  | none => none
  | some i =>
    let n := carriedWords (spEntry k i.toNat)
    if n ≤ 32 ∧ n ≤ k.hdr.spawnw ∧ k.hdr.spawnw ≠ 0 then some i else none

/-- Matrix stores and fills still to write the group's registers (R212). -/
def regsOwed (s : State) (gid : Nat) (g : Group) : Bool :=
  (g.mops.any fun o => match o.kind with | .mstore _ _ => true | _ => false)
    || s.engines.any fun e =>
      match e.2.kind, e.2.for_ with
      | .filla _ _ _, .group x _ => x == gid && e.2.kern == g.kern
      | _, _ => false

/-- What both spawning branches do once their target is known: wait for the C-stream, check the ring, write the
records, and go on with the lanes that stay (R284, R285). -/
def spawnLanes (s : State) (gid : Nat) (g : Group) (sp : BitVec 16) (out : List (Nat × Word)) (kept : BitVec 32)
    (next : Word) : State :=
  if !cIdle g || regsOwed s gid g then s
  else
  let s0 := modGrp s gid fun x => { x with rval := [], rbad := none }
  match structOut s g true with
  | some pa => takeFault s0 gid (structFault g pa)
  | none =>
  if freeRecs s g.ctx < out.length then takeFault s0 gid (faultAt g 0x0D 0)
  else
    let s1 := writeRecs s g sp out
    let s2 := gtWrite s1 g 0 4 (spawns s1 g + out.length)
    modGrp s2 gid fun x =>
      jump { x with present := x.present &&& ~~~(maskOf (out.map (·.1))), em := kept, rval := [], rbad := none } next

/-- BRS (R284). -/
def execBrs (policy : BitVec 2) (m : BitVec 6) (off : BitVec 16) (s : State) : Res :=
  issueA (.brs policy m off) s fun gid g s =>
    match kern? s g.kern with
    | none => s
    | some k =>
      match spawnSp k g with
      | none => takeFault s gid (illegal g (.brs policy m off))
      | some sp =>
        let tgt := target g.pc off
        let t := lo32 (rs g m) &&& g.em
        let n := g.em &&& ~~~t
        let keepT : Bool := match policy.toNat with
          | 0 => decide (popc 32 n.toNat ≤ popc 32 t.toNat)
          | 1 => false
          | _ => true
        let leave := if keepT then n else t
        let where_ := if keepT then g.pc + 4 else tgt
        spawnLanes s gid g sp ((lanesOf leave).map fun l => (l, where_)) (if keepT then t else n)
          (if keepT then tgt else g.pc + 4)

/-- Numbers in ascending order, each once. -/
def insertNat (x : Nat) : List Nat → List Nat
  | [] => [x]
  | y :: ys => if x < y then x :: y :: ys else if x = y then y :: ys else y :: insertNat x ys

def sortNats (xs : List Nat) : List Nat := xs.foldl (fun acc x => insertNat x acc) []

/-- Read the table entries of some indices (R285): the targets, the first failing read in order with its index, or a wait. Later
entries are asked for while an earlier one is on its way. -/
inductive Table where
  | got (ts : List (Nat × Word))
  | bad (j : Nat) (b : Bad)
  | wait
  deriving DecidableEq, Repr

def readTable (s : State) (gid : Nat) (g : Group) (base : Word) : List Nat → State × Table
  | [] => (s, .got [])
  | j :: rest =>
    match scalarRead s gid (base + BitVec.ofNat 64 (4 * j)) 4 with
    | (s1, .bad b) => (s1, .bad j b)
    | (s1, .wait) =>
      ((readTable s1 gid g base rest).1, .wait)
    | (s1, .value v) =>
      match readTable s1 gid g base rest with
      | (s2, .got ts) => (s2, .got ((j, g.pc + 4 * (v.truncate 32 : BitVec 32).signExtend 64) :: ts))
      | r => r

/-- The lanes of em with an index. -/
def lanesAt (g : Group) (aa j : Nat) : BitVec 32 :=
  maskOf ((lanesOf g.em).filter fun l => decide ((aReg g aa l).toNat = j))

/-- The index most lanes hold, the lowest on a tie. -/
def mostLanes (g : Group) (aa : Nat) : List Nat → Nat
  | [] => 0
  | [j] => j
  | j :: rest =>
    let b := mostLanes g aa rest
    if popc 32 (lanesAt g aa b).toNat ≤ popc 32 (lanesAt g aa j).toNat then j else b

/-- BRX (R285). -/
def execBrx (aa : BitVec 5) (base len : BitVec 6) (s : State) : Res :=
  issueA (.brx aa base len) s fun gid g s =>
    match kern? s g.kern with
    | none => s
    | some k =>
      match spawnSp k g with
      | none => takeFault s gid (illegal g (.brx aa base len))
      | some sp =>
        if fillPending s gid aa.toNat then s
        else
          let n := aa.toNat
          let bad := maskOf ((lanesOf g.em).filter fun l => decide ((rs g len).toNat ≤ (aReg g n l).toNat))
          if bad ≠ 0 then takeFault s gid { faultAt g 0x09 0 with w5 := bad, w7 := rs g len }
          else if g.em = 0 then setGrp s gid (jump g (g.pc + 4))
          else
            let js := sortNats ((lanesOf g.em).map fun l => (aReg g n l).toNat)
            match readTable s gid g (rs g base) js with
            | (s1, .wait) => s1
            | (s1, .bad j b) => takeFault (modGrp s1 gid fun x => { x with rval := [], rbad := none }) gid
                (readInfo g b (lanesAt g n j))
            | (s1, .got ts) =>
              let keep := mostLanes g n js
              let out := (ts.filter fun e => e.1 ≠ keep).flatMap fun e => (lanesOf (lanesAt g n e.1)).map fun l => (l, e.2)
              let next := ((ts.find? fun e => e.1 = keep).map (·.2)).getD (g.pc + 4)
              let x := (grp? s1 gid).getD g
              spawnLanes s1 gid { g with fences := x.fences, mon := x.mon } sp out
                (lanesAt g n keep) next

/-! ### Rejoining -/

/-- The done records of a group, in ring order (R63). -/
def doneRecs (s : State) (g : Group) : List Nat :=
  ((ctxOf s g.ctx).recs.filter fun e => e.2 = g.kern ∧ recRead s g.ctx e.1 25 1 = 4 ∧ recRead s g.ctx e.1 8 4 = g.handle
    ∧ recRead s g.ctx e.1 12 4 = g.team).map (·.1)

/-- Take one lane back (R63). -/
def rejoin (s : State) (gid i : Nat) : State :=
  match grp? s gid with
  | none => s
  | some g =>
    let l := recRead s g.ctx i 24 1
    let e := spEntry ((kern? s g.kern).getD { ctx := g.ctx }) (recRead s g.ctx i 28 2)
    let g1 := loadRegs g l false (carried e) (recRead s g.ctx i 64 128)
    let g2 := { g1 with
      ctr := SMap.set g1.ctr 0 l 0
      present := g1.present ||| laneBit l
      em := g1.em ||| laneBit l }
    freeRecord (setGrp s gid g2) g.ctx i

/-- JOIN (R63): a blocking point while spawned lanes are out; an acquire at team scope when it completes (R64). -/
def execJoin (s : State) : Res :=
  issueA .join s fun gid g s =>
    match structOut s g true with
    | some pa => takeFault s gid (structFault g pa)
    | none =>
    if spawns s g ≠ 0 then blockOn s gid g .join
    else if !cIdle g || regsOwed s gid g then s
    else
      let s1 := (doneRecs s g).foldl (fun s i => rejoin s gid i) s
      modGrp s1 gid jumpNext
where
  /-- JOIN is a control transfer to the next word (R283). -/
  jumpNext (g : Group) : Group := pushFence (jump g (g.pc + 4)) true false 1

/-- Every store of the group is performed at team scope (R62, R222). -/
def storesDone (s : State) (gid : Nat) (g : Group) : Bool :=
  g.saq.isEmpty && g.sdq.isEmpty && !unacked s gid && (ownUpdates s gid).isEmpty

/-- Write one lane's words back into its record and count it in (R62). -/
def endLane (s : State) (g : Group) (i l : Nat) : State :=
  let e := spEntry ((kern? s g.kern).getD { ctx := g.ctx }) (recRead s g.ctx i 28 2)
  let sWords := (carried e).filter fun r => r.1 = 0
  let rest := (carried e).filter fun r => r.1 ≠ 0
  let s1 := ctxWrite s g.ctx (recAddr s g.ctx i + 64 + 8 * sWords.length) (regBytes g l rest)
  let s2 := ctxPut s1 g.ctx (recAddr s1 g.ctx i + 25) 1 4
  match List.find? (fun x : Nat × Group => x.2.kern = g.kern ∧ x.2.team = g.team ∧ x.2.handle = recRead s2 g.ctx i 8 4) s2.groups with
  | some (_, o) => gtWrite s2 o 0 4 (spawns s2 o - 1)
  | none => s2

/-- ENDS (R62). -/
def execEnds (s : State) : Res :=
  issueA .ends s fun gid g s =>
    match structOut s g g.spawned with
    | some pa => takeFault s gid (structFault g pa)
    | none =>
    if spawns s g ≠ 0 then takeFault s gid (illegal g .ends)
    else if !cIdle g || regsOwed s gid g || !storesDone s gid g || !g.mops.isEmpty
        || !g.batches.isEmpty then s
    else
      let s1 := if g.spawned then
          ((lanesOf g.present).map fun l => (g.recs.getD l 0, l)).foldl (fun s e => endLane s g e.1 e.2) s
        else s
      let s2 := setGrp s1 gid { advance g with st := .retired }
      settleTeam (freeGroup s2 gid) g.kern g.team

end Sys2Proof.Machine
end

