-- ==== Sys2Proof/Machine/Float.lean ====
section
/-! DEFINITION. Number formats and arithmetic (R228 to R251): exact values, decoding and encoding of every format,
rounding, the function units, MX records and K4V super-blocks. A finite value is held as a sign, a magnitude and a power of
two, so every operation is exact until it rounds. -/

namespace Sys2Proof.Machine

open Sys2Proof

/-! ### Formats (R230) -/

/-- What the top of a format encodes: infinity and NaN, one NaN pattern only, or numbers throughout. -/
inductive FTop where
  | ieee | oneNan | none
  deriving DecidableEq, Repr

/-- A floating-point format: exponent and mantissa bits, bias, and its top. -/
structure FFmt where
  eb   : Nat
  mb   : Nat
  bias : Nat
  top  : FTop
  deriving DecidableEq, Repr

def fmtF32 : FFmt := ⟨8, 23, 127, .ieee⟩
def fmtF16 : FFmt := ⟨5, 10, 15, .ieee⟩
def fmtBf16 : FFmt := ⟨8, 7, 127, .ieee⟩
def fmtE5M2 : FFmt := ⟨5, 2, 15, .ieee⟩
def fmtE4M3 : FFmt := ⟨4, 3, 7, .oneNan⟩
def fmtE3M2 : FFmt := ⟨3, 2, 3, .none⟩
def fmtE2M3 : FFmt := ⟨2, 3, 1, .none⟩
def fmtE2M1 : FFmt := ⟨2, 1, 1, .none⟩

/-- Bits below the sign. -/
def FFmt.low (f : FFmt) : Nat := f.eb + f.mb

/-- The magnitude pattern of the largest finite number. -/
def FFmt.maxMag (f : FFmt) : Nat :=
  match f.top with
  | .ieee => (2 ^ f.eb - 1) * 2 ^ f.mb - 1
  | .oneNan => 2 ^ f.low - 2
  | .none => 2 ^ f.low - 1

/-- The canonical NaN (R232); a format without one gives its largest finite number. -/
def FFmt.nan (f : FFmt) : Nat :=
  match f.top with
  | .ieee => (2 ^ f.eb - 1) * 2 ^ f.mb + (if f.mb = 2 then 2 else 2 ^ (f.mb - 1))
  | .oneNan => 2 ^ f.low - 1
  | .none => f.maxMag

/-- A sign above a magnitude pattern. -/
def FFmt.signed (f : FFmt) (neg : Bool) (mag : Nat) : Nat := (if neg then 2 ^ f.low else 0) + mag

/-- An exact value: NaN, an infinity, or `(-1)^neg * m * 2^e`, with signed zeros. -/
inductive FVal where
  | nan
  | inf (neg : Bool)
  | num (neg : Bool) (m : Nat) (e : Int)
  deriving DecidableEq, Repr

/-- The value of a pattern (R230). -/
def FFmt.val (f : FFmt) (v : Nat) : FVal :=
  let neg := v.testBit f.low
  let ex := v / 2 ^ f.mb % 2 ^ f.eb
  let ma := v % 2 ^ f.mb
  let finite : FVal :=
    if ex = 0 then .num neg ma (1 - (f.bias : Int) - f.mb)
    else .num neg (2 ^ f.mb + ma) ((ex : Int) - f.bias - f.mb)
  match f.top with
  | .ieee => if ex = 2 ^ f.eb - 1 then (if ma = 0 then .inf neg else .nan) else finite
  | .oneNan => if v % 2 ^ f.low = 2 ^ f.low - 1 then .nan else finite
  | .none => finite

/-! ### Rounding (R233 to R236) -/

/-- The rounding modes of R233. -/
inductive RMode where
  | rne | rtz | rdn | rup
  deriving DecidableEq, Repr

/-- The mode of a rounding field. -/
def rmode (rnd : BitVec 2) : RMode :=
  match rnd.toNat with
  | 0 => .rne
  | 1 => .rtz
  | 2 => .rdn
  | _ => .rup

/-- Whether a magnitude whose kept part is `k` and dropped part `rem` of `2^sh` (and more below when `sticky`) rounds
away from zero. -/
def roundsUp (rm : RMode) (neg : Bool) (k rem sh : Nat) (sticky : Bool) : Bool :=
  let inexact := rem != 0 || sticky
  match rm with
  | .rne => decide (2 ^ sh < 2 * rem) || (decide (2 * rem = 2 ^ sh) && (sticky || k % 2 == 1))
  | .rtz => false
  | .rdn => neg && inexact
  | .rup => !neg && inexact

/-- A magnitude `m * 2^e` as a whole number of `2^q`, rounded. -/
def roundTo (rm : RMode) (neg : Bool) (m : Nat) (e q : Int) (sticky : Bool) : Nat :=
  if q ≤ e then m * 2 ^ (e - q).toNat
  else
    let sh := (q - e).toNat
    let k := m / 2 ^ sh
    if roundsUp rm neg k (m % 2 ^ sh) sh sticky then k + 1 else k

/-- What an overflow gives (R234, R236). -/
def FFmt.overflow (f : FFmt) (rm : RMode) (sat neg : Bool) : Nat :=
  let toInf : Bool := match rm with
    | .rne => true
    | .rtz => false
    | .rdn => neg
    | .rup => !neg
  if !toInf || sat then f.signed neg f.maxMag
  else
    match f.top with
    | .ieee => f.signed neg (f.maxMag + 1)
    | .oneNan => f.nan
    | .none => f.signed neg f.maxMag

/-- The pattern of a magnitude `m * 2^e` (a little more when `sticky`) with a sign, rounded once (R233 to R235). -/
def FFmt.round (f : FFmt) (rm : RMode) (sat neg : Bool) (m : Nat) (e : Int) (sticky : Bool) : Nat :=
  if m = 0 then f.signed neg 0
  else
    let bot : Int := 1 - (f.bias : Int) - f.mb
    let q : Int := max ((Nat.log2 m : Int) + e - f.mb) bot
    let k := roundTo rm neg m e q sticky
    let mag := (q - bot).toNat * 2 ^ f.mb + k
    if f.maxMag < mag then f.overflow rm sat neg else f.signed neg mag

/-- An infinity in a format: itself, or what R236 and R237 give E5M2 when saturating and a format without one. -/
def FFmt.infinity (f : FFmt) (sat neg : Bool) : Nat :=
  match f.top with
  | .ieee => f.signed neg (if sat && f.mb == 2 then f.maxMag else f.maxMag + 1)
  | .oneNan => if sat then f.signed neg f.maxMag else f.nan
  | .none => f.signed neg f.maxMag

/-- Encode a value, rounding once. -/
def FFmt.enc (f : FFmt) (rm : RMode) (sat : Bool) : FVal → Nat
  | .nan => f.nan
  | .inf neg => f.infinity sat neg
  | .num neg m e => f.round rm sat neg m e false

/-! ### Exact operations -/

def FVal.isNan : FVal → Bool
  | .nan => true
  | _ => false

def FVal.isFinite : FVal → Bool
  | .num _ _ _ => true
  | _ => false

def FVal.isZero : FVal → Bool
  | .num _ 0 _ => true
  | _ => false

def FVal.neg : FVal → FVal
  | .nan => .nan
  | .inf n => .inf !n
  | .num n m e => .num (!n) m e

/-- The value times a power of two. -/
def FVal.scale (k : Int) : FVal → FVal
  | .num n m e => .num n m (e + k)
  | v => v

/-- A signed magnitude as an integer. -/
def signedInt (neg : Bool) (m : Nat) : Int := if neg then -(m : Int) else m

/-- Exact sum; the sign of an exact zero is R235's. -/
def FVal.add (rm : RMode) : FVal → FVal → FVal
  | .nan, _ => .nan
  | _, .nan => .nan
  | .inf a, .inf b => if a = b then .inf a else .nan
  | .inf a, _ => .inf a
  | _, .inf b => .inf b
  | .num a m d, .num b n e =>
    let q := min d e
    let t := signedInt a (m * 2 ^ (d - q).toNat) + signedInt b (n * 2 ^ (e - q).toNat)
    if t = 0 then .num ((a && b) || (rm == .rdn && a != b)) 0 0 else .num (decide (t < 0)) t.natAbs q

/-- Exact product. -/
def FVal.mul : FVal → FVal → FVal
  | .nan, _ => .nan
  | _, .nan => .nan
  | .inf a, .inf b => .inf (a != b)
  | .inf a, .num b n _ => if n = 0 then .nan else .inf (a != b)
  | .num a m _, .inf b => if m = 0 then .nan else .inf (a != b)
  | .num a m d, .num b n e => .num (a != b) (m * n) (d + e)

/-- A key that orders finite values and infinities of a format as R235 does, -0 below +0. -/
def FFmt.key (f : FFmt) (v : Nat) : Int :=
  let mag : Int := ((v % 2 ^ f.low : Nat) : Int)
  if v.testBit f.low then -mag - 1 else mag

/-- Minimum or maximum under R235: the chosen input's bits; two NaNs give the canonical NaN. -/
def FFmt.pick (f : FFmt) (isMax : Bool) (a b : Nat) : Nat :=
  if (f.val a).isNan then (if (f.val b).isNan then f.nan else b)
  else if (f.val b).isNan then a
  else if isMax then (if f.key a < f.key b then b else a)
  else if f.key b < f.key a then b else a

/-- Keep a pattern's bits, a NaN becoming canonical. -/
def FFmt.canon (f : FFmt) (v : Nat) : Nat := if (f.val v).isNan then f.nan else v

/-- Class of a value (R312), one-hot. -/
def FFmt.cls (f : FFmt) (v : Nat) : Nat :=
  let neg := v.testBit f.low
  let ex := v / 2 ^ f.mb % 2 ^ f.eb
  match f.val v with
  | .nan => 256
  | .inf n => if n then 1 else 128
  | .num _ m _ =>
    if m = 0 then (if neg then 8 else 16)
    else if ex = 0 then (if neg then 4 else 32)
    else if neg then 2 else 64

/-! ### Integers and floats (R237) -/

/-- A finite value rounded to an integer. -/
def roundInt (rm : RMode) (neg : Bool) (m : Nat) (e : Int) : Int := signedInt neg (roundTo rm neg m e 0 false)

/-- Clamp to a range. -/
def clampInt (lo hi x : Int) : Int := if x < lo then lo else if hi < x then hi else x

/-- Any float to an integer range (R237). -/
def FVal.toInt (rm : RMode) (lo hi : Int) : FVal → Int
  | .nan => 0
  | .inf neg => if neg then lo else hi
  | .num neg m e =>
    -- a magnitude beyond every integer type needs no exact shift
    if 128 < (Nat.log2 m : Int) + e ∧ m ≠ 0 then (if neg then lo else hi) else clampInt lo hi (roundInt rm neg m e)

/-- An integer as an exact value. -/
def FVal.ofInt (x : Int) : FVal := .num (decide (x < 0)) x.natAbs 0

/-! ### Function units (R238) -/

/-- Integer square root of `n`, by its bits from bit `k - 1` down. -/
def isqrtFrom (n : Nat) : Nat → Nat → Nat
  | 0, r => r
  | k + 1, r => if (r + 2 ^ k) * (r + 2 ^ k) ≤ n then isqrtFrom n k (r + 2 ^ k) else isqrtFrom n k r

def isqrt (n : Nat) : Nat := isqrtFrom n (Nat.log2 n / 2 + 1) 0

/-- Bits kept by the function units before rounding. -/
def unitBits : Nat := 64

def f32Inf (neg : Bool) : Nat := fmtF32.signed neg 0x7F800000

/-- Reciprocal. -/
def f32Rcp : FVal → Nat
  | .nan => fmtF32.nan
  | .inf n => fmtF32.signed n 0
  | .num n 0 _ => f32Inf n
  | .num n m e =>
    let k := Nat.log2 m + unitBits
    fmtF32.round .rne false n (2 ^ k / m) (-(k : Int) - e) (decide (2 ^ k % m ≠ 0))

/-- A magnitude with an even exponent. -/
def evenExp (m : Nat) (e : Int) : Nat × Int := if e % 2 = 0 then (m, e) else (2 * m, e - 1)

/-- Square root in a rounding mode. -/
def f32Sqrt (rm : RMode) : FVal → Nat
  | .nan => fmtF32.nan
  | .inf n => if n then fmtF32.nan else f32Inf false
  | .num n 0 _ => fmtF32.signed n 0
  | .num true _ _ => fmtF32.nan
  | .num false m e =>
    let x := evenExp m e
    let w := x.1 * 2 ^ (2 * unitBits)
    let r := isqrt w
    fmtF32.round rm false false r (x.2 / 2 - unitBits) (decide (r * r ≠ w))

/-- Reciprocal square root. -/
def f32Rsq : FVal → Nat
  | .nan => fmtF32.nan
  | .inf n => if n then fmtF32.nan else 0
  | .num n 0 _ => f32Inf n
  | .num true _ _ => fmtF32.nan
  | .num false m e =>
    let x := evenExp m e
    let k := 2 * (Nat.log2 x.1 + unitBits)
    let w := 2 ^ k / x.1
    let r := isqrt w
    fmtF32.round .rne false false r (-(x.2 / 2) - (k / 2 : Nat)) (decide (r * r ≠ w) || decide (2 ^ k % x.1 ≠ 0))

/-- `2^f` in units of `2^-128` for a fraction of 64 bits: the product of the roots of two that its bits select, from
the highest bit down. `c` is the root of the next bit. -/
def exp2Frac (f : Nat) : Nat → Nat → Nat → Nat
  | 0, _, acc => acc
  | k + 1, c, acc =>
    exp2Frac f k (isqrt (c * 2 ^ 128)) (if f.testBit k then acc * c / 2 ^ 128 else acc)

/-- Base-2 exponential: exact for whole numbers, 1 for arguments too small to matter, else to 128 bits. -/
def f32Exp2 : FVal → Nat
  | .nan => fmtF32.nan
  | .inf n => if n then 0 else f32Inf false
  | .num n m e =>
    if m = 0 then 0x3F800000
    else
      let top := (Nat.log2 m : Int) + e
      if top < -26 then 0x3F800000
      else if 8 ≤ top then (if n then 0 else f32Inf false)
      else
        -- the argument in units of 2^-64
        let x := signedInt n (m * 2 ^ (e + 64).toNat)
        let whole := x / 2 ^ 64
        let frac := (x % 2 ^ 64).toNat
        if whole < -151 then 0
        else if frac = 0 then fmtF32.round .rne false false 1 whole false
        else
          let root := isqrt (2 * 2 ^ 256)
          fmtF32.round .rne false false (exp2Frac frac 64 root (2 ^ 128)) (whole - 128) true

/-- Fraction bits of a base-2 logarithm: `y` in [1, 2) in units of `2^-256`, squared once for each bit. -/
def log2Frac : Nat → Nat → Nat → Nat
  | 0, _, acc => acc
  | k + 1, y, acc =>
    let z := y * y / 2 ^ 256
    if 2 ^ 257 ≤ z then log2Frac k (z / 2) (2 * acc + 1) else log2Frac k z (2 * acc)

/-- Base-2 logarithm: exact for powers of two, else from 100 bits of fraction. -/
def f32Log2 : FVal → Nat
  | .nan => fmtF32.nan
  | .inf n => if n then fmtF32.nan else f32Inf false
  | .num _ 0 _ => f32Inf true
  | .num true _ _ => fmtF32.nan
  | .num false m e =>
    let l := Nat.log2 m
    let whole : Int := (l : Int) + e
    if m = 2 ^ l then fmtF32.enc .rne false (.ofInt whole)
    else
      let t : Int := whole * 2 ^ 100 + (log2Frac 100 (m * 2 ^ (256 - l)) 0 : Nat)
      if 0 ≤ t then fmtF32.round .rne false false t.natAbs (-100) true
      else fmtF32.round .rne false true (t.natAbs - 1) (-100) true

/-! ### MX records (R239 to R241) -/

/-- The element format of a packed-record code (R137); code 7 is MXINT8. -/
def mxFmt (code : Nat) : FFmt :=
  match code with
  | 1 => fmtE4M3
  | 2 => fmtE5M2
  | 3 => fmtE2M3
  | 4 => fmtE3M2
  | _ => fmtE2M1

/-- Record bytes of a code. -/
def mxBytes (code : Nat) : Nat :=
  match code with
  | 1 => 33
  | 2 => 33
  | 7 => 33
  | 3 => 25
  | 4 => 25
  | _ => 17

/-- The element field of position `p` from the element bytes of a record read as one little-endian value (R239). -/
def mxField (code p v : Nat) : Nat :=
  match code with
  | 1 => v / 2 ^ (8 * p) % 256
  | 2 => v / 2 ^ (8 * p) % 256
  | 7 => v / 2 ^ (8 * p) % 256
  | 3 => v / 2 ^ (6 * p) % 64
  | 4 => v / 2 ^ (6 * p) % 64
  | _ => v / 2 ^ (4 * p) % 16

/-- Bits of an element field. -/
def mxWidth (code : Nat) : Nat :=
  match code with
  | 3 => 6
  | 4 => 6
  | 5 => 4
  | _ => 8

/-- A signed byte as an integer. -/
def int8 (v : Nat) : Int := if 128 ≤ v % 256 then ((v % 256 : Nat) : Int) - 256 else ((v % 256 : Nat) : Int)

/-- `DecodeMX` (R240). -/
def decodeMX (s e code : Nat) : FVal :=
  if s = 255 then .nan
  else if code = 7 then (FVal.ofInt (int8 e)).scale ((s : Int) - 127 - 6)
  else ((mxFmt code).val e).scale ((s : Int) - 127)

/-- The exponent of a finite non-zero value: the floor of the base-2 logarithm of its magnitude. -/
def FVal.expo : FVal → Option Int
  | .num _ m e => if m = 0 then none else some ((Nat.log2 m : Int) + e)
  | _ => none

/-- The largest exponent of some values, absent when all are zero. -/
def maxExpo (xs : List FVal) : Option Int :=
  xs.foldl (fun b x =>
    match b, x.expo with
    | none, y => y
    | some b, none => some b
    | some b, some y => some (max b y)) none

/-- A scale byte from an exponent difference (R241, R245). -/
def scaleByte (k : Int) : Nat := (clampInt 0 254 (k + 127)).toNat

/-- The sign of a value. -/
def FVal.sign : FVal → Bool
  | .nan => false
  | .inf n => n
  | .num n _ _ => n

/-- emax of R241. -/
def mxEmax (code : Nat) : Int :=
  match code with
  | 1 => 8
  | 2 => 15
  | 4 => 4
  | 7 => 0
  | _ => 2

/-- One quantised element in units of a scale byte (R241 step 4). -/
def mxElem (code s : Nat) (x : FVal) : Nat :=
  let y := x.scale (127 - (s : Int))
  if code = 7 then ((y.scale 6).toInt .rne (-128) 127 % 256).toNat
  else (mxFmt code).enc .rne true y

/-- The block quantiser (R241): scale byte and element fields. -/
def mxQuant (code : Nat) (xs : List FVal) : Nat × List Nat :=
  if xs.any fun x => !x.isFinite then (255, xs.map fun _ => 0)
  else
    match maxExpo xs with
    | none => (0, xs.map fun x => if code = 7 then 0 else (mxFmt code).signed x.sign 0)
    | some m =>
      let s := scaleByte (m - mxEmax code)
      (s, xs.map (mxElem code s))

/-- Element fields packed little-endian as a record's element bytes. -/
def mxPack (code : Nat) (fields : List Nat) : Nat :=
  (fields.zipIdx).foldl (fun v e => v + e.1 * 2 ^ (mxWidth code * e.2)) 0

/-- A whole record's bytes from its scale byte and fields, as a little-endian value. -/
def mxRecord (code s : Nat) (fields : List Nat) : Nat := s + 256 * mxPack code fields

/-! ### K4V super-blocks (R242 to R245) -/

/-- The boundary bits of a super-block given as one little-endian value: bytes 192 to 239. -/
def k4vBitmap (v : Nat) : Nat := v / 2 ^ 1536 % 2 ^ 384

/-- Element numbers at which the set bits of a bitmap stand. -/
def k4vStarts (bm : Nat) : List Nat := (List.range 384).filter fun i => bm.testBit i

/-- The lengths of the blocks that begin at some elements. -/
def blockLens : List Nat → List Nat
  | [] => []
  | [a] => [384 - a]
  | a :: b :: rest => (b - a) :: blockLens (b :: rest)

/-- A well-formed super-block (R243). -/
def k4vOk (v : Nat) : Bool :=
  let starts := k4vStarts (k4vBitmap v)
  let n := starts.length
  (k4vBitmap v).testBit 0 && decide (1 ≤ n) && decide (n ≤ 16)
    && (blockLens starts).all (fun l => decide (8 ≤ l) && decide (l ≤ 128))
    && (List.range 16).all fun j => decide (j < n) || v / 2 ^ (8 * (240 + j)) % 256 == 255

/-- The decode of an element of a super-block (R243). -/
def k4vDecode (v e : Nat) : FVal :=
  if !k4vOk v then .nan
  else
    let j := ((k4vStarts (k4vBitmap v)).filter fun i => decide (i ≤ e)).length - 1
    let s := v / 2 ^ (8 * (240 + j)) % 256
    if s = 255 then .nan else (fmtE2M1.val (v / 2 ^ (4 * e) % 16)).scale ((s : Int) - 127)

/-- The pass of R244 over the elements from `e` on: `c` blocks begun, the running block from `st`, its largest exponent.
Gives the starts after element 0. -/
def k4vPass : List FVal → Nat → Nat → Nat → Option Int → List Nat
  | [], _, _, _, _ => []
  | x :: xs, e, c, st, run =>
    let forced := decide (e - st = 128) || (decide (e = 376) && decide (248 < st) && decide (st < 256))
    let far : Bool := match x.expo, run with
      | some a, some b => decide (2 < (a - b).natAbs)
      | _, _ => false
    let byExp := decide (8 ≤ e - st) && decide (e ≤ 376) && decide (c + (384 - e + 127) / 128 ≤ 16) && far
    if forced || byExp then e :: k4vPass xs (e + 1) (c + 1) e x.expo
    else
      let run' := match run, x.expo with
        | none, y => y
        | some b, none => some b
        | some b, some y => some (max b y)
      k4vPass xs (e + 1) c st run'

/-- The block starts of 384 values (R244). -/
def k4vCut (xs : List FVal) : List Nat :=
  match xs with
  | [] => [0]
  | x :: rest => 0 :: k4vPass rest 1 1 0 x.expo

/-- A block's scale byte and elements (R245). -/
def k4vQuant (xs : List FVal) : Nat × List Nat :=
  if xs.any fun x => !x.isFinite then (255, xs.map fun _ => 0)
  else
    match maxExpo xs with
    | none => (0, xs.map fun _ => 0)
    | some m =>
      let s := scaleByte (m - 2)
      (s, xs.map fun x => fmtE2M1.enc .rne true (x.scale (127 - (s : Int))))

/-- The scale and elements of each block in turn. -/
def k4vBlocks (xs : List FVal) : List Nat → List (Nat × List Nat)
  | [] => []
  | l :: ls => k4vQuant (xs.take l) :: k4vBlocks (xs.drop l) ls

/-- A whole super-block of 384 values as one little-endian value (R242 to R245). -/
def k4vEncode (xs : List FVal) : Nat :=
  let starts := k4vCut xs
  let blocks := k4vBlocks xs (blockLens starts)
  let nibbles := (blocks.flatMap (·.2)).zipIdx.foldl (fun v e => v + e.1 * 2 ^ (4 * e.2)) 0
  let bm := starts.foldl (fun v i => v + 2 ^ i) 0
  let scales := (List.range 16).foldl (fun v j => v + ((blocks[j]?.map (·.1)).getD 255) * 2 ^ (8 * j)) 0
  nibbles + bm * 2 ^ 1536 + scales * 2 ^ 1920

/-! ### Named roundings -/

def f32val (v : Nat) : FVal := fmtF32.val v

/-- `RoundF32(a + b, RNE)` on bit patterns (R250, R299). -/
def f32AddRne (a b : Nat) : Nat := fmtF32.enc .rne false (FVal.add .rne (fmtF32.val a) (fmtF32.val b))

/-- `RoundBF16(a + b, RNE)` on bit patterns (R299). -/
def bf16AddRne (a b : Nat) : Nat := fmtBf16.enc .rne false (FVal.add .rne (fmtBf16.val a) (fmtBf16.val b))

end Sys2Proof.Machine
end

