-- ==== Sys2Proof/Machine/Engine.lean ====
section
/-! DEFINITION. Engine commands: their blocks and checks (R345 to R347), the registration of their ranges (R223, R224) and
the portions in which they are performed (R347 to R349). -/

namespace Sys2Proof.Machine

open Sys2Proof

/-! ### Translation and ranges -/

/-- Translate for an engine of a die: the die's TLB, or a walk whose result it installs (R134, R140). -/
def translateDie (s : State) (die cn va : Nat) (kind : Access) : State × Except TFault Trans :=
  if bits va 56 8 ≠ 0 ∧ bits va 56 8 ≠ 255 then (s, .error (0x02, 2))
  else
    match tlbHit (dieSt s die).tlb cn va kind with
    | some e => (s, useEntry s cn va kind e)
    | none =>
      let m := (dieSt s die).walks
      match walk s m cn va kind with
      | (s1, .error e) => (s1, .error e)
      | (s1, .ok e) => (modDie s1 die (walkDone e (walkPath s m cn va)), useEntry s1 cn va kind e)

/-- Where a virtual address of an engine command lies: HBM, a bank store or host memory (R347). -/
def engPlace (s : State) (die cn va : Nat) (kind : Access) : State × Except Nat Nat :=
  match translateDie s die cn va kind with
  | (s1, .error e) => (s1, .error e.1)
  | (s1, .ok t) =>
    if (placeFault s1 cn t.pa).isSome || !(isHbm t.pa || isBank t.pa || isHostMem t.pa) then (s1, .error 0x03)
    else (s1, .ok t.pa)

/-- Cut a run of `n` bytes at every 4 KiB boundary of the addresses given for its offset 0 (R347): offsets and lengths. -/
def cutRun (starts : List Nat) : Nat → Nat → Nat → List (Nat × Nat)
  | 0, _, _ => []
  | fuel + 1, o, n =>
    if n = 0 then []
    else
      let k := starts.foldl (fun k a => Nat.min k (4096 - (a + o) % 4096)) n
      (o, k) :: cutRun starts fuel (o + k) (n - k)

/-- The pieces of a run. -/
def cutAll (starts : List Nat) (n : Nat) : List (Nat × Nat) := cutRun starts (starts.length * (n / 4096 + 2)) 0 n

/-- A run of bytes to be locked: its first address in the command's space, where it lies (a die, 4 host memory, 5 the
core's scratchpad), its first byte there and its length, and whether it is a destination. -/
structure LockRange where
  va    : Nat
  place : Nat
  lo    : Nat
  n     : Nat
  dst   : Bool
  deriving DecidableEq, Repr

/-- Add one page's run, joined to the last when it continues it. -/
def addRange (rs : List LockRange) (r : LockRange) : List LockRange :=
  match rs with
  | x :: rest => if x.place = r.place ∧ x.lo + x.n = r.lo ∧ x.dst = r.dst then { x with n := x.n + r.n } :: rest else r :: rs
  | [] => [r]

/-- The place of a physical address in the lock tables. -/
def lockPlace (pa : Nat) : Nat := if isHbm pa || isBank pa then dieOf pa else 4

/-- The physical ranges of a virtual range, page by page (R223), and the pages that do not translate. -/
def virtRanges (s : State) (die cn va : Nat) (dst : Bool) :
    List (Nat × Nat) → State × List LockRange × SMap Nat
  | [] => (s, [], [])
  | (o, k) :: rest =>
    let a := (va + o) % 2 ^ 64
    match engPlace s die cn a (if dst then .write else .read) with
    | (s1, .error c) =>
      let r := virtRanges s1 die cn va dst rest
      (r.1, r.2.1, SMap.put r.2.2 (2 * (a / 4096) + (if dst then 1 else 0)) c)
    | (s1, .ok pa) =>
      let r := virtRanges s1 die cn va dst rest
      let x : LockRange := ⟨a, lockPlace pa, pa, k, dst⟩
      match r.2.1 with
      | y :: ys =>
        if x.place = y.place ∧ x.lo + x.n = y.lo then (r.1, { x with n := x.n + y.n } :: ys, r.2.2)
        else (r.1, x :: y :: ys, r.2.2)
      | [] => (r.1, [x], r.2.2)

/-- A range that a command names: its space, first address (the place itself in spaces 1 and 2), length, and use. -/
structure CmdRange where
  asp : Nat
  lo  : Nat
  n   : Nat
  dst : Bool
  deriving DecidableEq, Repr

/-- The physical ranges of a command (R223). -/
def cmdRanges (s : State) (die cn : Nat) : List CmdRange → State × List LockRange × SMap Nat
  | [] => (s, [], [])
  | c :: rest =>
    let a : State × List LockRange × SMap Nat :=
      if c.n = 0 then (s, [], [])
      else if c.asp = 1 then (s, [⟨c.lo, 5, c.lo, c.n, c.dst⟩], [])
      else if c.asp = 2 then (s, [⟨c.lo, lockPlace c.lo, c.lo, c.n, c.dst⟩], [])
      else virtRanges s die cn c.lo c.dst (cutAll [c.lo] c.n)
    let b := cmdRanges a.1 die cn rest
    (b.1, a.2.1 ++ b.2.1, b.2.2.foldl (fun m e => SMap.put m e.1 e.2) a.2.2)

/-- Two ranges touch a common line. -/
def shareLine (p q : Nat) (a n b m : Nat) : Bool :=
  decide (p = q) && decide (a / 128 ≤ (b + m - 1) / 128) && decide (b / 128 ≤ (a + n - 1) / 128)

/-- The first source byte on a line that the command's own destination shares (R347). -/
def ownShare (rs : List LockRange) : Option Nat :=
  rs.findSome? fun x =>
    if x.dst then none
    else rs.findSome? fun y =>
      if y.dst && shareLine x.place y.place x.lo x.n y.lo y.n then
        some (x.va + (128 * Nat.max (x.lo / 128) (y.lo / 128) - x.lo))
      else none

/-- The tables that a range is registered in (R223). -/
def tablesOf (place : Nat) : List Nat := if place = 4 then [0, 1, 2, 3] else [place]

/-- A lock table: a die's, or the core's own. -/
def lockTab (s : State) (core t : Nat) : SMap Lock := if t = 5 then (coreOf s core).locks else (dieSt s t).locks

def setLockTab (s : State) (core t : Nat) (m : SMap Lock) : State :=
  if t = 5 then modCore s core fun k => { k with locks := m } else modDie s t fun d => { d with locks := m }

/-- A registered lock makes a new range wait (R224). -/
def rangeWaits (s : State) (core : Nat) (r : LockRange) : Bool :=
  (tablesOf r.place).any fun t => (lockTab s core t).any fun e =>
    (r.dst || e.2.dst) && decide (e.2.first ≤ (r.lo + r.n - 1) / 128) && decide (r.lo / 128 ≤ e.2.last)

/-- Register one range, at the lowest free entry of each of its tables (R223), if there is room. -/
def lockOne (s : State) (core : Nat) (by_ : LockBy) (r : LockRange) : Option State :=
  (tablesOf r.place).foldl (fun (o : Option State) t =>
    o.bind fun s =>
      let m := lockTab s core t
      (SMap.lowestFree m 0 (if t = 5 then 64 else 1024)).map fun i =>
        let n := newSerial s
        setLockTab n.2 core t (SMap.put m i
          { first := r.lo / 128, last := (r.lo + r.n - 1) / 128, dst := r.dst, by_ := by_, id := n.1 })) (some s)

/-- Register all of a command's ranges, or none. -/
def lockAll (s : State) (core : Nat) (by_ : LockBy) : List LockRange → Option State
  | [] => some s
  | r :: rest => (lockOne s core by_ r).bind fun s => lockAll s core by_ rest

/-- Register ranges when nothing they overlap holds them back and the tables have room. -/
def tryRegister (s : State) (core : Nat) (by_ : LockBy) (rs : List LockRange) : Option State :=
  if rs.any (rangeWaits s core) then none else lockAll s core by_ rs

/-! ### Command blocks (R345, R346) -/

/-- A command block that passes R345 and R346: the command with addresses as given, its spaces, its barrier, its ranges,
the alignment of each base, and its total bytes. -/
structure EngBlock where
  kind   : EngKind
  ssp    : Nat
  dsp    : Nat
  bsp    : Nat
  bar    : Word
  ranges : List CmdRange
  aligns : List (Nat × Nat)
  deriving DecidableEq, Repr

/-- Bytes of an ESZ code (R345). -/
def eszBytes (c : Nat) : Nat :=
  match c with
  | 0 => 4
  | 1 => 8
  | 2 => 16
  | _ => 128

/-- The CPY block. -/
def cpyBlock (r : Nat → Nat) (ssp dsp : Nat) : Option (EngKind × List CmdRange × List (Nat × Nat)) :=
  let n := r 2
  if 1 ≤ n ∧ n < 2 ^ 32 ∧ ssp ≠ 1 ∧ dsp ≠ 1 then
    some (.cpy (r 0) (r 1) n, [⟨ssp, r 0, n, false⟩, ⟨dsp, r 1, n, true⟩], [])
  else none

/-- The CPYSP block: the ranges span from the first row's first byte to the last row's last (R223). -/
def cpyspBlock (r : Nat → Nat) (ssp dsp : Nat) : Option (EngKind × List CmdRange × List (Nat × Nat)) :=
  let row := r 2
  let rows := r 5
  if 1 ≤ row ∧ row ≤ 65536 ∧ 1 ≤ rows ∧ rows ≤ 65535 ∧ ((ssp = 1) ≠ (dsp = 1)) ∧ row ≤ r 7 then
    some (.cpysp (r 0) (r 1) row rows (r 6) (r 7),
      [⟨ssp, r 0, (rows - 1) * r 6 + row, false⟩, ⟨dsp, r 1, (rows - 1) * r 7 + row, true⟩], [])
  else none

/-- The GATH and SCAT blocks: the table's whole region is registered (R223). -/
def tableBlock (scat : Bool) (r : Nat → Nat) (ssp dsp esz : Nat) :
    Option (EngKind × List CmdRange × List (Nat × Nat)) :=
  let cnt := r 2
  let bound := r 6
  let al := [(r 0, esz), (r 1, esz), (r 5, 8)]
  if 1 ≤ cnt ∧ cnt ≤ 2 ^ 24 then
    if scat then
      some (.scat (r 0) (r 1) cnt (r 5) bound esz, [⟨ssp, r 0, cnt * esz, false⟩, ⟨dsp, r 1, bound * esz, true⟩], al)
    else
      some (.gath (r 0) (r 1) cnt (r 5) bound esz, [⟨ssp, r 0, bound * esz, false⟩, ⟨dsp, r 1, cnt * esz, true⟩], al)
  else none

/-- The SPILLB block. -/
def spillBlock (r : Nat → Nat) (nv dsp : Nat) : Option (EngKind × List CmdRange × List (Nat × Nat)) :=
  let first := r 0 % 256
  let cnt := r 0 / 256 % 256 + 1
  if r 0 < 65536 ∧ first + cnt ≤ nv then
    some (.spillb first cnt (r 1), [⟨dsp, r 1, 128 * cnt, true⟩], [(r 1, 4)])
  else none

/-- The FILLA block. -/
def fillBlock (r : Nat → Nat) (na ssp : Nat) : Option (EngKind × List CmdRange × List (Nat × Nat)) :=
  let first := r 1 % 32
  let cnt := r 1 / 256 % 32 + 1
  if r 1 / 32 % 8 = 0 ∧ r 1 < 2 ^ 13 ∧ first + cnt ≤ na then
    some (.filla (r 0) first cnt, [⟨ssp, r 0, 256 * cnt, false⟩], [(r 0, 8)])
  else none

/-- Read a command block; none where R345 or R346 raises ILLEGAL. -/
def engBlock (fn : Nat) (r : Nat → Nat) (na nv : Nat) : Option EngBlock :=
  let fl := r 4
  let ssp := bits fl 0 2
  let dsp := bits fl 2 2
  let bsp := bits fl 4 2
  let esz := eszBytes (bits fl 6 2)
  if 2 ^ 9 ≤ fl ∨ ssp = 3 ∨ dsp = 3 ∨ bsp = 3 ∨ r 3 = 0 then none
  else
    let o : Option (EngKind × List CmdRange × List (Nat × Nat)) := match fn with
      | 0 => cpyBlock r ssp dsp
      | 1 => cpyspBlock r ssp dsp
      | 2 => tableBlock false r ssp dsp esz
      | 3 => tableBlock true r ssp dsp esz
      | 4 => spillBlock r nv dsp
      | _ => fillBlock r na ssp
    o.map fun x =>
        ⟨x.1, ssp, dsp, bsp, BitVec.ofNat 64 (r 3), x.2.1, x.2.2⟩

/-- The place that a range of space 1 or 2 names, if all of it lies inside the allocation (R207, R347). -/
def rangePlace (s : State) (g : Group) (c : CmdRange) : Option Nat :=
  if c.asp = 1 then
    match scratchLoc s g c.lo c.n with
    | some (.scratch o) => some o
    | _ => none
  else if c.asp = 2 then
    match bankLoc s g c.lo c.n with
    | some (.phys pa _) => some pa
    | _ => none
  else some c.lo

/-- A command with its addresses in spaces 1 and 2 replaced by the places they name. -/
def placeKind (k : EngKind) (pl : Bool → Nat) : EngKind :=
  match k with
  | .cpy _ _ n => .cpy (pl false) (pl true) n
  | .cpysp _ _ row rows sp dp => .cpysp (pl false) (pl true) row rows sp dp
  | .gath _ _ cnt idx b e => .gath (pl false) (pl true) cnt idx b e
  | .scat _ _ cnt idx b e => .scat (pl false) (pl true) cnt idx b e
  | .spillb f c _ => .spillb f c (pl true)
  | .filla _ f c => .filla (pl false) f c
  | .mdrain d f r p => .mdrain d f r p

/-- The portions of a command, as offset and length within it (R347). -/
def portions (k : EngKind) : List (Nat × Nat) :=
  match k with
  | .cpy a b n => cutAll [a, b] n
  | .cpysp a b row rows sp dp =>
    (List.range rows).flatMap fun q => (cutAll [a + q * sp, b + q * dp] row).map fun e => (q * row + e.1, e.2)
  | .gath _ _ cnt _ _ esz => (List.range cnt).map fun i => (i * esz, esz)
  | .scat _ _ cnt _ _ esz => (List.range cnt).map fun i => (i * esz, esz)
  | .spillb _ cnt dst => cutAll [dst] (128 * cnt)
  | .filla src _ cnt => cutAll [src] (256 * cnt)
  | .mdrain _ _ _ _ => []

/-! ### Registers read and written for a group (R349) -/

/-- The group has an MSTORE that has not yet written its registers (R212). -/
def mstoreOut (g : Group) : Bool := g.mops.any fun o => match o.kind with | .mstore _ _ => true | _ => false

/-- A register that a SPILLB reads holds an error that the read corrects (R100). -/
def spillCorr (g : Group) (first cnt : Nat) : Bool := (List.range cnt).any fun r => errLanes g.corRegs (.v (first + r)) != 0

/-- The SPILLB commands of a group whose time has come read their registers (R349). -/
def captureSpills (s : State) (gid : Nat) : State :=
  match grp? s gid with
  | none => s
  | some g =>
    if mstoreOut g then s
    else
      { s with engines := s.engines.map fun e =>
          match e.2.kind, e.2.for_ with
          | .spillb first cnt _, .group x _ =>
            if x = gid ∧ !e.2.ready ∧ e.2.wait = 0 then
              (e.1, { e.2 with ready := true, cap := spillCap g first cnt, oecc := spillCorr g first cnt })
            else e
          | _, _ => e }

/-- A block of the group has finished: the SPILLBs that wait for it count it off (R349). -/
def blockEnded (s : State) (gid : Nat) : State :=
  captureSpills { s with engines := s.engines.map fun e =>
    match e.2.for_ with
    | .group x _ => if x = gid then (e.1, { e.2 with wait := e.2.wait - 1 }) else e
    | .record _ _ => e } gid

/-- A block ends (R27): every latency of it has passed, and the C-stream is between blocks; a group that waits for no more
leaves the active set (R48). -/
def finishBlock (s : State) (gid : Nat) : State :=
  blockEnded (modGrp s gid fun g => leaveIdle { flushPend g with cpos := none, refusedC := [] }) gid

/-! ### Issue (R347) -/

/-- Blocks dispatched and not finished. -/
def blocksAhead (g : Group) : Nat := g.bq.length + (if g.cpos.isSome then 1 else 0)

/-- Where the source ranges of a command lie. -/
def sourcesOf (rs : List LockRange) : List (Loc × Nat) :=
  (rs.filter fun r => !r.dst).map fun r => (if r.place = 5 then .scratch r.lo else .phys r.lo true, r.n)

/-- Register a command's ranges, and go on with its token (R347, R348); a wait leaves the instruction to be tried
again. -/
def engEnter (s : State) (gid : Nat) (g : Group) (d : BitVec 6) (b : EngBlock) (l : Loc) (kind : EngKind)
    (ranges : List CmdRange) : State :=
  let r := cmdRanges s (coreDie g.core) g.ctx ranges
  match ownShare r.2.1 with
  | some va =>
    takeFault r.1 gid (badInfo g ⟨0x06, BitVec.ofNat 64 va, BitVec.ofNat 64 ((ranges.headD ⟨0, 0, 0, false⟩).lo), 1024⟩ 0)
  | none =>
    let n := newSerial r.1
    match tryRegister n.2 g.core (.engine n.1) r.2.1 with
    | none => r.1
    | some s1 =>
      let tok := (ctxOf s1 g.ctx).token + 1
      let spill := match kind with | .spillb _ _ _ => true | _ => false
      let c : EngCmd :=
        { kind := kind, for_ := .group gid g.handle, ctx := g.ctx, die := coreDie g.core, core := g.core, token := tok
          ssp := b.ssp, dsp := b.dsp, barrier := some l, todo := portions kind, ready := !spill, stamp := g.seq
          noTrans := r.2.2, kern := g.kern, wait := if spill then blocksAhead g else 0, srcs := sourcesOf r.2.1 }
      let s2 := modCtx { s1 with engines := SMap.put s1.engines n.1 c } g.ctx fun x => { x with token := tok }
      captureSpills (modGrp s2 gid fun x => advance (ws { x with seq := x.seq + 1 } d (BitVec.ofNat 64 tok))) gid

/-- The checks of R347 in order, then registration. -/
def engIssue (i : Instr) (fn : Nat) (d a : BitVec 6) (s : State) : Res :=
  issueA i s fun gid g s =>
    match engBlock fn (fun j => (sReg g (a.toNat + j)).toNat) (hdrOf s g.kern).na (hdrOf s g.kern).nv with
    | none => takeFault s gid (illegal g i)
    | some b =>
      match checkBarrier s g b.bsp b.bar with
      | (s1, .error x) => takeFault s1 gid { badInfo g x 0 with kind := 3 }
      | (s1, .ok l) =>
        match b.aligns.find? fun x => x.1 % x.2 ≠ 0 with
        | some (x, n) => takeFault s1 gid (badInfo g ⟨0x05, BitVec.ofNat 64 x, BitVec.ofNat 64 x, n⟩ 0)
        | none =>
          match b.ranges.find? fun c => (rangePlace s1 g c).isNone with
          | some c => takeFault s1 gid (badInfo g ⟨0x03, BitVec.ofNat 64 c.lo, BitVec.ofNat 64 c.lo, 7⟩ 0)
          | none =>
            let place (c : CmdRange) : CmdRange := { c with lo := (rangePlace s1 g c).getD c.lo }
            let ranges := b.ranges.map place
            let pl (dst : Bool) : Nat := ((ranges.find? fun c => c.dst = dst).map (·.lo)).getD 0
            engEnter s1 gid g d b l (placeKind b.kind pl) ranges

/-- CPY (R346). -/
def execCpy (d a : BitVec 6) (s : State) : Res := engIssue (.cpy d a) 0 d a s

/-- CPYSP (R346). -/
def execCpysp (d a : BitVec 6) (s : State) : Res := engIssue (.cpysp d a) 1 d a s

/-- GATH (R346). -/
def execGath (d a : BitVec 6) (s : State) : Res := engIssue (.gath d a) 2 d a s

/-- SCAT (R346). -/
def execScat (d a : BitVec 6) (s : State) : Res := engIssue (.scat d a) 3 d a s

/-- SPILLB (R346, R349). -/
def execSpillb (d a : BitVec 6) (s : State) : Res := engIssue (.spillb d a) 4 d a s

/-- FILLA (R346, R349). -/
def execFilla (d a : BitVec 6) (s : State) : Res := engIssue (.filla d a) 5 d a s

/-! ### Portions (R347, R348) -/

/-- The lines of a run leave a core's L1 for their home. -/
def evictRun (s : State) (core pa n : Nat) : State :=
  (List.range ((pa % 128 + n + 127) / 128)).foldl (fun s i => evictLine s core (pa / 128 + i)) s

/-- Why a run of bytes at a physical address cannot be reached by an engine: the fault code, and the first byte it names. -/
def runFault (s : State) (c : EngCmd) (pa n : Nat) (kind : Access) : Option (Nat × Nat) :=
  let unit : Bool := match c.for_ with | .record _ _ => true | .group _ _ => false
  let cut := if unit then (isHbm pa || isBank pa) && cutOff s (dieOf pa) || isHostMem pa && s.fabric.hostReset
    else (fabricReason s c.core c.ctx pa).isSome
  let bad := if kind = .read then (runLines pa n).find? fun x => s.bad.contains x.1 else none
  match bad with
  | some x => some (0x0E, x.2)
  | none => if cut then some (0x0F, 0) else none

/-- The place of a run of an engine command, or its fault: a page that did not translate at issue does not translate now
(R223). -/
def engAt (s : State) (c : EngCmd) (asp a n : Nat) (kind : Access) : State × Except (Nat × Nat) Loc :=
  if asp = 1 then (s, .ok (.scratch a))
  else
    let p : State × Except Nat Nat :=
      if asp = 2 then (s, .ok a)
      else
        match SMap.find? c.noTrans (2 * (a % 2 ^ 64 / 4096) + (if kind = .write then 1 else 0)) with
        | some code => (s, .error code)
        | none => engPlace s c.die c.ctx (a % 2 ^ 64) kind
    match p with
    | (s1, .error code) => (s1, .error (code, a % 2 ^ 64))
    | (s1, .ok pa) =>
      match runFault s1 c pa n kind with
      | some e => (s1, .error (e.1, (a + e.2) % 2 ^ 64))
      | none => (s1, .ok (.phys pa true))

/-- A group's engine command finds its own core's lines at their home (R215); one of the package touches no L1. -/
def evictFor (s : State) (c : EngCmd) (pa n : Nat) : State :=
  match c.for_ with
  | .group _ _ => evictRun s c.core pa n
  | .record _ _ => s

/-- Before a group's engine command writes at the home, what its core and its die hold of the lines goes there (R215). -/
def settleFor (s : State) (c : EngCmd) (pa n : Nat) : State :=
  match c.for_ with
  | .group _ _ => (runLines pa n).foldl (fun s x => settleLine s c.core x.1) s
  | .record _ _ => s

/-- The bytes of a place as an engine reads them: a group's command in its die's L2 (R210, R213), one of the package at the
home. -/
def engBytes (s : State) (c : EngCmd) (l : Loc) (n : Nat) : State × List Byte :=
  match l with
  | .scratch o => (s, (List.range n).map fun i => locByte s c.core 0 (.scratch (o + i)))
  | .phys pa _ =>
    let s1 := evictFor s c pa n
    (s1, match c.for_ with
      | .group _ _ => dieBytes s1 (coreDie c.core) (slotOf s1 c.ctx) pa n
      | .record _ _ => memBytes s1 (slotOf s1 c.ctx) pa n)

/-- Write bytes as an engine does. -/
def engPut (s : State) (c : EngCmd) (l : Loc) (bs : List Byte) : State :=
  match l with
  | .scratch o => scratchWrite s c.core o bs
  | .phys pa d => locWrite (settleFor s c pa bs.length) c.core (slotOf s c.ctx) (.phys pa d) bs

/-- The outcome of a portion: done, or turned to nothing with CPYF, for a fault (code and address) or an index beyond the
bound. -/
inductive Portion where
  | done (bits : BitVec 12)
  | fault (code at_ : Nat)
  | beyond
  | wait
  deriving DecidableEq, Repr

/-- The group's stores before the command that overlap its source ranges, or what it reads beside them, are performed
(R223). -/
def sourceClear (s : State) (c : EngCmd) (l : Loc) (n : Nat) : Bool :=
  match engGroup s c with
  | some g => ((l, n) :: c.srcs).all fun x => !overlapsSaq s g c.stamp x.1 x.2
  | none => true

/-- OECC for a run that an engine reads (R100). -/
def readCorr (s : State) (l : Loc) (n : Nat) : BitVec 12 :=
  match l with
  | .scratch _ => 0
  | .phys pa _ => if corrRun s pa n then stOecc else 0

/-- A link that an engine's access to a run takes is RETRAINING, out of its own die or, for one of the package's own copies,
into the die of the place: the access waits (R186). -/
def engHeld (s : State) (c : EngCmd) (l : Loc) (n : Nat) : Bool :=
  match l with
  | .scratch _ => false
  | .phys pa _ => (runLines pa n).any fun x =>
    match c.for_ with
    | .group _ _ => linkWaits s (coreDie c.core) (128 * x.1)
    | .record _ _ => enterHeld s (128 * x.1)

/-- Copy one run, once the source is clear. -/
def copyRun (s : State) (c : EngCmd) (src dst n : Nat) : State × Portion :=
  match engAt s c c.ssp src n .read with
  | (s1, .error e) => (s1, .fault e.1 e.2)
  | (s1, .ok from_) =>
    match engAt s1 c c.dsp dst n .write with
    | (s2, .error e) => (s2, .fault e.1 e.2)
    | (s2, .ok to_) =>
      if !sourceClear s2 c from_ n || engHeld s2 c from_ n || engHeld s2 c to_ n then (s2, .wait)
      else
        let r := engBytes s2 c from_ n
        (engPut r.1 c to_ r.2, .done (readCorr s2 from_ n))

/-- One element of a gather or scatter: its index, then its copy. -/
def tableRun (s : State) (c : EngCmd) (idx k bound : Nat) (f : Nat → Nat × Nat) (esz : Nat) : State × Portion :=
  match engAt s c 0 (idx + 4 * k) 4 .read with
  | (s1, .error e) => (s1, .fault e.1 e.2)
  | (s1, .ok l) =>
    if !sourceClear s1 c l 4 || engHeld s1 c l 4 then (s1, .wait)
    else
      let r := engBytes s1 c l 4
      let j := bytesToNat r.2
      if bound ≤ j then (r.1, .beyond)
      else
        match copyRun r.1 c (f j).1 (f j).2 esz with
        | (s2, .done st) => (s2, .done (st ||| readCorr s1 l 4))
        | x => x

/-- Write a run of captured bytes. -/
def writeRun (s : State) (c : EngCmd) (asp dst : Nat) (bs : List Byte) (st : BitVec 12) : State × Portion :=
  match engAt s c asp dst bs.length .write with
  | (s1, .error e) => (s1, .fault e.1 e.2)
  | (s1, .ok l) => if engHeld s1 c l bs.length then (s1, .wait) else (engPut s1 c l bs, .done st)

/-- Fill registers from a run that begins `off` bytes into the command's source. -/
def fillRegs (g : Group) (first off : Nat) (bs : List Byte) : Group :=
  (List.range (bs.length / 8)).foldl (fun g j =>
    let o := off + 8 * j
    wa g (first + o / 256) (o % 256 / 8) (BitVec.ofNat 64 (bytesToNat ((bs.drop (8 * j)).take 8)))) g

/-- One run of a FILLA. -/
def fillRun (s : State) (c : EngCmd) (src first off n : Nat) : State × Portion :=
  match engAt s c c.ssp (src + off) n .read with
  | (s1, .error e) => (s1, .fault e.1 e.2)
  | (s1, .ok l) =>
    if !sourceClear s1 c l n || engHeld s1 c l n then (s1, .wait)
    else
      let r := engBytes s1 c l n
      match c.for_, engGroup r.1 c with
      | .group gid _, some g => (setGrp r.1 gid (fillRegs g first off r.2), .done (readCorr s1 l n))
      | _, _ => (r.1, .done (readCorr s1 l n))

/-- Bytes of a drained row (R342). -/
def drainRow (fmt : Nat) : Nat :=
  match fmt with
  | 0 => 256
  | 7 => 256
  | 1 => 128
  | 2 => 128
  | 5 => 66
  | 6 => 34
  | _ => 64

/-- The element format of a drain that rounds. -/
def drainFmt (fmt : Nat) : FFmt × Bool :=
  match fmt with
  | 1 => (fmtBf16, false)
  | 2 => (fmtF16, false)
  | 3 => (fmtE4M3, true)
  | _ => (fmtE5M2, true)

/-- A row of 64 elements converted (R342). -/
def drainBytes (fmt : Nat) (xs : List (BitVec 32)) : List Byte :=
  match fmt with
  | 0 => xs.flatMap fun x => natToBytes 4 x.toNat
  | 7 => xs.flatMap fun x => natToBytes 4 x.toNat
  | 5 => mx 1 33
  | 6 => mx 5 17
  | _ =>
    let f := drainFmt fmt
    xs.flatMap fun x => natToBytes ((f.1.low + 1) / 8) (f.1.enc .rne f.2 (fmtF32.val x.toNat))
where
  mx (code n : Nat) : List Byte :=
    let half (ys : List (BitVec 32)) : List Byte :=
      let q := mxQuant code (ys.map fun y => fmtF32.val y.toNat)
      natToBytes n (mxRecord code q.1 q.2)
    half (xs.take 32) ++ half (xs.drop 32)

/-- NAN for a NaN in the row read, INF for an infinity written (R343). -/
def drainStatus (fmt : Nat) (xs : List (BitVec 32)) : BitVec 12 :=
  if fmt = 7 then 0
  else
    let nan := xs.any fun x => (fmtF32.val x.toNat).isNan
    let isInf (v : FVal) : Bool := match v with | .inf _ => true | _ => false
    let inf := match fmt with
      | 0 => xs.any fun x => isInf (fmtF32.val x.toNat)
      | 5 => false
      | 6 => false
      | _ =>
        let f := drainFmt fmt
        xs.any fun x => isInf (f.1.val (f.1.enc .rne f.2 (fmtF32.val x.toNat)))
    (if nan then stNan else 0) ||| (if inf then stInf else 0)

/-- One run of a drain; its destination was translated at issue (R343). -/
def drainRun (s : State) (c : EngCmd) (dst fmt : Nat) (pages : SMap Nat) (off n : Nat) : State × Portion :=
  let row := off / drainRow fmt
  let xs := (List.range 64).map fun j => SMap.get c.cap 0 (64 * row + j)
  let bs := ((drainBytes fmt xs).drop (off % drainRow fmt)).take n
  let a := (dst + off) % 2 ^ 64
  let pa := if c.dsp = 2 then dst + off else SMap.get pages 0 (a / 4096) + a % 4096
  match runFault s c pa n .write with
  | some e => (s, .fault e.1 a)
  | none => if engHeld s c (.phys pa true) n then (s, .wait) else (engPut s c (.phys pa true) bs, .done (drainStatus fmt xs ||| (if c.oecc then stOecc else 0)))

/-- What a command's portion does. -/
def runPortion (s : State) (c : EngCmd) (off n : Nat) : State × Portion :=
  match c.kind with
  | .cpy src dst _ => copyRun s c (src + off) (dst + off) n
  | .cpysp src dst row _ sp dp => copyRun s c (src + off / row * sp + off % row) (dst + off / row * dp + off % row) n
  | .gath tab dst _ idx bound esz => tableRun s c idx (off / esz) bound (fun j => (tab + j * esz, dst + off)) esz
  | .scat src tab _ idx bound esz => tableRun s c idx (off / esz) bound (fun j => (src + off, tab + j * esz)) esz
  | .spillb _ _ dst =>
    writeRun s c c.dsp (dst + off) (((lanesBytes c.cap (off / 128) (off / 128 + (n + 255) / 128)).drop (off % 128)).take n)
      (if c.oecc then stOecc else 0)
  | .filla src first _ => fillRun s c src first off n
  | .mdrain dst fmt _ pages => drainRun s c dst fmt pages off n
where
  /-- The bytes of captured registers `a` to `b - 1`. -/
  lanesBytes (cap : SMap (BitVec 32)) (a b : Nat) : List Byte :=
    (List.range (b - a)).flatMap fun r => allLanes.flatMap fun l => natToBytes 4 (SMap.get cap 0 (32 * (a + r) + l)).toNat

/-- The member index of a command (R99). -/
def engMember (c : EngCmd) : Nat :=
  match c.for_ with
  | .group _ h => h % 65536
  | .record _ _ => 0xFFFE

/-- A portion has been performed or has failed: log its fault once (R348), subtract its length (R100), and release the
locks after the last (R223). A launch record's command waits for its completion (R415). -/
def endPortion (s : State) (id : Nat) (c : EngCmd) (p n : Nat) (r : Portion) : State :=
  let flt : Option (Nat × Nat) := match r with | .fault code a => some (code, a) | _ => none
  let st : BitVec 12 := match r with | .done b => b | _ => stCpyf
  let bad := st &&& stCpyf ≠ 0
  let s1 := match flt with
    | some (code, a) => if c.logged then s else logEvent s c.ctx 5 code c.token a
    | none => s
  let s2 := match c.barrier with
    | some l => sendUpd s1 { home := l, core := c.core, slot := slotOf s1 c.ctx, from_ := none
                             op := .complete n { bits := st, failures := if bad then 1 else 0, member := engMember c } }
    | none => s1
  let c' := { c with todo := c.todo.eraseIdx p, logged := c.logged || flt.isSome, failed := c.failed || decide bad
                     oecc := c.oecc || st &&& stOecc != 0 }
  let s3 := if c'.todo.isEmpty then unlock s2 (.engine id) else s2
  let keep := !c'.todo.isEmpty || (match c.for_ with | .record _ _ => true | .group _ _ => false)
  { s3 with engines := if keep then SMap.put s3.engines id c' else SMap.erase s3.engines id }

/-- The fences before a command are in force (R223). -/
def engFree (s : State) (c : EngCmd) : Bool :=
  match engGroup s c with
  | some g => accessOk g c.stamp true
  | none => true

/-- A scatter's elements are performed in ascending order, so that the highest prevails (R346). -/
def inOrder (c : EngCmd) (p : Nat) : Bool :=
  match c.kind with
  | .scat _ _ _ _ _ _ => p == 0
  | _ => true

/-- ENGINE_PORTION (R347): command `n` performs portion `p` of those still to do. -/
def execEnginePortion (n p : Nat) (s : State) : Res :=
  match SMap.find? s.engines n with
  | none => .next s
  | some c =>
    let s0 := match c.for_ with | .group g _ => settleFences s g | .record _ _ => s
    match c.todo[p]? with
    | none => .next s0
    | some (off, k) =>
      if !c.ready || !c.registered || !engFree s0 c || !inOrder c p then .next s0
      else
        match runPortion s0 c off k with
        | (s1, .wait) => .next s1
        | (s1, r) => .next (endPortion s1 n c p k r)

end Sys2Proof.Machine
end

