-- ==== Sys2Proof/Machine/Packet.lean ====
section
/-! DEFINITION. The bytes of remote packets (R197) and of flits on the lanes of a link (R187, R188). -/

namespace Sys2Proof.Machine

open Sys2Proof

/-! ### Packets (R197) -/

/-- Bytes up to the next multiple of 8. -/
def padTo8 (bs : List Byte) : List Byte := bs ++ List.replicate ((8 - bs.length % 8) % 8) 0

/-- One lane entry of an atomic request. -/
def laneBytes (x : LaneReq) : List Byte :=
  natToBytes 1 x.lane ++ natToBytes 1 x.offset ++ natToBytes 6 0 ++ natToBytes 8 x.operand.toNat ++ natToBytes 8 x.compare.toNat

/-- The head of an atomic line request. -/
def atomHead (l : LineReq) : Nat :=
  l.line % 2 ^ 36 + 2 ^ 36 * l.aop.toNat + 2 ^ 40 * l.at64.toNat + 2 ^ 41 * l.rv.toNat + 2 ^ 42 * l.scope.toNat
    + 2 ^ 45 * ((l.lanes.length - 1) % 32)

/-- One line request of a packet with operation code `op`. The fields of a store stand one behind the other (log 11). -/
def lineBytes (op : Nat) (l : LineReq) : List Byte :=
  match op with
  | 1 => natToBytes 8 (l.line % 2 ^ 36 + 2 ^ 36 * (l.mask.toNat % 65536))
  | 3 => natToBytes 8 l.line ++ natToBytes 16 l.mask.toNat ++ l.bytes
  | _ => natToBytes 8 (atomHead l) ++ l.lanes.flatMap laneBytes

/-- A request packet carries line requests, the others statuses and words. -/
def isRequest (op : Nat) : Bool := op == 1 || op == 3 || op == 4

/-- What follows the header. -/
def packetBody (p : Packet) : List Byte :=
  if isRequest p.op then p.reqs.flatMap (lineBytes p.op)
  else if p.op = 6 then []
  else padTo8 (p.status.map fun x => BitVec.ofNat 8 x) ++ p.words.flatMap fun w => natToBytes 8 w.toNat

/-- The payload of a packet: its 32-byte header and its body. -/
def packetBytes (p : Packet) : List Byte :=
  natToBytes 1 p.op ++ natToBytes 1 (if isRequest p.op then p.reqs.length else p.status.length) ++ natToBytes 2 (p.src % 4096)
    ++ natToBytes 4 p.tag ++ natToBytes 24 0 ++ packetBody p

/-- The first `n` bytes as a value, and the rest, where there are as many. -/
def takeVal (n : Nat) (bs : List Byte) : Option (Nat × List Byte) :=
  if bs.length < n then none else some (bytesToNat (bs.take n), bs.drop n)

/-- Read lane entries. -/
def parseLanes : Nat → List Byte → Option (List LaneReq × List Byte)
  | 0, bs => some ([], bs)
  | n + 1, bs =>
    match takeVal 24 bs with
    | none => none
    | some (v, rest) =>
      (parseLanes n rest).map fun r =>
        (⟨v % 256, v / 2 ^ 8 % 256, BitVec.ofNat 64 (v / 2 ^ 64), BitVec.ofNat 64 (v / 2 ^ 128)⟩ :: r.1, r.2)

/-- Read one line request. -/
def parseLine (op : Nat) (bs : List Byte) : Option (LineReq × List Byte) :=
  match takeVal 8 bs with
  | none => none
  | some (v, rest) =>
    let line := v % 2 ^ 36
    match op with
    | 1 => some (⟨line, BitVec.ofNat 128 (v / 2 ^ 36 % 65536), [], 0, false, false, 0, []⟩, rest)
    | 3 =>
      match takeVal 16 rest with
      | none => none
      | some (m, rest2) =>
        let n := popc 128 m
        if rest2.length < n then none
        else some (⟨line, BitVec.ofNat 128 m, rest2.take n, 0, false, false, 0, []⟩, rest2.drop n)
    | _ =>
      (parseLanes (v / 2 ^ 45 % 32 + 1) rest).map fun r =>
        (⟨line, 0, [], BitVec.ofNat 4 (v / 2 ^ 36), v.testBit 40, v.testBit 41, BitVec.ofNat 3 (v / 2 ^ 42), r.1⟩, r.2)

/-- Read `n` line requests. -/
def parseReqs (op : Nat) : Nat → List Byte → Option (List LineReq)
  | 0, _ => some []
  | n + 1, bs =>
    match parseLine op bs with
    | none => none
    | some (l, rest) => (parseReqs op n rest).map fun ls => l :: ls

/-- Read `n` 8-byte words. -/
def parseWords : Nat → List Byte → List Word
  | 0, _ => []
  | n + 1, bs => BitVec.ofNat 64 (bytesToNat (bs.take 8)) :: parseWords n (bs.drop 8)

/-- The packet that a payload is, where it is one: an operation code that no rule names, and a payload too short for what it
announces, are discarded (R197, log 11). -/
def parsePacket (dst : Nat) (bs : List Byte) : Option Packet :=
  match takeVal 32 bs with
  | none => none
  | some (v, body) =>
    let op := v % 256
    let n := v / 2 ^ 8 % 256
    let p : Packet := { op := op, src := v / 2 ^ 16 % 4096, dst := dst, tag := v / 2 ^ 32 % 2 ^ 22, reqs := [], status := [], words := [] }
    if n = 0 ∨ 16 < n ∨ op = 0 ∨ 7 < op then none
    else if isRequest op then (parseReqs op n body).map fun ls => { p with reqs := ls }
    else if op = 6 then some { p with status := List.replicate n 2 }
    else
      let k := (n + 7) / 8 * 8
      if body.length < k then none
      else some { p with status := (body.take n).map (·.toNat), words := parseWords ((body.length - k) / 8) (body.drop k) }

/-! ### Flits (R187, R188) -/

/-- Byte `i` of a flit. -/
def flitByte (f : BitVec 2048) (i : Nat) : Byte := f.extractLsb' (8 * i) 8

/-- Bytes that each lane carries for a flit over `n` working lanes (R188). -/
def laneLen (n : Nat) : Nat := 8 * (((256 + n - 1) / n + 7) / 8)

/-- Byte `k` of the stream of working lane `j` over `n` of them: a byte of the flit, or padding (R188). -/
def streamByte (n : Nat) (f : BitVec 2048) (j k : Nat) : Byte := if j + k * n < 256 then flitByte f (j + k * n) else 0

/-- A flit striped over `n` working lanes: the beats of each (R188). -/
def stripe (n : Nat) (f : BitVec 2048) : List (List (BitVec 64)) :=
  (List.range n).map fun j => (List.range (laneLen n / 8)).map fun b =>
    BitVec.ofNat 64 (bytesToNat ((List.range 8).map fun i => streamByte n f j (8 * b + i)))

/-- Byte `k` of a lane's stream from its beats: beat k / 8, bits 8 (k mod 8) + 7 : 8 (k mod 8). -/
def beatByte (bs : List (BitVec 64)) (k : Nat) : Byte := (bs.getD (k / 8) 0).extractLsb' (8 * (k % 8)) 8

/-- The flit that the streams of `n` working lanes make up; the padding is ignored (R188). -/
def unstripe (n : Nat) (ls : List (List (BitVec 64))) : BitVec 2048 :=
  BitVec.ofNat 2048 (bytesToNat ((List.range 256).map fun b => beatByte (ls.getD (b % n) []) (b / n)))

/-- The streams of the working lanes among those of the sixteen, in ascending physical number. -/
def workingStreams (lanes : BitVec 16) (ls : List (List (BitVec 64))) : List (List (BitVec 64)) :=
  ((List.range 16).filter fun i => lanes.getLsbD i).map fun i => ls.getD i []

end Sys2Proof.Machine
end

