-- ==== Sys2Proof/Machine/Fetch.lean ====
section
/-! DEFINITION. Fetching instructions of the three streams, starting a C-block, the passing of time, and taking in what reaches the package from outside. -/

namespace Sys2Proof.Machine

open Sys2Proof

/-- Read the bytes of an instruction that lie on one page (R134). Code is read at its home under the context's slot. -/
def fetchRun (s : State) (g : Group) (va : Word) (n : Nat) : State × Except (TFault × Word) Nat :=
  match codePlace s g va with
  | (s1, .error e) => (s1, .error (e, va))
  | (s1, .ok pa) => (s1, .ok (memNat s1 (slotOf s1 g.ctx) pa n))

/-- Read an instruction's bytes at a virtual address (R134, R253, R268 order 1), page by page: the word's value, or the fault
of the fetch with its first faulting byte. -/
def fetchBytes (s : State) (g : Group) (va : Word) (n : Nat) : State × Except (TFault × Word) Nat :=
  let m := Nat.min n (4096 - va.toNat % 4096)
  match fetchRun s g va m with
  | (s1, .error e) => (s1, .error e)
  | (s1, .ok lo) =>
    if n ≤ m then (s1, .ok lo)
    else
      match fetchRun s1 g (va + BitVec.ofNat 64 m) (n - m) with
      | (s2, .error e) => (s2, .error e)
      | (s2, .ok hi) => (s2, .ok (lo + 2 ^ (8 * m) * hi))

/-- The fault record of a failed A-fetch: words 3 and 4 hold the instruction's address. -/
def fetchFault (g : Group) (e : TFault × Word) : FaultInfo :=
  { code := e.1.1, pc := g.pc, w3 := g.pc, w4 := g.pc, w7 := BitVec.ofNat 64 e.1.2, kind := 4 }

/-- The A-instruction at the group's PC, or the fault of R268 that its fetch or word meets (orders 0 to 4). -/
def fetchA (s : State) (g : Group) (k : Kernel) : State × Except FaultInfo Instr :=
  if !inACode k g.pc then (s, .error (faultAt g 0x01 0))
  else
    match fetchBytes s g g.pc 4 with
    | (s1, .error e) => (s1, .error (fetchFault g e))
    | (s1, .ok w) =>
      match decodeA (BitVec.ofNat 32 w) with
      | .ok i => (s1, .ok i)
      | .error _ =>
        if w / 2 ^ 26 = 0x38 ∧ ¬ inHandler g then (s1, .error (faultAt g 0x15 w))
        else (s1, .error (faultAt g 0x01 w))

/-- Take the fault of a fetch; the faults of earlier accesses come first (R38). -/
def takeFetchFault (s : State) (gid : Nat) (g : Group) (f : FaultInfo) : State :=
  match (if inHandler g then [] else g.afaults) with
  | (e, h) :: rest => takeFault (setGrp s gid { g with afaults := rest, held := h }) gid e
  | [] => takeFault s gid f

/-! ### The C-stream (R27, R39, R46, R68) -/

/-- The C-stream of a group may issue: with its place in the active set, ACTIVE, or BLOCKED or YIELDING with blocks
dispatched before; after a stop broadcast, from at most two blocks (R46, R47, R68). -/
def canIssueC (g : Group) : Bool :=
  !g.out && (g.st == .active || g.st == .blocked || g.st == .yielding)
    && match g.stop with
      | none => true
      | some x => g.cpos.isSome || decide (x.skidC < 2)

/-- A SPILLB whose blocks have finished still has to read its registers: no later block starts (R349). -/
def spillHolds (s : State) (gid : Nat) : Bool :=
  s.engines.any fun e =>
    match e.2.for_ with
    | .group x _ => x == gid && !e.2.ready && e.2.wait == 0 && (match e.2.kind with | .spillb _ _ _ => true | _ => false)
    | .record _ _ => false

/-- Write the staged payloads of a block into their k-registers (R27). -/
def putPayload (g : Group) : List (Nat × Word) → Group
  | [] => g
  | (n, v) :: rest => putPayload (wk g n v) rest

/-- Block start (R27): pop the BQ head, write its payloads, set the C-side mask to the snapshot. -/
def startBlock (g : Group) : Group :=
  match g.cpos, g.bq with
  | none, e :: rest =>
    let g1 := putPayload g e.payload
    { g1 with
      bq := rest
      cpos := some { start := e.block, idx := e.block, code := e.code }
      snap := e.snap
      cmask := e.snap &&& g1.present }
  | _, _ => g

/-- A fault precise in the C-stream (R39): word 1 is where the A-stream stopped. -/
def cFault (g : Group) (code : Nat) (lanes : BitVec 32) (w3 w4 w7 : Word) : FaultInfo :=
  { code := code, pc := g.pc, w3 := w3, w4 := w4, w5 := lanes, w7 := w7, cside := true }

/-- The C-word at a place of a block (R134, R252): read from the pages that DISP translated. A block that a whole-group record
brought back has no such pages, and is translated as it is fetched (log 22). -/
def fetchWordC (s : State) (g : Group) (k : Kernel) (p : CPos) : State × Except (TFault × Word) Nat :=
  let va := cBase k + BitVec.ofNat 64 (12 * p.idx)
  if p.code.isEmpty then fetchBytes s g va 12
  else
    let lead := (cBase k + BitVec.ofNat 64 (12 * p.start)).toNat % 4096 + 12 * (p.idx - p.start)
    let at_ (o : Nat) : Nat := p.code.getD (o / 4096) 0 + o % 4096
    (s, .ok (bytesToNat ((List.range 12).map fun j => memByte s (slotOf s g.ctx) (at_ (lead + j)))))

/-- The C-instruction at the C-stream's place, or the fault that its fetch or word meets (R253, R268). -/
def fetchC (s : State) (g : Group) (k : Kernel) (p : CPos) : State × Except FaultInfo Instr :=
  if k.hdr.clen < 12 * p.idx + 12 then (s, .error (cFault g 0x01 0 0 0 0))
  else
    let va := cBase k + BitVec.ofNat 64 (12 * p.idx)
    match fetchWordC s g k p with
    | (s1, .error e) => (s1, .error { cFault g e.1.1 0 e.2 va (BitVec.ofNat 64 e.1.2) with kind := 4 })
    | (s1, .ok w) =>
      match decodeC (BitVec.ofNat 96 w) with
      | .ok i => (s1, .ok i)
      | .error _ => (s1, .error (cFault g 0x01 0 0 0 (BitVec.ofNat 64 w)))

/-! ### Damask's fetch (R381) -/

/-- The Odnar instruction at an instance's program counter. -/
def fetchO (s : State) (n : Nat) : Option Instr :=
  match SMap.find? s.damask.insts n with
  | none => none
  | some x =>
    match SMap.find? s.damask.plans x.plan with
    | none => none
    | some p =>
      match p.prog[x.pc]? with
      | none => none
      | some w => (decodeO w).toOption

/-! ### Time -/

/-- Time during which a group of a kernel holds a slot is resident time (R71). -/
def tickKernels (s : State) (dt : Nat) : SMap Kernel :=
  s.kernels.map fun e =>
    (e.1, if s.groups.any fun g => decide (g.2.kern = e.1) && holdsSlot g.2 then { e.2 with count := e.2.count + dt } else e.2)

/-- Time passes and the agenda advances. -/
def passTime (s : State) (dt : Nat) (rest : List Turn) : State :=
  { s with agenda := rest, now := s.now + dt, cur := .none, kernels := tickKernels s dt }

/-! ### What reaches the package from outside -/

/-- Something on its way to this package is put among what has set out, under a fresh number. -/
def putNet (s : State) (p : Packet) : State :=
  { s with serial := s.serial + 1, fabric := { s.fabric with net := SMap.put s.fabric.net s.serial p } }

/-- A UE message reaches a port: a second delivery of one that is delivered once is discarded by its sequence number (R192,
R202), and so is a payload that is no packet (R197). -/
def takeWire (s : State) (w : Wire) : State :=
  let key := (w.src, w.part, w.seq)
  if (!w.idem && s.fabric.seen.contains key) || !s.fabric.portsUp then s
  else
    let s1 := if w.idem then s else { s with fabric := { s.fabric with seen := key :: s.fabric.seen } }
    match parsePacket s.fabric.pkgId w.bytes with
    | some p => putNet s1 p
    | none => s1

/-- The receive buffers fill or empty (R203). -/
def setRxFull (s : State) (on : Bool) : State := { s with fabric := { s.fabric with rxFull := on } }

def putMsg (s : State) (m : DMsg) : State :=
  { s with serial := s.serial + 1, fabric := { s.fabric with msgs := SMap.put s.fabric.msgs s.serial m } }

def putNote (s : State) (n : DNotice) : State :=
  { s with serial := s.serial + 1, fabric := { s.fabric with notes := SMap.put s.fabric.notes s.serial n } }

def putCredit (s : State) (c : Credit) : State :=
  { s with serial := s.serial + 1, fabric := { s.fabric with credits := SMap.put s.fabric.credits s.serial c } }

/-- What comes in by the ports is lost while they are down (R406 step 7). -/
def portIn (s t : State) : State := if s.fabric.portsUp then t else s

/-- A line meets or loses an uncorrectable error (log 13). -/
def setBad (s : State) (line : Nat) (bad : Bool) : State :=
  let rest := s.bad.filter fun x => x ≠ line
  { s with bad := if bad then line :: rest else rest }

/-- A line meets or loses an error that a read corrects (R100, log 13). -/
def setCorr (s : State) (line : Nat) (on : Bool) : State :=
  let rest := s.corr.filter fun x => x ≠ line
  { s with corr := if on then line :: rest else rest }

/-- A register meets an error in some lanes, corrected on a read or not (log 13). -/
def setBadReg (s : State) (gid : Nat) (r : RegRef) (lanes : BitVec 32) (corrected : Bool) : State :=
  modGrp s gid fun g =>
    if corrected then { g with corRegs := (r, lanes) :: g.corRegs } else { g with badRegs := (r, lanes) :: g.badRegs }

/-- An accumulator tile meets an error, corrected or not (log 13). -/
def setBadTile (s : State) (c tile : Nat) (corrected : Bool) : State :=
  modCore s c fun k => { k with tileErr := SMap.put k.tileErr tile corrected }

/-- An estimate of another package's clock (R391, log 12). -/
def setOffset (s : State) (pkg off : Nat) : State :=
  { s with fabric := { s.fabric with offsets := SMap.put s.fabric.offsets pkg off } }

/-- The host complex rewrites the package ID record (R193): it takes effect at the next start. -/
def setFlashId (s : State) (n : Nat) : State := { s with imqua := { s.imqua with flashId := n % 4096 } }

/-- A route is written into flash (R193): the next start loads it. -/
def setFlashRoute (s : State) (pkg : Nat) (v : Word) : State :=
  { s with imqua := { s.imqua with flashRoutes := SMap.set s.imqua.flashRoutes 0 (pkg % 4096) (v &&& 0x80000001FFFFFFFF) } }

/-! ### Loading one instruction (log 2) -/

/-- The context of the one-instruction load. -/
def loadCtx : Context :=
  { owner := .host, state := .running, root := 0x4000, fmroot := 0x8000, spawnRing := 0x100000, spawnLog := 20,
    pool := 0x800000, quota := 4, savePool := 0xA00000, saveLen := 0x10000, gtable := 0xB00000, stopArea := 0xC00000, evlog := 0xD00000 }

/-- The kernel of the one-instruction load: one A-word at the image's offset 256, one C-word at 512. -/
def loadKernel : Kernel :=
  { ctx := 1, state := .running, image := 0x10000,
    hdr := { aoff := 256, alen := 256, coff := 512, clen := 36, na := 32, nv := 256, fvec := 128, spcount := 2,
             tiles := 4, scratch := 256, bslots := 4, bank := 256, spawnw := 32, fmask := 0xFF, flags := 0 },
    table := [{ pc := 0 }, { pc := 4 }], count := 1, first := true }

/-- The group of the one-instruction load. -/
def loadGroup : Group :=
  { ctx := 1, entry := 0, kern := 1, team := 0, handle := 0, index := 0, core := 0, slot := 0, st := .active,
    pc := 0x10100, em := 0xFFFFFFFF, cmask := 0xFFFFFFFF, snap := 0xFFFFFFFF, present := 0xFFFFFFFF, fvec := 128 }

/-- The group number of the one-instruction load. -/
def loadGid : Nat := 1048576

/-- The translation of the image's page. -/
def loadTlb : TlbEnt :=
  { ctx := 1, va := 0x10000, size := 4096, pa := 0x10000, r := true, w := true, x := true, d := true, glob := false,
    direct := false, fmt := some 0 }

/-- A group with its kernel, team and context, about to issue from the image's page. -/
def loadStage (s : State) (g : Group) (m : Move) : State :=
  { s with
    agenda := [{ dt := 0, move := m }]
    ctxs := SMap.put s.ctxs 1 loadCtx
    parts := SMap.put s.parts 0 { partOf s 0 with hbase := 0, hlen := 0x1000000 }
    kernels := SMap.put s.kernels 1 loadKernel
    teams := SMap.put s.teams (teamKey 1 0) { span := 0 }
    spans := SMap.put s.spans (teamKey 1 0) { die := 0, base := 0x10000000000, size := 256 }
    groups := SMap.put s.groups loadGid g
    cores := SMap.set s.cores {} 0 { coreOf s 0 with tlb := [loadTlb] }
    lineKey := SMap.erase (SMap.erase s.lineKey 514) 516
    fabric := { s.fabric with portsUp := true } }

/-- A plan of one instruction. -/
def loadPlan (w : Word) : Plan := { ctx := 1, comm := 1, rank := 0, nranks := 2, prog := [w], locs := [(0, 0), (1, 0)], wins := List.range 16 }

/-- Place one instruction of `nbits` bits so that the very next step runs it. -/
def loadWord (s : State) (nbits w : Nat) : State :=
  if nbits ≤ 32 then
    { loadStage s loadGroup (.a loadGid) with mem := (setCells s 0x10100 (natToBytes 4 w)).mem }
  else if nbits ≤ 64 then
    { s with
      agenda := [{ dt := 0, move := .odnar 0 }]
      fabric := { s.fabric with portsUp := true }
      damask := { s.damask with
        plans := SMap.put s.damask.plans 1 (loadPlan (BitVec.ofNat 64 w))
        wins := (List.range 16).map fun i => (i, { plan := 1, idx := i, desc := {} })
        insts := SMap.put s.damask.insts 0 { plan := 1, began := s.now } } }
  else
    { loadStage s { loadGroup with cpos := some { start := 0, idx := 0 } } (.c loadGid) with
      mem := (setCells s 0x10200 (natToBytes 12 w)).mem }

end Sys2Proof.Machine
end

