-- ==== Sys2Proof/Machine/CIssue.lean ====
section
/-! DEFINITION. What every C-instruction shares (R260 to R265, R303 to R307): operands, lane sets, the order of faults,
destinations and latencies. -/

namespace Sys2Proof.Machine

open Sys2Proof

/-! ### Fields -/

/-- The fields of a C-instruction, with its entry. -/
def cFields (i : Instr) : CFields := ((cSpec i).map (·.1)).getD ⟨0, 0, 0, 0, 0, 0, 0, 0, 0, 0, 0, 0, 0, 0, 0, 0⟩

/-- The matrix instructions, whose v-registers are fragments and not lane operands (R336 to R344). -/
def isMatrix (i : Instr) : Bool :=
  match i with
  | .mma _ => true
  | .mzero _ => true
  | .mload _ => true
  | .mstore _ => true
  | .mdrain _ => true
  | .mdrainWindow _ => true
  | _ => false

/-- The operand fields an instruction reads, as value and kind, in the order a, b, c (R262); a matrix instruction's
fragment and tile numbers are no operands. -/
def operands (i : Instr) : List (Nat × Nat) :=
  match cSpec i with
  | none => []
  | some (f, sp) =>
    let m := isMatrix i
    let use (ks : List Nat) (v : BitVec 8) (k : BitVec 2) : List (Nat × Nat) :=
      if ks.isEmpty || (m && k == 0) then [] else [(v.toNat, k.toNat)]
    use sp.a f.a f.ak ++ use sp.b f.b f.bk ++ (if sp.ctl.isNone then use sp.c f.c f.ck else [])

/-- Registers of a value of a type (R261). -/
def tyRegs (ty : Nat) : Nat := if isPair ty then 2 else 1

/-- 32-bit words that one row of an MMA fragment takes (R337). -/
def mmaWords (fmt : Nat) : Nat := if fmt = 7 ∨ fmt = 8 then 6 else 8

/-- The v-registers an instruction reads beside its lane operands. -/
def extraReads (i : Instr) : List Nat :=
  let run (n len : Nat) : List Nat := (List.range len).map fun j => n + j
  match i with
  | .vcvt f =>
    if f.dk = 0 ∧ elemCount f.ty.toNat < elemCount (f.c.extractLsb' 0 4).toNat then [f.d.toNat] else []
  | .vpack f => if f.c = 6 then run f.a.toNat 12 else []
  | .vunpk f => if f.c = 6 then run f.a.toNat 2 else []
  | .mma f =>
    run f.a.toNat (2 * mmaWords (f.imm.extractLsb' 0 4).toNat) ++ run f.b.toNat (2 * mmaWords (f.imm.extractLsb' 4 4).toNat)
      ++ (if 4 ≤ mmaClass (f.imm.extractLsb' 0 4).toNat then run f.c.toNat 2 else [])
  | .mload f => run f.a.toNat 16
  | _ => []

/-- The registers a REGION names (R332). -/
def regionRegs (f : CFields) : List Nat :=
  ((List.range 24).filter fun j => f.imm.getLsbD j).map fun j => f.d.toNat + j

/-- The v-registers an instruction names as destinations. -/
def destRegs (i : Instr) : List Nat :=
  let run (n len : Nat) : List Nat := (List.range len).map fun j => n + j
  match i, cSpec i with
  | .vtopk f, _ => run f.d.toNat 2
  | .vpack f, _ => if f.dk = 0 then run f.d.toNat (if f.c = 6 then 2 else 1) else []
  | .vunpk f, _ => if f.dk = 0 then run f.d.toNat (if f.c = 6 then 12 else 1) else []
  | .mstore f, _ => run f.d.toNat 16
  | .region f, _ => regionRegs f
  | .vmov f, _ =>
    if f.dk ≠ 0 ∨ (f.ak ≠ 3 ∧ f.imm.getLsbD 0 = true) then [] else run f.d.toNat (tyRegs f.ty.toNat)
  | _, some (f, sp) => if sp.noDest || isMatrix i || f.dk != 0 then [] else run f.d.toNat (tyRegs f.ty.toNat)
  | _, none => []

/-- The v-registers an instruction names as plain operands. -/
def namedV (i : Instr) : List Nat :=
  ((operands i).filter fun o => o.2 = 0).flatMap fun o => (List.range (tyRegs (cFields i).ty.toNat)).map fun j => o.1 + j

/-- The tile an instruction names (R334). -/
def tileOf (i : Instr) : Option Nat :=
  match i with
  | .mma f => some f.d.toNat
  | .mzero f => some f.d.toNat
  | .mload f => some f.d.toNat
  | .mstore f => some f.a.toNat
  | .mdrain f => some f.a.toNat
  | .mdrainWindow f => some f.a.toNat
  | _ => none

/-- The instructions of compatibility mode, and those of mask mode alone (R32, R327, R328). -/
def modeOk (compat : Bool) (i : Instr) : Bool :=
  match i with
  | .nif _ => compat
  | .nelse _ => compat
  | .nend _ => compat
  | .nbreak _ => compat
  | .emnarrow _ => !compat
  | .emrestore _ => !compat
  | _ => true

/-- Compatibility predication (R108 flags bit 0). -/
def compat (k : Kernel) : Bool := k.hdr.flags.testBit 0

/-- Checked stall counts (R108 flags bit 1). -/
def checkedStalls (k : Kernel) : Bool := k.hdr.flags.testBit 1

/-- A block's END. -/
def isEnd (i : Instr) : Bool :=
  match i with
  | .end_ _ => true
  | _ => false

/-- Fates 4 to 7 of R268 for a decoded C-instruction: its word, its registers and tile, the kernel's mode, and the block's
length (R25). -/
def cIllegal (k : Kernel) (p : CPos) (i : Instr) : Bool :=
  !i.wf || ((namedV i ++ extraReads i ++ destRegs i).any fun n => decide (k.hdr.nv ≤ n) || decide (255 < n))
    || (match tileOf i with | some n => decide (k.hdr.tiles ≤ n) | none => false)
    || !modeOk (compat k) i || (!isEnd i && decide (p.start + 1023 ≤ p.idx))

/-- The low 64 bits of a C-instruction's word (R268). -/
def cLow (i : Instr) : Word := ((encodeC i).getD 0).truncate 64

/-- Latency classes (R264). -/
def latency (i : Instr) : Nat :=
  match i with
  | .vmul _ => 4
  | .vmulh _ => 4
  | .vmad _ => 4
  | .vfadd _ => 4
  | .vfsub _ => 4
  | .vfmul _ => 4
  | .vfma _ => 4
  | .vfmin _ => 4
  | .vfmax _ => 4
  | .vfclass _ => 4
  | .vfcmp _ => 4
  | .vcvt _ => 4
  | .vpack _ => 4
  | .vunpk _ => 4
  | .vscale _ => 4
  | .vfrcp _ => 8
  | .vfrsq _ => 8
  | .vfsqrt _ => 8
  | .vfexp2 _ => 8
  | .vflog2 _ => 8
  | .vqswp _ => 6
  | .vshfl _ => 6
  | .vbcast _ => 6
  | .vballot _ => 6
  | .vprefix _ => 6
  | .vred _ => 6
  | .vtopk _ => 6
  | .vqred _ => 6
  | .kfromv _ => 6
  | .mbf _ => 0
  | _ => 2

/-! ### Lanes (R21, R31, R303) -/

/-- The mask that msel names. -/
def mselMask (g : Group) (f : CFields) : BitVec 32 :=
  let kv : BitVec 32 := (kReg g f.mreg.toNat).truncate 32
  match f.msel.toNat with
  | 0 => g.cmask
  | 1 => g.cmask &&& kv
  | 2 => g.present
  | _ => g.cmask &&& ~~~kv

/-- The lane set L (R303): in compatibility mode only lanes whose counter is zero. -/
def laneSet (k : Kernel) (g : Group) (f : CFields) : BitVec 32 :=
  let m := mselMask g f
  if compat k then maskOf ((lanesOf m).filter fun l => SMap.get g.ctr 0 l = 0) else m

/-- The lanes of a mask and the helper lanes of its quads (R21). -/
def withHelpers (g : Group) (m : BitVec 32) : BitVec 32 := m ||| (quadsOf m &&& ~~~g.present)

/-- The lanes whose registers a cross-lane read finds: present and helper lanes (R315). -/
def sourceLanes (g : Group) : BitVec 32 := g.present ||| helpers g.present

/-! ### Indexed operands (R325) -/

/-- An indexed field's x-register and base (R262). -/
def idxOf (v : Nat) : Nat × Nat := (v / 32 % 4, v % 32)

/-- The bounds of an x-register (R326). -/
def xBounds (g : Group) (i : Nat) : Nat × Nat := SMap.get g.xb (0, 255) i

/-- The register an indexed field names in a lane. -/
def idxReg (g : Group) (v l : Nat) : Nat := (xReg g (idxOf v).1 l).toNat + 8 * (idxOf v).2

/-- The check of R325 in one lane. -/
def idxBad (g : Group) (nv : Nat) (pair : Bool) (v l : Nat) : Bool :=
  let n := idxReg g v l
  let b := xBounds g (idxOf v).1
  decide (n < b.1) || decide (b.2 < n) || decide (nv ≤ n)
    || (pair && (decide (n % 2 = 1) || decide (b.2 < n + 1) || decide (nv ≤ n + 1)))

/-- The operands of an instruction that name their register by an index. -/
def idxOperands (i : Instr) : List Nat := ((operands i).filter fun o => o.2 = 2 ∧ 128 ≤ o.1).map (·.1)

/-- The indexed fields of an instruction: its operands, and the destination of a VMOV with IDX (R323). -/
def indexed (i : Instr) : List Nat :=
  idxOperands i ++
    match i with
    | .vmov f => if f.dk = 0 ∧ f.ak ≠ 3 ∧ f.imm.getLsbD 0 = true then [f.d.toNat] else []
    | _ => []

/-- The failing lanes of L and word 7 for the lowest of them (R325). -/
def boundFault (k : Kernel) (g : Group) (i : Instr) (m : BitVec 32) : Option (BitVec 32 × Word) :=
  let bad (v l : Nat) : Bool := idxBad g k.hdr.nv (isPair (cFields i).ty.toNat) v l
  match (lanesOf m).filter fun l => (indexed i).any fun v => bad v l with
  | [] => none
  | l :: ls =>
    let v := ((indexed i).find? fun v => bad v l).getD 0
    some (maskOf (l :: ls), BitVec.ofNat 64 (idxReg g v l + 2 ^ 18 * (idxOf v).1))

/-! ### Reading operands (R262, R304) -/

/-- Lane values of a register or pair. -/
def vWide (g : Group) (pair : Bool) (n l : Nat) : Word :=
  if pair then (vReg g (n + 1) l).zeroExtend 64 <<< 32 ||| (vReg g n l).zeroExtend 64 else (vReg g n l).zeroExtend 64

/-- A value for each of the 32 lanes. -/
def perLane (f : Nat → Word) : SMap Word := (allLanes.map fun l => (l, f l)).filter fun e => e.2 ≠ 0

/-- The lane values of the LQ entry at a place behind the head. -/
def lqWide (g : Group) (pair : Bool) (p l : Nat) : Word :=
  let w (j : Nat) : Word := (SMap.get (g.lq.getD (p + j) {}).data 0 l).zeroExtend 64
  if pair then w 1 <<< 32 ||| w 0 else w 0

/-- The immediate of a type. -/
def immValue (ty : Nat) (imm : BitVec 24) : Word :=
  if ty = 6 then BitVec.ofNat 64 (imm.toNat * 256)
  else if isPair ty then imm.signExtend 64
  else (imm.signExtend 32).zeroExtend 64

/-- One operand: its value in every lane, and where the LQ head then stands. -/
def readOperand (k : Kernel) (g : Group) (f : CFields) (o : Nat × Nat) (p : Nat) : SMap Word × Nat :=
  let ty := f.ty.toNat
  let pair := isPair ty
  match o.2 with
  | 0 => (perLane (vWide g pair o.1), p)
  | 1 =>
    let v := kReg g o.1
    (perLane fun _ => if pair then v else v &&& 0xFFFFFFFF, p)
  | 3 => (perLane fun _ => immValue ty f.imm, p)
  | _ =>
    if 128 ≤ o.1 then
      (perLane fun l => if idxBad g k.hdr.nv pair o.1 l then 0 else vWide g pair (idxReg g o.1 l) l, p)
    else match o.1 with
      | 0 => (perLane (lqWide g pair p), p + tyRegs ty)
      | 1 => (perLane (lqWide g pair p), p)
      | 2 => (perLane fun l => BitVec.ofNat 64 l, p)
      | 3 => (perLane fun l => BitVec.ofNat 64 (l / 4), p)
      | _ => (perLane fun _ => BitVec.ofNat 64 g.index, p)

/-- Operands in order. -/
def readOperands (k : Kernel) (g : Group) (f : CFields) : List (Nat × Nat) → Nat → List (SMap Word) × Nat
  | [], p => ([], p)
  | o :: rest, p =>
    let r := readOperand k g f o p
    let t := readOperands k g f rest r.2
    (r.1 :: t.1, t.2)

/-- LQ entries an instruction needs at the head: those it pops and those it peeks at behind them. -/
def lqNeed (ty : Nat) : List (Nat × Nat) → Nat → Nat
  | [], _ => 0
  | o :: rest, p =>
    if o.2 = 2 ∧ o.1 = 0 then Nat.max (p + tyRegs ty) (lqNeed ty rest (p + tyRegs ty))
    else if o.2 = 2 ∧ o.1 = 1 then Nat.max (p + tyRegs ty) (lqNeed ty rest p)
    else lqNeed ty rest p

/-! ### Registers read (R212, R264, R306) -/

/-- The source lane of a VQSWP (R315). -/
def quadLane (ctl l : Nat) : Nat := if ctl < 4 then l ^^^ ctl else 4 * (l / 4) + ctl - 4

/-- The lane whose value of operand a a lane reads, given operand b: its own but for the cross-lane reads (R315, R316, R321). -/
def sourceOf (i : Instr) (b : SMap Word) (l : Nat) : Nat :=
  match i with
  | .vqswp f => quadLane f.c.toNat l
  | .vshfl _ => (SMap.get b 0 l).toNat % 32
  | .vbcast _ => (SMap.get b 0 0).toNat % 32
  | .kfromv _ => (SMap.get b 0 0).toNat % 32
  | _ => l

/-- The lanes in which operand a is read for the lanes of `m`: the sources, and every source lane for the instructions that
read a fragment or a record whatever L holds (R329, R337). -/
def aLanes (g : Group) (i : Instr) (b : SMap Word) (m : BitVec 32) : BitVec 32 :=
  match i with
  | .vunpk _ => sourceLanes g
  | .kfromv _ => laneBit (sourceOf i b 0) &&& sourceLanes g
  | _ => maskOf ((lanesOf m).map (sourceOf i b)) &&& sourceLanes g

/-- The registers one operand reads, each with the lanes it is read in. -/
def operandRegs (g : Group) (f : CFields) (m : BitVec 32) (o : Nat × Nat) : List (RegRef × BitVec 32) :=
  let run (n : Nat) (m : BitVec 32) : List (RegRef × BitVec 32) := (List.range (tyRegs f.ty.toNat)).map fun j => (.v (n + j), m)
  match o.2 with
  | 0 => run o.1 m
  | 1 => [(.k o.1, m)]
  | 2 =>
    if 128 ≤ o.1 then (.x (idxOf o.1).1, m) :: (lanesOf m).flatMap fun l => run (idxReg g o.1 l) (laneBit l) else []
  | _ => []

/-- The lanes in which an instruction reads its further registers. -/
def extraLanes (g : Group) (i : Instr) (m : BitVec 32) : BitVec 32 :=
  match i with
  | .vcvt _ => m
  | .vpack _ => m
  | _ => sourceLanes g

/-- Every v-, k- and x-register that an instruction reads for the lanes of `m`, with the lanes it is read in; `b` is the value
of operand b. -/
def regsRead (g : Group) (i : Instr) (b : SMap Word) (m : BitVec 32) : List (RegRef × BitVec 32) :=
  let f := cFields i
  ((operands i).take 1).flatMap (operandRegs g f (aLanes g i b m)) ++ ((operands i).drop 1).flatMap (operandRegs g f m)
    ++ (extraReads i).map (fun n => (RegRef.v n, extraLanes g i m))
    ++ (if f.msel = 1 ∨ f.msel = 3 then [(.k f.mreg.toNat, m)] else [])
    ++ match i with
      | .vmov _ => (indexed i).map fun v => (.x (idxOf v).1, m)
      | _ => []

/-- A read meets a register-file error of a list: a k-register wherever it is bad, another register in a lane it is read in. -/
def readBad (errs : List (RegRef × BitVec 32)) (x : RegRef × BitVec 32) : Bool :=
  match x.1 with
  | .k _ => errLanes errs x.1 != 0
  | _ => errLanes errs x.1 &&& x.2 != 0

/-- The lanes of `m` whose own reads meet an error of a list. -/
def badReaders (errs : List (RegRef × BitVec 32)) (g : Group) (i : Instr) (b : SMap Word) (m : BitVec 32) : BitVec 32 :=
  maskOf ((lanesOf m).filter fun l => (regsRead g i b (laneBit l)).any (readBad errs))

/-- The v-registers that an incomplete MSTORE will write (R335). -/
def owedRegs (g : Group) : List RegRef :=
  g.mops.flatMap fun o =>
    match o.kind with
    | .mstore _ base => (List.range 16).map fun j => .v (base + j)
    | _ => []

/-- The registers written within their latency (R264). -/
def pendRegs (g : Group) : List RegRef := g.pend.map (·.reg)

/-! ### Issue -/

/-- What a C-instruction works with: its number, lanes and operand values, the LQ entries it pops. `zero` holds the helper
lanes in which it would fault: each of them writes zero (R21). -/
structure CEnv where
  i    : Instr
  f    : CFields
  k    : Kernel
  lset : BitVec 32
  wide : BitVec 32
  zero : BitVec 32
  a    : SMap Word
  b    : SMap Word
  c    : SMap Word
  pops : Nat

/-- Operand values in a lane. -/
def CEnv.av (e : CEnv) (l : Nat) : Word := SMap.get e.a 0 l
def CEnv.bv (e : CEnv) (l : Nat) : Word := SMap.get e.b 0 l
def CEnv.cv (e : CEnv) (l : Nat) : Word := SMap.get e.c 0 l

/-- The type code. -/
def CEnv.ty (e : CEnv) : Nat := e.f.ty.toNat

/-- The c control (R304). -/
def CEnv.ctl (e : CEnv) : Nat := e.f.c.toNat

/-- A lane's reads would fault: STALL in a checked kernel, BOUND or ECC (R21, R306, log 24). -/
def laneFaults (k : Kernel) (g : Group) (i : Instr) (b : SMap Word) (l : Nat) : Bool :=
  let rs := regsRead g i b (laneBit l)
  (checkedStalls k && rs.any fun r => (pendRegs g).contains r.1)
    || ((idxOperands i).any fun v => idxBad g k.hdr.nv (isPair (cFields i).ty.toNat) v l) || rs.any (readBad g.badRegs)

/-- Read the operands of an instruction; a c control is none of them. -/
def cEnv (k : Kernel) (g : Group) (i : Instr) : CEnv :=
  let f := cFields i
  let m := laneSet k g f
  let r := readOperands k g f (operands i) 0
  let b := r.1.getD 1 []
  { i := i, f := f, k := k, lset := m, wide := withHelpers g m
    zero := maskOf ((lanesOf (withHelpers g m &&& ~~~m)).filter fun l => laneFaults k g i b l && (helpers g.present).getLsbD l)
    a := r.1.getD 0 [], b := b, c := r.1.getD 2 [], pops := r.2 }

/-- The instruction waits for its queues (R28, R305), or for registers written on the group's behalf (R212). -/
def cWaits (g : Group) (i : Instr) (e : CEnv) : Bool :=
  let f := cFields i
  let n := lqNeed f.ty.toNat (operands i) 0
  decide (g.lq.length < n) || ((g.lq.take n).any fun e => e.st != .complete)
    || (f.dk == 2 && !isMatrix i && decide (32 ≤ g.sdq.length)) || (f.dk == 3 && decide (16 ≤ g.xq.length))
    || ((regsRead g i e.b e.wide).any fun r => (owedRegs g).contains r.1)

/-- STALL: in a checked kernel a read of a register that a write within its latency will reach (R264). -/
def stalls (k : Kernel) (g : Group) (i : Instr) (e : CEnv) : Bool :=
  checkedStalls k && (regsRead g i e.b e.lset).any fun r => (pendRegs g).contains r.1

/-- ECC: the lanes of L, and the lanes a fragment or record is read in, whose register read met an error (R306). -/
def eccLanes (errs : List (RegRef × BitVec 32)) (g : Group) (i : Instr) (e : CEnv) : BitVec 32 :=
  badReaders errs g i e.b e.lset
    ||| ((regsRead g i e.b 0).filter (readBad errs)).foldl (fun m r => m ||| errLanes errs r.1 &&& r.2) 0

/-- A register read of the instruction meets an error, whatever L holds. -/
def eccHit (errs : List (RegRef × BitVec 32)) (g : Group) (i : Instr) (e : CEnv) : Bool :=
  (regsRead g i e.b e.lset).any (readBad errs)

/-- The first of the faults of R306 that holds. -/
def cFate (k : Kernel) (g : Group) (p : CPos) (i : Instr) (e : CEnv) : Option FaultInfo :=
  if cIllegal k p i then some (cFault g 0x01 0 0 0 (cLow i))
  else if stalls k g i e then some (cFault g 0x0A 0 0 0 0)
  else
    match boundFault k g i e.lset with
    | some (m, w) => some (cFault g 0x08 m 0 0 w)
    | none =>
      if eccHit g.badRegs g i e then some (cFault g 0x0E (eccLanes g.badRegs g i e) 0 0 0) else none

/-- Pop the LQ entries an instruction consumes; poisoned lanes are noted (R305, R363). -/
def popLq (e : CEnv) (g : Group) : Group :=
  { g with
    lq := g.lq.drop e.pops
    poison := (g.lq.take e.pops).foldl (fun m x => m ||| x.poisoned) g.poison }

/-- After a stop broadcast, a C-instruction that issues counts its block once: the first of a block, and the first of all
(R69). -/
def countSkidC (g : Group) : Group :=
  let first : Bool := match g.cpos with | some p => p.idx == p.start | none => false
  { g with stop := g.stop.map fun x => { x with skidC := if first then x.skidC + 1 else Nat.max x.skidC 1 } }

/-- Go on behind an instruction: its stall count passes (R264). -/
def cAdvance (e : CEnv) (g : Group) : Group :=
  let g1 := countSkidC (agePend g (Nat.max e.f.stall.toNat 1))
  { g1 with cpos := g1.cpos.map fun p => { p with idx := p.idx + 1 } }

/-- What every C-instruction shares: ILLEGAL, then the waits, then the other faults in order, then its own body. -/
def issueCore96 (i : Instr) (gid : Nat) (g : Group) (k : Kernel) (p : CPos) (s : State)
    (body : CEnv → Nat → Group → State → State) : State :=
  if !canIssueC g then s
  else
    let e := cEnv k g i
    if !cIllegal k p i && cWaits g i e then s
    else
      match cFate k g p i e with
      | some f => takeFault s gid f
      | none => body e gid g s

/-- Issue a C-instruction of the current group. -/
def issueCS (i : Instr) (s : State) (body : CEnv → Nat → Group → State → State) : Res :=
  match s.cur with
  | .group gid =>
    match grp? s gid with
    | none => .refused .noActor
    | some g =>
      match kern? s g.kern, g.cpos with
      | some k, some p => .next (issueCore96 i gid g k p s body)
      | _, _ => .refused .noActor
  | _ => .refused .noActor

/-- Issue a C-instruction that changes only the group's own registers and queues. -/
def issueC (i : Instr) (s : State) (f : CEnv → Group → Group) : Res :=
  issueCS i s fun e gid g s => setGrp s gid (cAdvance e (f e (popLq e g)))

/-! ### Destinations (R263, R305) -/

/-- A write that takes effect after the instruction's latency. -/
def delayed (e : CEnv) (g : Group) (r : RegRef) (vals : SMap Word) : Group :=
  { g with pend := g.pend ++ [{ reg := r, val := vals, left := latency e.i }] }

/-- Values for the lanes of a mask. -/
def onLanes (m : BitVec 32) (f : Nat → Word) : SMap Word := (lanesOf m).map fun l => (l, f l)

/-- A lane's result: zero in a helper lane that would fault (R21). -/
def CEnv.result (e : CEnv) (f : Nat → Word) (l : Nat) : Word := if e.zero.getLsbD l then 0 else f l

/-- Write lane values to v-register `n`, or to the pair for a 64-bit type. -/
def putV (e : CEnv) (g : Group) (n : Nat) (m : BitVec 32) (f : Nat → Word) : Group :=
  let lo := delayed e g (.v n) (onLanes m fun l => e.result f l &&& 0xFFFFFFFF)
  if isPair e.ty then delayed e lo (.v (n + 1)) (onLanes m fun l => e.result f l >>> 32) else lo

/-- Push lane values to SDQ; lanes outside L carry zero. -/
def putSdq (e : CEnv) (g : Group) (f : Nat → Word) : Group :=
  let data : SMap (BitVec 32) := (perLane f).filterMap fun x =>
    if e.lset.getLsbD x.1 then some (x.1, x.2.truncate 32) else none
  { g with sdq := g.sdq ++ [{ data := data, mask := e.lset }] }

/-- Write the result of a lane instruction to its destination. -/
def putLanes (e : CEnv) (g : Group) (f : Nat → Word) : Group :=
  if e.f.dk = 2 then putSdq e g f else putV e g e.f.d.toNat e.wide f

/-- Write a uniform value or a mask to a k-register or XQ. -/
def putUniform (e : CEnv) (g : Group) (v : Word) : Group :=
  if e.f.dk = 3 then { g with xq := g.xq ++ [v] }
  else if e.f.d = 0 then g
  else delayed e g (.k e.f.d.toNat) [(0, v)]

/-- A value a lane instruction gives: every lane, a k-register or XQ by the destination kind (R310, R317, R319). -/
def putEither (e : CEnv) (g : Group) (lanes : Nat → Word) (uni : Word) : Group :=
  if e.f.dk = 1 ∨ e.f.dk = 3 then putUniform e g uni else putLanes e g lanes

/-- Lane `j` of an operand as a cross-lane instruction reads it (R315). -/
def sourceVal (g : Group) (x : SMap Word) (j : Nat) : Word := if (sourceLanes g).getLsbD j then SMap.get x 0 j else 0

end Sys2Proof.Machine
end

