-- ==== Sys2Proof/Machine/Lane.lean ====
section
/-! DEFINITION. Integer and floating-point lane operations (R307 to R314, R331). -/

namespace Sys2Proof.Machine

open Sys2Proof

/-! ### Elements (R15, R261) -/

/-- Bits of an element of a type. -/
def elemBits (ty : Nat) : Nat :=
  match ty with
  | 2 => 16
  | 3 => 16
  | 7 => 16
  | 8 => 16
  | 4 => 8
  | 5 => 8
  | 9 => 8
  | 10 => 8
  | 11 => 64
  | 12 => 64
  | _ => 32

/-- Elements in a lane value of a type. -/
def elems (ty : Nat) : Nat := if isPair ty then 1 else 32 / elemBits ty

/-- The signed integer types. -/
def isSigned (ty : Nat) : Bool := ty == 0 || ty == 2 || ty == 4 || ty == 11

/-- The float types. -/
def isFloat (ty : Nat) : Bool := decide (6 ≤ ty) && decide (ty ≤ 10)

/-- Element `i` of a lane value. -/
def elemAt (w i : Nat) (v : Word) : Nat := v.toNat / 2 ^ (w * i) % 2 ^ w

/-- A lane value from a function of the element number. -/
def fromElems (ty : Nat) (f : Nat → Nat) : Word :=
  let w := elemBits ty
  BitVec.ofNat 64 ((List.range (elems ty)).foldl (fun v i => v + f i % 2 ^ w * 2 ^ (w * i)) 0)

/-- The integer an element of a type stands for. -/
def toI (ty x : Nat) : Int :=
  let w := elemBits ty
  if isSigned ty ∧ 2 ^ (w - 1) ≤ x then (x : Int) - 2 ^ w else x

/-- The range of an integer type. -/
def tyLo (ty : Nat) : Int := if isSigned ty then -(2 ^ (elemBits ty - 1) : Nat) else 0
def tyHi (ty : Nat) : Int := if isSigned ty then (2 ^ (elemBits ty - 1) : Nat) - 1 else (2 ^ elemBits ty : Nat) - 1

/-- An exact integer as an element: wrapped, or clamped with sat (R229). -/
def toElem (ty : Nat) (sat : Bool) (x : Int) : Nat :=
  ((if sat then clampInt (tyLo ty) (tyHi ty) x else x) % (2 ^ elemBits ty : Nat)).toNat

/-! ### Modifiers (R229, R304) -/

/-- neg a, neg b, abs and sat of the C-word. -/
def negA (f : CFields) : Bool := f.mod.getLsbD 3
def negB (f : CFields) : Bool := f.mod.getLsbD 2
def absM (f : CFields) : Bool := f.mod.getLsbD 1
def satM (f : CFields) : Bool := f.mod.getLsbD 0

/-- One element under abs and then neg. -/
def modElem (ty : Nat) (ab neg : Bool) (x : Nat) : Nat :=
  let w := elemBits ty
  if isFloat ty then
    let y := if ab then x % 2 ^ (w - 1) else x
    if neg then (y + 2 ^ (w - 1)) % 2 ^ w else y
  else
    let y := if ab ∧ isSigned ty then (toI ty x).natAbs % 2 ^ w else x
    if neg then (2 ^ w - y) % 2 ^ w else y

/-- An element of operand a, b or c after modifiers. -/
def elA (e : CEnv) (l i : Nat) : Nat := modElem e.ty (absM e.f) (negA e.f) (elemAt (elemBits e.ty) i (e.av l))
def elB (e : CEnv) (l i : Nat) : Nat := modElem e.ty (absM e.f) (negB e.f) (elemAt (elemBits e.ty) i (e.bv l))
def elC (e : CEnv) (l i : Nat) : Nat := elemAt (elemBits e.ty) i (e.cv l)

/-- A lane instruction that computes each element on its own from a, b and c. -/
def perElem (op : CEnv → Nat → Nat → Nat → Nat) (e : CEnv) (g : Group) : Group :=
  putLanes e g fun l => fromElems e.ty fun i => op e (elA e l i) (elB e l i) (elC e l i)

/-! ### NOP and END (R307) -/

/-- NOP. -/
def execNop (f : CFields) (s : State) : Res := issueC (.nop f) s fun _ g => g

/-- END: the block ends once every latency has passed (R27). -/
def execEnd (f : CFields) (s : State) : Res :=
  issueCS (.end_ f) s fun _ gid g s =>
    finishBlock (setGrp s gid (countSkidC g)) gid

/-! ### Integer operations (R308) -/

/-- An exact integer result of a and b, wrapped or clamped. -/
def intOp (op : Int → Int → Int) (e : CEnv) (a b _c : Nat) : Nat :=
  toElem e.ty (satM e.f) (op (toI e.ty a) (toI e.ty b))

/-- VADD. -/
def execVadd (f : CFields) (s : State) : Res := issueC (.vadd f) s (perElem (intOp fun a b => a + b))

/-- VSUB. -/
def execVsub (f : CFields) (s : State) : Res := issueC (.vsub f) s (perElem (intOp fun a b => a - b))

/-- VMUL. -/
def execVmul (f : CFields) (s : State) : Res := issueC (.vmul f) s (perElem (intOp fun a b => a * b))

/-- VMULH: the high half of the exact product. -/
def execVmulh (f : CFields) (s : State) : Res :=
  issueC (.vmulh f) s (perElem fun e a b _ => toElem e.ty false (toI e.ty a * toI e.ty b / (2 ^ elemBits e.ty : Nat)))

/-- VMAD. -/
def execVmad (f : CFields) (s : State) : Res :=
  issueC (.vmad f) s (perElem fun e a b c => toElem e.ty (satM e.f) (toI e.ty a * toI e.ty b + toI e.ty c))

/-- VAND. -/
def execVand (f : CFields) (s : State) : Res := issueC (.vand f) s (perElem fun _ a b _ => a &&& b)

/-- VOR. -/
def execVor (f : CFields) (s : State) : Res := issueC (.vor f) s (perElem fun _ a b _ => a ||| b)

/-- VXOR. -/
def execVxor (f : CFields) (s : State) : Res := issueC (.vxor f) s (perElem fun _ a b _ => a ^^^ b)

/-- VSHL: the amount is b's low log2(w) bits. -/
def execVshl (f : CFields) (s : State) : Res :=
  issueC (.vshl f) s (perElem fun e a b _ => a * 2 ^ (b % elemBits e.ty))

/-- VSHR. -/
def execVshr (f : CFields) (s : State) : Res :=
  issueC (.vshr f) s (perElem fun e a b _ => a / 2 ^ (b % elemBits e.ty))

/-- VSAR: the element's top bit is copied, whatever the type's signedness. -/
def execVsar (f : CFields) (s : State) : Res :=
  issueC (.vsar f) s (perElem fun e a b _ =>
    let w := elemBits e.ty
    let x : Int := if 2 ^ (w - 1) ≤ a then (a : Int) - (2 ^ w : Nat) else a
    (x / (2 ^ (b % w) : Nat) % (2 ^ w : Nat)).toNat)

/-- VMIN. -/
def execVmin (f : CFields) (s : State) : Res :=
  issueC (.vmin f) s (perElem fun e a b _ => if toI e.ty b < toI e.ty a then b else a)

/-- VMAX. -/
def execVmax (f : CFields) (s : State) : Res :=
  issueC (.vmax f) s (perElem fun e a b _ => if toI e.ty a < toI e.ty b then b else a)

/-- VABS. -/
def execVabs (f : CFields) (s : State) : Res :=
  issueC (.vabs f) s (perElem fun e a _ _ => toElem e.ty (satM e.f) ((toI e.ty a).natAbs : Int))

/-- VCLZ. -/
def execVclz (f : CFields) (s : State) : Res := issueC (.vclz f) s (perElem fun e a _ _ => clzNat (elemBits e.ty) a)

/-- VPOPC. -/
def execVpopc (f : CFields) (s : State) : Res := issueC (.vpopc f) s (perElem fun e a _ _ => popc (elemBits e.ty) a)

/-- VBREV. -/
def execVbrev (f : CFields) (s : State) : Res := issueC (.vbrev f) s (perElem fun e a _ _ => brevNat (elemBits e.ty) a)

/-! ### Bit fields and selection (R309) -/

/-- pos and width of a control word. -/
def ctlPos (v : Nat) : Nat := v % 32
def ctlWidth (v : Nat) : Nat := Nat.min (v / 256 % 64) 32

/-- VBFE's result. -/
def bfe (signed : Bool) (a ctl : Nat) : Nat :=
  let w := ctlWidth ctl
  let ext := if signed ∧ 2 ^ 31 ≤ a then a + (2 ^ 64 - 2 ^ 32) else a
  let field := ext / 2 ^ ctlPos ctl % 2 ^ w
  if w = 0 then 0
  else if signed ∧ 2 ^ (w - 1) ≤ field then field + (2 ^ 32 - 2 ^ w) else field

/-- VBFI's result. -/
def bfi (a b ctl : Nat) : Nat :=
  let pos := ctlPos ctl
  let n := Nat.min (pos + ctlWidth ctl) 32 - pos
  a - a / 2 ^ pos % 2 ^ n * 2 ^ pos + b % 2 ^ n * 2 ^ pos

/-- VBFE. -/
def execVbfe (f : CFields) (s : State) : Res := issueC (.vbfe f) s (perElem fun e a b _ => bfe (isSigned e.ty) a b)

/-- VBFI. -/
def execVbfi (f : CFields) (s : State) : Res := issueC (.vbfi f) s (perElem fun _ a b c => bfi a b c)

/-- VSEL: a mask register selects by lane, a v-register by a non-zero value. -/
def execVsel (f : CFields) (s : State) : Res :=
  issueC (.vsel f) s fun e g => putLanes e g fun l =>
    let sel : Bool := if e.f.ck = 1 then (e.cv l).getLsbD l else (e.cv l).toNat % 2 ^ 32 != 0
    if sel then e.av l else e.bv l

/-! ### Compares (R310, R313) -/

/-- Deliver the lanes T for which a condition holds. -/
def putMask (e : CEnv) (g : Group) (t : Nat → Bool) : Group :=
  let m := maskOf ((lanesOf e.lset).filter t)
  putEither e g (fun l => if t l then (if isPair e.ty then BitVec.allOnes 64 else 0xFFFFFFFF) else 0) (m.zeroExtend 64)

/-- VICMP. -/
def execVicmp (f : CFields) (s : State) : Res :=
  issueC (.vicmp f) s fun e g => putMask e g fun l =>
    let a := toI e.ty (elA e l 0)
    let b := toI e.ty (elB e l 0)
    cmpHolds e.ctl (decide (a < b)) (decide (a = b))

/-- A float condition under R235's order. -/
def fcmpHolds (cond a b : Nat) : Bool :=
  let nan := (f32val a).isNan || (f32val b).isNan
  match cond with
  | 6 => !nan
  | 7 => nan
  | c => if nan then c == 1 else cmpHolds c (decide (fmtF32.key a < fmtF32.key b)) (decide (fmtF32.key a = fmtF32.key b))

/-- VFCMP. -/
def execVfcmp (f : CFields) (s : State) : Res :=
  issueC (.vfcmp f) s fun e g => putMask e g fun l => fcmpHolds e.ctl (elA e l 0) (elB e l 0)

/-! ### Floating point (R311, R312) -/

/-- The format of a float type. -/
def tyFmt (ty : Nat) : FFmt :=
  match ty with
  | 7 => fmtBf16
  | 8 => fmtF16
  | 9 => fmtE4M3
  | 10 => fmtE5M2
  | _ => fmtF32

/-- Round an exact value into the instruction's type. -/
def fround (e : CEnv) (x : FVal) : Nat := (tyFmt e.ty).enc (rmode e.f.rnd) (satM e.f) x

/-- An element's value. -/
def fv (e : CEnv) (x : Nat) : FVal := (tyFmt e.ty).val x

/-- VFADD. -/
def execVfadd (f : CFields) (s : State) : Res :=
  issueC (.vfadd f) s (perElem fun e a b _ => fround e (FVal.add (rmode e.f.rnd) (fv e a) (fv e b)))

/-- VFSUB. -/
def execVfsub (f : CFields) (s : State) : Res :=
  issueC (.vfsub f) s (perElem fun e a b _ => fround e (FVal.add (rmode e.f.rnd) (fv e a) (fv e b).neg))

/-- VFMUL. -/
def execVfmul (f : CFields) (s : State) : Res :=
  issueC (.vfmul f) s (perElem fun e a b _ => fround e (FVal.mul (fv e a) (fv e b)))

/-- VFMA: one rounding. -/
def execVfma (f : CFields) (s : State) : Res :=
  issueC (.vfma f) s (perElem fun e a b c => fround e (FVal.add (rmode e.f.rnd) (FVal.mul (fv e a) (fv e b)) (fv e c)))

/-- VFMIN. -/
def execVfmin (f : CFields) (s : State) : Res := issueC (.vfmin f) s (perElem fun e a b _ => (tyFmt e.ty).pick false a b)

/-- VFMAX. -/
def execVfmax (f : CFields) (s : State) : Res := issueC (.vfmax f) s (perElem fun e a b _ => (tyFmt e.ty).pick true a b)

/-- VFRCP (R238). -/
def execVfrcp (f : CFields) (s : State) : Res := issueC (.vfrcp f) s (perElem fun _ a _ _ => f32Rcp (f32val a))

/-- VFRSQ (R238). -/
def execVfrsq (f : CFields) (s : State) : Res := issueC (.vfrsq f) s (perElem fun _ a _ _ => f32Rsq (f32val a))

/-- VFSQRT (R238), in the rounding mode. -/
def execVfsqrt (f : CFields) (s : State) : Res :=
  issueC (.vfsqrt f) s (perElem fun e a _ _ => f32Sqrt (rmode e.f.rnd) (f32val a))

/-- VFEXP2 (R238). -/
def execVfexp2 (f : CFields) (s : State) : Res := issueC (.vfexp2 f) s (perElem fun _ a _ _ => f32Exp2 (f32val a))

/-- VFLOG2 (R238). -/
def execVflog2 (f : CFields) (s : State) : Res := issueC (.vflog2 f) s (perElem fun _ a _ _ => f32Log2 (f32val a))

/-- VFCLASS (R312). -/
def execVfclass (f : CFields) (s : State) : Res := issueC (.vfclass f) s (perElem fun e a _ _ => (tyFmt e.ty).cls a)

/-! ### Conversion (R237, R314) -/

/-- One element from a type to another. Saturation bears on no conversion to a wider integer (R237). -/
def conv (from_ tt : Nat) (rm : RMode) (sat : Bool) (x : Nat) : Nat :=
  if from_ = tt then (if isFloat tt then (tyFmt tt).canon x else x)
  else if isFloat from_ then
    if isFloat tt then (tyFmt tt).enc rm sat ((tyFmt from_).val x)
    else toElem tt false (((tyFmt from_).val x).toInt rm (tyLo tt) (tyHi tt))
  else if isFloat tt then (tyFmt tt).enc rm sat (.ofInt (toI from_ x))
  else toElem tt (sat && decide (elemBits tt ≤ elemBits from_)) (toI from_ x)

/-- The value a conversion gives a lane whose destination held `old`. -/
def convLane (from_ tt p : Nat) (cv : Nat → Nat) (a old : Word) : Word :=
  let nf := elemCount from_
  let nt := elemCount tt
  fromElems tt fun i =>
    if nf < nt then
      if p * nf ≤ i ∧ i < p * nf + nf then cv (modAt (i - p * nf)) else elemAt (elemBits tt) i old
    else cv (modAt (p * nt + i))
where
  /-- The source element. -/
  modAt (i : Nat) : Nat := elemAt (elemBits from_) i a

/-- VCVT. -/
def execVcvt (f : CFields) (s : State) : Res :=
  issueC (.vcvt f) s fun e g =>
    let tt := (e.f.c.extractLsb' 0 4).toNat
    let p := (e.f.c.extractLsb' 4 2).toNat
    let cv (x : Nat) : Nat := conv e.ty tt (rmode e.f.rnd) (satM e.f) (modElem e.ty (absM e.f) (negA e.f) x)
    putLanes e g fun l =>
      convLane e.ty tt p cv (e.av l) (if e.f.dk = 2 then 0 else (vReg g e.f.d.toNat l).zeroExtend 64)

/-- VSCALE (R331): b is read as signed integers. -/
def execVscale (f : CFields) (s : State) : Res :=
  issueC (.vscale f) s fun e g => putLanes e g fun l => fromElems e.ty fun i =>
    let w := elemBits e.ty
    let b := elemAt w i (e.bv l)
    let m : Int := if 2 ^ (w - 1) ≤ b then (b : Int) - (2 ^ w : Nat) else b
    fround e ((fv e (elA e l i)).scale (clampInt (-512) 512 m))

end Sys2Proof.Machine
end

