-- ==== Sys2Proof/Machine/Cross.lean ====
section
/-! DEFINITION. Cross-lane operations (R315 to R320), uniform and mask transfers (R321, R322), moves and index registers
(R323 to R326), masks and counters (R327, R328), packing (R329, R330) and the operand buffer (R332). -/

namespace Sys2Proof.Machine

open Sys2Proof

/-! ### Exchanges (R315, R316) -/

/-- VQSWP. -/
def execVqswp (f : CFields) (s : State) : Res :=
  issueC (.vqswp f) s fun e g => putLanes e g fun l => sourceVal g e.a (quadLane e.ctl l)

/-- VSHFL. -/
def execVshfl (f : CFields) (s : State) : Res :=
  issueC (.vshfl f) s fun e g => putLanes e g fun l => sourceVal g e.a ((e.bv l).toNat % 32)

/-- VBCAST: b is the same in every lane. -/
def execVbcast (f : CFields) (s : State) : Res :=
  issueC (.vbcast f) s fun e g => putLanes e g fun _ => sourceVal g e.a ((e.bv 0).toNat % 32)

/-- VBALLOT (R317). -/
def execVballot (f : CFields) (s : State) : Res :=
  issueC (.vballot f) s fun e g =>
    let m := (maskOf ((lanesOf e.lset).filter fun l => e.av l ≠ 0)).zeroExtend 64
    putEither e g (fun _ => m) m

/-! ### Prefixes and reductions (R249, R318, R319) -/

/-- The reduction operations of R319. -/
inductive RedOp where
  | add | min | max | and_ | or_ | xor
  deriving DecidableEq, Repr

/-- The operation of a VRED or VQRED control. -/
def redOp (c : Nat) : RedOp :=
  match c with
  | 0 => .add
  | 1 => .min
  | 2 => .max
  | 3 => .and_
  | 4 => .or_
  | _ => .xor

/-- The operation of a VPREFIX control. -/
def prefixOp (c : Nat) : RedOp :=
  match c % 4 with
  | 0 => .add
  | 1 => .min
  | 2 => .max
  | _ => .or_

/-- One combining step on two elements. -/
def redStep (ty : Nat) (rm : RMode) (sat : Bool) (op : RedOp) (a b : Nat) : Nat :=
  match op with
  | .add =>
    if ty = 6 then fmtF32.enc rm sat (FVal.add rm (f32val a) (f32val b)) else toElem ty sat (toI ty a + toI ty b)
  | .min => if ty = 6 then fmtF32.pick false a b else if toI ty b < toI ty a then b else a
  | .max => if ty = 6 then fmtF32.pick true a b else if toI ty a < toI ty b then b else a
  | .and_ => a &&& b
  | .or_ => a ||| b
  | .xor => a ^^^ b

/-- A step with possibly empty operands (R249). -/
def redJoin (step : Nat → Nat → Nat) (a b : Option Nat) : Option Nat :=
  match a, b with
  | none, y => y
  | some x, none => some x
  | some x, some y => some (step x y)

/-- The identity an empty value is written as (R318, R319). -/
def redIdentity (ty : Nat) (op : RedOp) : Nat :=
  match op with
  | .min => if ty = 6 then 0x7F800000 else if isSigned ty then 0x7FFFFFFF else 0xFFFFFFFF
  | .max => if ty = 6 then 0xFF800000 else if isSigned ty then 0x80000000 else 0
  | .and_ => 0xFFFFFFFF
  | _ => 0

/-- The tree of R249 over 2^n leaves from a lane on. -/
def redTree (step : Nat → Nat → Nat) (leaf : Nat → Option Nat) : Nat → Nat → Option Nat
  | 0, l => leaf l
  | n + 1, l => redJoin step (redTree step leaf n l) (redTree step leaf n (l + 2 ^ n))

/-- The leaf of a lane: empty outside L. -/
def redLeaf (e : CEnv) (l : Nat) : Option Nat := if e.lset.getLsbD l then some ((e.av l).toNat % 2 ^ 32) else none

/-- The step of an instruction. -/
def stepOf (e : CEnv) (op : RedOp) : Nat → Nat → Nat := redStep e.ty (rmode e.f.rnd) (satM e.f) op

/-- The prefixes of the lanes of L in ascending order. -/
def prefixes (step : Nat → Nat → Nat) (incl : Bool) (e : CEnv) : List Nat → Option Nat → List (Nat × Option Nat)
  | [], _ => []
  | l :: ls, t =>
    let t' := redJoin step t (redLeaf e l)
    (l, if incl then t' else t) :: prefixes step incl e ls t'

/-- VPREFIX (R318): it writes the lanes of L. -/
def execVprefix (f : CFields) (s : State) : Res :=
  issueC (.vprefix f) s fun e g =>
    let op := prefixOp e.ctl
    let ps := prefixes (stepOf e op) (e.f.c.getLsbD 2) e (lanesOf e.lset) none
    putLanes { e with wide := e.lset } g fun l =>
      BitVec.ofNat 64 ((((ps.find? fun x => x.1 = l).map (·.2)).getD none).getD (redIdentity e.ty op))

/-- VRED (R319). -/
def execVred (f : CFields) (s : State) : Res :=
  issueC (.vred f) s fun e g =>
    let op := redOp e.ctl
    let v := (redTree (stepOf e op) (redLeaf e) 5 0).getD (redIdentity e.ty op)
    putEither e g (fun _ => BitVec.ofNat 64 v)
      (if e.ty = 0 then (BitVec.ofNat 32 v).signExtend 64 else BitVec.ofNat 64 v)

/-- VQRED (R319). -/
def execVqred (f : CFields) (s : State) : Res :=
  issueC (.vqred f) s fun e g =>
    let op := redOp e.ctl
    putLanes e g fun l =>
      BitVec.ofNat 64 ((redTree (stepOf e op) (redLeaf e) 2 (4 * (l / 4))).getD (redIdentity e.ty op))

/-! ### VTOPK (R320) -/

/-- The magnitude by which a value ranks; NaN above every number. -/
def topKey (ty v : Nat) : Nat :=
  if ty = 6 then (if (f32val v).isNan then 2 ^ 32 else v % 2 ^ 31) else (toI 0 v).natAbs

/-- Ranks of the lanes of L: how many lanes go before one. -/
def topRank (e : CEnv) (l : Nat) : Nat :=
  let key (j : Nat) : Nat := topKey e.ty ((e.av j).toNat % 2 ^ 32)
  ((lanesOf e.lset).filter fun j => decide (key l < key j) || (decide (key j = key l) && decide (j < l))).length

/-- VTOPK: it writes every present and helper lane of both registers. -/
def execVtopk (f : CFields) (s : State) : Res :=
  issueC (.vtopk f) s fun e g =>
    let at_ (r : Nat) : Option Nat := if r < e.ctl then (lanesOf e.lset).find? fun l => topRank e l = r else none
    let g1 := delayed e g (.v e.f.d.toNat)
      (onLanes (sourceLanes g) fun r => match at_ r with | some j => e.av j &&& 0xFFFFFFFF | none => 0)
    delayed e g1 (.v (e.f.d.toNat + 1))
      (onLanes (sourceLanes g) fun r => match at_ r with | some j => BitVec.ofNat 64 j | none => 0xFF)

/-! ### Uniform transfers (R321, R322) -/

/-- KOP at a width. -/
def kopAt (n : Nat) (signed : Bool) (op : Nat) (a b : BitVec n) : BitVec n :=
  match op with
  | 0 => a + b
  | 1 => a - b
  | 2 => a * b
  | 3 => a &&& b
  | 4 => a ||| b
  | 5 => a ^^^ b
  | 6 => a &&& ~~~b
  | 7 => opShl n a b
  | 8 => opShr n a b
  | 9 => opSar n a b
  | 10 => if signed then opMin n a b else opMinn n a b
  | 11 => if signed then opMax n a b else opMaxn n a b
  | 12 => opPopc n a b
  | 13 => opClz n a b
  | 14 => opCtz n a b
  | _ => opSeq n a b

/-- KOP. -/
def execKop (f : CFields) (s : State) : Res :=
  issueC (.kop f) s fun e g =>
    let a := e.av 0
    let b := e.bv 0
    putUniform e g (if e.ty = 13 then (kopAt 32 false e.ctl (a.truncate 32) (b.truncate 32)).zeroExtend 64
      else kopAt 64 (e.ty = 11) e.ctl a b)

/-- KFROMV. -/
def execKfromv (f : CFields) (s : State) : Res :=
  issueC (.kfromv f) s fun e g => putUniform e g (sourceVal g e.a ((e.bv 0).toNat % 32) &&& 0xFFFFFFFF)

/-- VFROMK. -/
def execVfromk (f : CFields) (s : State) : Res :=
  issueC (.vfromk f) s fun e g => putLanes e g fun l => if (e.av 0).getLsbD l then 0xFFFFFFFF else 0

/-! ### Moves and index registers (R323 to R325) -/

/-- Each lane writes the register its own index names; a failing helper lane writes nothing. -/
def putIndexed (e : CEnv) (g : Group) (v : Nat) (f : Nat → Word) : Group :=
  (lanesOf e.wide).foldl (fun x l =>
    if idxBad g e.k.hdr.nv (isPair e.ty) v l then x else putV e x (idxReg g v l) (laneBit l) f) g

/-- VMOV. -/
def execVmov (f : CFields) (s : State) : Res :=
  issueC (.vmov f) s fun e g =>
    if e.f.dk = 0 ∧ e.f.ak ≠ 3 ∧ e.f.imm.getLsbD 0 = true then putIndexed e g e.f.d.toNat e.av else putLanes e g e.av

/-- XSET. -/
def execXset (f : CFields) (s : State) : Res :=
  issueC (.xset f) s fun e g => delayed e g (.x e.ctl) (onLanes e.wide fun l => e.result e.av l &&& 0xFFFF)

/-- XBOUND: in effect for the next instruction (R264). -/
def execXbound (f : CFields) (s : State) : Res :=
  issueC (.xbound f) s fun e g =>
    let lo := (e.av 0).toNat % 256
    let hi := (e.bv 0).toNat % 256
    { g with xb := SMap.set g.xb (0, 255) e.ctl (lo, hi) }

/-! ### Exec mask and counters (R327, R328) -/

/-- EMNARROW. -/
def execEmnarrow (f : CFields) (s : State) : Res :=
  issueC (.emnarrow f) s fun e g =>
    let m : BitVec 32 := (e.av 0).truncate 32
    { g with cmask := g.cmask &&& m &&& g.present }

/-- EMRESTORE. -/
def execEmrestore (f : CFields) (s : State) : Res :=
  issueC (.emrestore f) s fun e g =>
    let m : BitVec 32 := (e.av 0).truncate 32
    { g with cmask := (g.cmask ||| m) &&& g.snap &&& g.present }

/-- Update the counter of every lane that msel names, and of its quads' helper lanes, whatever the counters hold. -/
def countLanes (e : CEnv) (g : Group) (f : Nat → BitVec 16 → BitVec 16) : Group :=
  let ctr := (lanesOf (withHelpers g (mselMask g e.f))).foldl (fun m l => SMap.set m 0 l (f l (SMap.get m 0 l))) g.ctr
  { g with ctr := ctr }

/-- NIF. -/
def execNif (f : CFields) (s : State) : Res :=
  issueC (.nif f) s fun e g => countLanes e g fun l c =>
    if c ≠ 0 then (if c = 0xFFFF then c else c + 1) else if e.av l = 0 then 1 else c

/-- NELSE. -/
def execNelse (f : CFields) (s : State) : Res :=
  issueC (.nelse f) s fun e g => countLanes e g fun _ c => if c = 1 then 0 else if c = 0 then 1 else c

/-- NEND. -/
def execNend (f : CFields) (s : State) : Res :=
  issueC (.nend f) s fun e g => countLanes e g fun _ c => if c = 0 then c else c - 1

/-- NBREAK. -/
def execNbreak (f : CFields) (s : State) : Res :=
  issueC (.nbreak f) s fun e g => countLanes e g fun l c =>
    if c = 0 ∧ e.av l ≠ 0 then BitVec.ofNat 16 e.ctl else c

/-! ### Packing (R329, R330) -/

/-- A nibble of the i4 form. -/
def packNibble (ty : Nat) (sat : Bool) (x : Nat) : Nat :=
  if !sat then x % 16
  else if isSigned ty then (clampInt (-8) 7 (toI ty x) % 16).toNat
  else Nat.min x 15

/-- The i4 form. -/
def packI4 (e : CEnv) (l : Nat) : Word :=
  BitVec.ofNat 64 ((List.range 8).foldl (fun v i =>
    let x := if i < 4 then elemAt 8 i (e.av l) else elemAt 8 (i - 4) (e.bv l)
    v + packNibble e.ty (satM e.f) x * 16 ^ i) 0)

/-- An f32 value, +0 in lanes outside L. -/
def inL (e : CEnv) (l : Nat) (v : Word) : FVal := if e.lset.getLsbD l then f32val (v.toNat % 2 ^ 32) else f32val 0

/-- VPACK. -/
def execVpack (f : CFields) (s : State) : Res :=
  issueC (.vpack f) s fun e g =>
    if e.ctl = 0 then putLanes e g (packI4 e)
    else if e.ctl = 6 then
      let v := k4vEncode ((List.range 384).map fun n =>
        inL e (n % 32) ((vReg g (e.f.a.toNat + n / 32) (n % 32)).zeroExtend 64))
      let word (j l : Nat) : Word := BitVec.ofNat 64 (v / 2 ^ (64 * l + 32 * j) % 2 ^ 32)
      putV e (putV e g e.f.d.toNat e.wide (word 0)) (e.f.d.toNat + 1) e.wide (word 1)
    else
      let q := mxQuant e.ctl (allLanes.map fun l => inL e l (e.av l))
      let r := mxRecord e.ctl q.1 q.2
      putLanes e g fun l => BitVec.ofNat 64 (r / 2 ^ (8 * (l + 1)) % 256 + 256 * q.1)

/-- Element `i` of the nibbles from half `h`. -/
def unpackI4 (ty h : Nat) (v : Word) : Word :=
  fromElems ty fun i =>
    let n := v.toNat / 16 ^ (4 * h + i) % 16
    if isSigned ty ∧ 8 ≤ n then n + 240 else n

/-- VUNPK. -/
def execVunpk (f : CFields) (s : State) : Res :=
  issueC (.vunpk f) s fun e g =>
    let code := e.ctl % 16
    if code = 0 then putLanes e g fun l => unpackI4 e.ty (e.ctl / 16) (e.av l)
    else if code = 6 then
      let src (n l : Nat) : Nat := if (sourceLanes g).getLsbD l then (vReg g (e.f.a.toNat + n) l).toNat else 0
      let v := allLanes.foldl (fun v l => v + (src 0 l + src 1 l * 2 ^ 32) * 2 ^ (64 * l)) 0
      (List.range 12).foldl (fun x r => putV e x (e.f.d.toNat + r) e.wide fun l =>
        BitVec.ofNat 64 (fmtF32.enc .rne false (k4vDecode v (32 * r + l)))) g
    else
      let byte (l : Nat) : Nat := (sourceVal g e.a l).toNat % 256
      let sc := (sourceVal g e.a 0).toNat / 256 % 256
      let v := allLanes.foldl (fun v l => v + byte l * 2 ^ (8 * l)) 0
      putLanes e g fun l => BitVec.ofNat 64 (fmtF32.enc .rne false (decodeMX sc (mxField code l v) code))

/-- REGION (R332). -/
def execRegion (f : CFields) (s : State) : Res :=
  issueC (.region f) s fun e g => { g with obuf := regionRegs e.f }

end Sys2Proof.Machine
end

