-- ==== Sys2Proof/Machine/Memory.lean ====
section
/-! DEFINITION. Memory issue: loads into the load queue and into registers, stores, atomics, prefetch (R290 to R301), and
the events that carry them out (R28, R87, R198). -/

namespace Sys2Proof.Machine

open Sys2Proof

/-! ### Checking the lanes of an access (R147, R148) -/

/-- Check the naturally aligned accesses of some lanes in ascending order. -/
def checkLanes (s : State) (g : Group) (asp n : Nat) (kind : Access) (ea : SMap Word) :
    List Nat → State × List (Nat × Except Bad Loc)
  | [] => (s, [])
  | l :: ls =>
    let r := checkAccess s g asp (SMap.get ea 0 l) n n kind
    let rest := checkLanes r.1 g asp n kind ea ls
    (rest.1, (l, r.2) :: rest.2)

/-- The failing lanes of a check. -/
def badLanes {α : Type} (rs : List (Nat × Except Bad α)) : List (Nat × Bad) :=
  rs.filterMap fun e => match e.2 with | .error b => some (e.1, b) | .ok _ => none

/-- The passing lanes of a check. -/
def goodLanes {α : Type} (rs : List (Nat × Except Bad α)) : List (Nat × α) :=
  rs.filterMap fun e => match e.2 with | .error _ => none | .ok x => some (e.1, x)

/-- The fault of R148: that of the lowest failing lane, with every lane whose first fault has its code. -/
def reportBad (g : Group) (bs : List (Nat × Bad)) : Option FaultInfo :=
  match bs with
  | [] => none
  | (_, b) :: _ => some (badInfo g b (maskOf ((bs.filter fun e => e.2.code = b.code).map (·.1))))

/-- The lane addresses of an AM or AA instruction over the lanes of em (R290). -/
def laneAddrs (g : Group) (f : Nat → Word) : SMap Word := (lanesOf g.em).map fun l => (l, f l)

/-- A fault known only after issue (R38): a group that issues, or a handler, takes it at a later boundary; a waiting group
takes it at once. -/
def raiseAsync (s : State) (gid : Nat) (f : FaultInfo) (h : Option Held) : State :=
  match grp? s gid with
  | none => s
  | some g =>
    match g.st with
    | .blocked => takeFault (setGrp s gid { g with held := h }) gid f
    | .yielding => takeFault (setGrp s gid { g with held := h }) gid f
    | .pending => takeFault (setGrp s gid { g with held := h }) gid f
    | _ => setGrp s gid { g with afaults := g.afaults ++ [(f, h)] }

/-! ### LDF (R138, R151, R293) -/

/-- The order of R147. -/
def checkRank (code : Nat) : Nat :=
  match code with
  | 0x05 => 0
  | 0x02 => 1
  | 0x03 => 2
  | 0x04 => 3
  | 0x07 => 4
  | _ => 5

/-- The fault of a format entry read for itself (R138, R151): bits 7:6 or a bad pointer, a reserved code, a code the
kernel does not allow. -/
def entryFault (fmask : Nat) (e : Option (BitVec 8)) : Option Nat :=
  match e with
  | none => some 6
  | some x =>
    let v := x.toNat
    if v / 64 ≠ 0 then some 6
    else if 8 ≤ v % 16 then some 2
    else if !fmask.testBit (v % 16) then some 3
    else none

def entryCode (e : Option (BitVec 8)) : Nat := ((e.map fun x => x.toNat % 16).getD 0)

/-- Word 7 of FORMAT (R151). -/
def formatW7 (base touched reason : Nat) : Nat := base + 16 * touched + 256 * reason

/-- Check one part of a record, which lies in one page: translation, permission, format, locks. `cont` says the record
goes on past this part. -/
def recordPart (s : State) (g : Group) (fmask base : Nat) (start addr : Word) (n : Nat) (cont : Bool) :
    State × Except Bad (Loc × Nat) :=
  match translate s g.core g.ctx addr.toNat .read with
  | (s1, .error (c, w)) =>
    let w7 := if c = 0x02 ∧ g.refused.contains (addr.toNat / 4096) then 5 else w
    (s1, .error ⟨c, addr, start, w7⟩)
  | (s1, .ok t) =>
    match (if isAlias t.pa then some 5 else placeFault s1 g.ctx t.pa) with
    | some r => (s1, .error ⟨0x03, addr, start, r⟩)
    | none =>
      let code := entryCode t.fmt
      let reason : Option Nat :=
        match entryFault fmask t.fmt with
        | some r => some r
        | none => if code ≠ base then some 1 else if cont ∧ ((t.fmt.map fun x => x.toNat.testBit 5).getD false) then some 5
          else none
      match reason with
      | some 5 => (s1, .error ⟨0x04, addr + BitVec.ofNat 64 n, start, formatW7 base code 5⟩)
      | some r => (s1, .error ⟨0x04, addr, start, formatW7 base code r⟩)
      | none =>
        if isFabric t.pa then (s1, .ok (.phys t.pa t.direct, n))
        else
          match lockBad s1 g.core (.phys t.pa t.direct) n .read addr with
          | some b => (s1, .error { b with w4 := start })
          | none => (s1, .ok (.phys t.pa t.direct, n))

/-- Check a record of `n` bytes: one part, or two across a page; of two faults the one earlier in R147's order. -/
def recordCheck (s : State) (g : Group) (fmask base : Nat) (start : Word) (n : Nat) :
    State × Except Bad (List (Loc × Nat)) :=
  let first := Nat.min n (4096 - start.toNat % 4096)
  if first = n then
    match recordPart s g fmask base start start n false with
    | (s1, .ok p) => (s1, .ok [p])
    | (s1, .error b) => (s1, .error b)
  else
    let a := recordPart s g fmask base start start first true
    let b := recordPart a.1 g fmask base start (start + BitVec.ofNat 64 first) (n - first) false
    match a.2, b.2 with
    | .ok x, .ok y => (b.1, .ok [x, y])
    | .error x, .ok _ => (b.1, .error x)
    | .ok _, .error y => (b.1, .error y)
    | .error x, .error y => (b.1, .error (if checkRank y.code < checkRank x.code then y else x))

/-- Where a lane's record begins, its size and its element, from the format code, region base and index (R293). -/
def recordOf (code : Nat) (base i : Word) : Word × Nat × Nat :=
  match code with
  | 0 => (base + 4 * i, 4, 0)
  | 6 => (base + 256 * BitVec.ofNat 64 (i.toNat / 384), 256, i.toNat % 384)
  | c => (base + BitVec.ofNat 64 (mxBytes c) * BitVec.ofNat 64 (i.toNat / 32), mxBytes c, i.toNat % 32)

/-- Check one lane of an LDF (R138, R293). The base page's own format fails behind alignment and behind the translation and
permission of the record's pages, and before their format (R147). -/
def ldfLane (s : State) (g : Group) (fmask : Nat) (base i : Word) : State × Except Bad LaneAcc :=
  match translate s g.core g.ctx base.toNat .read with
  | (s1, .error (c, w)) =>
    let w7 := if c = 0x02 ∧ g.refused.contains (base.toNat / 4096) then 5 else w
    (s1, .error ⟨c, base, base, w7⟩)
  | (s1, .ok t) =>
    let code := entryCode t.fmt
    let r := recordOf code base i
    let align := if code = 0 then 4 else if code = 6 then 256 else 1
    let own : Option Nat := match entryFault fmask t.fmt with
      | some x => some x
      | none => if (t.fmt.map fun x => x.toNat.testBit 4).getD false then none else some 4
    let format (x : Nat) : Bad := ⟨0x04, base, r.1, formatW7 code code x⟩
    if t.fmt.isNone ∨ 8 ≤ code then (s1, .error (format (own.getD 6)))
    else if base.toNat % align ≠ 0 then (s1, .error ⟨0x05, base, r.1, align⟩)
    else
      match recordCheck s1 g fmask code r.1 r.2.1, own with
      | (s2, .ok ps), none => (s2, .ok { va := r.1, parts := ps, code := code, elt := r.2.2 })
      | (s2, .ok _), some x => (s2, .error (format x))
      | (s2, .error b), none => (s2, .error b)
      | (s2, .error b), some x => (s2, .error (if checkRank b.code < checkRank 0x04 then b else format x))

/-- The value of a lane's record (R240, R243, R293), rounded for LDF. -/
def ldfValue (bf16 : Bool) (code elt v : Nat) : Nat :=
  let x : FVal := match code with
    | 0 => fmtF32.val v
    | 6 => k4vDecode v elt
    | c => decodeMX (v % 256) (mxField c elt (v / 256)) c
  if bf16 then fmtBf16.enc .rne false x else fmtF32.enc .rne false x

/-! ### Muslin (R87, R88, R89) -/

/-- Move the oldest ring entry into the hardware LQ, its ring entry then free, and give back a chunk left empty (R87, R88). -/
def moveEntry (s : State) (gid : Nat) (g : Group) : State :=
  let h := ringHead s g
  let c := ringCount s g
  let e := ringGet s g h
  let s0 := ctxPut s g.ctx (ringTag s g h + 8) 1 0
  let s1 := gtWrite s0 g 8 4 ((h + 1) % 65536)
  let s2 := gtWrite s1 g 16 4 (c - 1)
  let s3 := modGrp s2 gid fun x => { x with lq := x.lq ++ [e] }
  let p := h % 65536 / 512
  let used := c - 1 ≠ 0 ∧ ((h + 1) % 65536 / 512 = p ∨ (ringTail s g + 65535) % 65536 / 512 = p)
  if used then s3 else returnChunk s3 g p

/-- What Muslin still has to move for a group: ring entries, or held ones within the 64 oldest, while the hardware LQ has
room. -/
def muslinIdle (s : State) (g : Group) : Bool := decide (64 ≤ g.lq.length) || (ringCount s g == 0 && g.hold.isEmpty)

/-- One move for a group. A SAVED group's ring lies still (R91). -/
def muslinMove (s : State) (gid : Nat) : State :=
  match grp? s gid with
  | none => s
  | some g =>
    if g.st == .saved || decide (64 ≤ g.lq.length) then s
    else if ringCount s g ≠ 0 then settleHold (moveEntry s gid g) gid false
    else settleHold s gid false

/-- Every move that is due for a group. -/
def muslinMoves (s : State) (gid : Nat) : State := (List.range 64).foldl (fun s _ => muslinMove s gid) s

/-- Every move that is due in a context: the chunks they leave empty are returned before another load takes one (R92). -/
def muslinCtx (s : State) (cn : Nat) : State :=
  ((s.groups.filter fun e => e.2.ctx = cn ∧ muslinIdle s e.2 = false).map (·.1)).foldl muslinMoves s

/-- MUSLIN_ENTRY_MOVE (R87, R89). -/
def execMuslinEntryMove (gid : Nat) (s : State) : Res := .next (muslinMove s gid)

/-- Reserve `n` entries of a group (R86 to R89). Where a chunk cannot be had, the moves that are due come first (R92). -/
def reserveRun (s : State) (gid n : Nat) : State :=
  let s1 := reserve (settleHold s gid true) gid n
  match grp? s1 gid with
  | none => s1
  | some g => if g.hold.isEmpty then s1 else reserve (settleHold (muslinCtx s g.ctx) gid true) gid n

/-! ### Starting a load -/

/-- Check some lanes of a load. -/
def loadChecks (s : State) (g : Group) (fmask : Nat) (r : LoadReq) :
    List Nat → State × List (Nat × Except Bad LaneAcc)
  | [] => (s, [])
  | l :: ls =>
    let x : State × Except Bad LaneAcc := match r.kind with
      | .ldf _ => ldfLane s g fmask r.base (SMap.get r.ea 0 l)
      | .ld ty =>
        match checkAccess s g r.asp (SMap.get r.ea 0 l) (tySize ty) (tySize ty) .read with
        | (s1, .ok p) => (s1, .ok { va := SMap.get r.ea 0 l, parts := [(p, tySize ty)] })
        | (s1, .error b) => (s1, .error b)
      | .lda ty _ =>
        match checkAccess s g r.asp (SMap.get r.ea 0 l) (tySize ty) (tySize ty) .read with
        | (s1, .ok p) => (s1, .ok { va := SMap.get r.ea 0 l, parts := [(p, tySize ty)] })
        | (s1, .error b) => (s1, .error b)
    let rest := loadChecks x.1 g fmask r ls
    (rest.1, (l, x.2) :: rest.2)

/-- LQ entries of a load. -/
def loadEntries (k : LoadKind) : Nat :=
  match k with
  | .ld ty => tyEntries ty
  | .ldf _ => 1
  | .lda _ _ => 0

/-- Change the entries of a reservation. -/
def modEntries (s : State) (gid first : Nat) (f : Nat → LqEntry → LqEntry) : Nat → State
  | 0 => s
  | n + 1 =>
    let s1 := modEntries s gid first f n
    match grp? s1 gid with
    | none => s1
    | some g => lqPut s1 gid (first + n) (f n (lqGet s1 g (first + n)))

/-- An entry is complete once every lane has arrived (R88, R198). -/
def settleEntry (e : LqEntry) : LqEntry := if e.arrived = BitVec.allOnes 32 then { e with st := .complete } else e

/-- Give lanes a value of zero, as arrived. -/
def zeroLanes (m : BitVec 32) (e : LqEntry) : LqEntry :=
  settleEntry { e with arrived := e.arrived ||| m, data := (lanesOf m).foldl (fun d l => SMap.set d 0 l 0) e.data }

/-- Mark the entries of a reservation held pending (R38). -/
def holdEntries (s : State) (gid first n : Nat) : State := modEntries s gid first (fun _ e => { e with st := .held }) n

/-- Mark the entries of a reservation reserved again, or complete. -/
def freeEntries (s : State) (gid first n : Nat) : State :=
  modEntries s gid first (fun _ e => settleEntry { e with st := .reserved }) n

/-- Add lanes to the load in flight with a stamp, or a new one. -/
def mergeLoad (ls : List LoadReq) (r : LoadReq) (lanes : BitVec 32) (acc : SMap LaneAcc) : List LoadReq :=
  if ls.any fun x => x.stamp = r.stamp then
    ls.map fun x => if x.stamp = r.stamp then
      { x with lanes := x.lanes ||| lanes, acc := acc.foldl (fun m e => SMap.put m e.1 e.2) x.acc } else x
  else ls ++ [{ r with lanes := lanes, acc := acc }]

/-- The first byte of a lane's access that lies in a line, as an offset in the access (R149). -/
def hitOff (line : Nat) : Nat → List (Loc × Nat) → Nat
  | _, [] => 0
  | o, (.phys pa _, n) :: ps =>
    if pa / 128 ≤ line ∧ line ≤ (pa + n - 1) / 128 then o + (128 * line - pa) else hitOff line (o + n) ps
  | o, (.scratch _, n) :: ps => hitOff line (o + n) ps

/-- The lanes whose remote parts cannot leave the package, with the reason and the first such byte (R193, R199). -/
def stranded (s : State) (g : Group) (acc : List (Nat × LaneAcc)) : List (Nat × Nat × Nat) :=
  acc.filterMap fun e =>
    (((remoteParts e.2).filterMap fun p => (fabricReason s g.core g.ctx p.1).map fun r => (r, hitOff (p.1 / 128) 0 e.2.parts)).head?).map
      fun r => (e.1, r)

/-- A fault of some lanes of a load that is known only on data return (R38, R199): `a` is the access of the lowest of them and
`off` its first failing byte (R149). An LDA has no slot. -/
def slotFault (r : LoadReq) (code : Nat) (lanes : BitVec 32) (a : LaneAcc) (off w7 : Nat) : FaultInfo :=
  { code := code, pc := r.pc, w3 := a.va + BitVec.ofNat 64 off, w4 := a.va, w5 := lanes, w7 := BitVec.ofNat 64 w7,
    inslot := true, slot := if loadEntries r.kind = 0 then none else some r.first }

/-- The loads of a group without those of an LDA. -/
def withoutLda (g : Group) : Group :=
  { g with loads := g.loads.filter (fun r => match r.kind with | .lda _ _ => false | _ => true), ldaVal := [] }

/-- Raise a fault known on data return: the slot is held pending with the lanes that failed; an LDA has no slot, and is
re-executed as a whole (R294). -/
def raiseSlot (s : State) (gid : Nat) (r : LoadReq) (f : FaultInfo) : State :=
  let n := loadEntries r.kind
  if n = 0 then raiseAsync (modGrp s gid withoutLda) gid f none
  else raiseAsync (holdEntries s gid r.first n) gid f
    (some { kind := .load { r with lanes := f.w5 }, issue := r.issue, first := r.first, entries := n, done := true })

/-- Start the reads of checked lanes: record them, and make the remote line requests of those that can leave. -/
def beginLoad (s : State) (gid : Nat) (r : LoadReq) (acc : List (Nat × LaneAcc)) : State :=
  match grp? s gid with
  | none => s
  | some g =>
    let bad := stranded s g acc
    let good := acc.filter fun e => !(bad.any fun b => b.1 = e.1)
    let lanes := maskOf (good.map (·.1))
    let s1 := setGrp s gid { g with loads := if good.isEmpty then g.loads else mergeLoad g.loads r lanes good }
    let s2 := readReqs s1 gid g { r with acc := good } lanes
    match bad with
    | [] => s2
    | (l, why, off) :: _ => raiseSlot s2 gid r
        (slotFault r 0x0F (maskOf (bad.map (·.1))) (((acc.find? fun e => e.1 = l).map (·.2)).getD {}) off why)

/-- Check and start some lanes of a load: its fault at issue, or the state in which they are under way. -/
def tryLoad (s : State) (gid : Nat) (g : Group) (r : LoadReq) (lanes : BitVec 32) : State × Option FaultInfo :=
  let rs := loadChecks s g (hdrOf s g.kern).fmask r (lanesOf lanes)
  match reportBad g (badLanes rs.2) with
  | some f => (rs.1, some { f with pc := r.pc, asp := r.asp, slot := if loadEntries r.kind = 0 then none else some r.first })
  | none => (beginLoad rs.1 gid r (goodLanes rs.2), none)

/-- Word 7 of QOVF (R89). -/
def qovfW7 (s : State) (g : Group) : Word :=
  let c := ctxOf s g.ctx
  BitVec.ofNat 64 (c.chunks.length + 2 ^ 32 * c.quota)

/-- Take the fault of a load at its issue: the A-stream has gone on, the reservation is held (R38). -/
def loadFault (s : State) (gid : Nat) (r : LoadReq) (f : FaultInfo) : State :=
  let n := loadEntries r.kind
  let s1 := holdEntries s gid r.first n
  let h : Held := { kind := .load { r with lanes := r.issue }, issue := r.issue, first := r.first, entries := n }
  takeFault (modGrp s1 gid fun g => { g with held := some h }) gid f

/-- Entries that wait in the hold buffer leave too few of its four places for `n` more (R89). The spec does not say what a later
load does then: here it waits by interlock (log 46). -/
def holdFull (s : State) (gid n : Nat) : Bool :=
  match grp? (settleHold s gid true) gid with
  | some g => !g.hold.isEmpty && decide (4 < g.hold.length + n)
  | none => false

/-- A load with a remote lane waits before translation while the coalescer's input is full (R196). -/
def loadHeld (s : State) (g : Group) (r : LoadReq) : Bool :=
  inputFull s g.core && (loadChecks s g (hdrOf s g.kern).fmask r (lanesOf r.issue)).2.any fun e =>
    match e.2 with
    | .ok a => !(remoteParts a).isEmpty
    | .error _ => false

/-- Issue an LD or LDF: reserve, check, begin (R86, R89, R290, R292, R293). -/
def issueLoad (s : State) (gid : Nat) (g : Group) (kind : LoadKind) (asp : Nat) (base : Word) (ea : SMap Word) : State :=
  let n := loadEntries kind
  let r : LoadReq := { first := g.resv, pc := g.pc, kind := kind, issue := g.em, lanes := 0, asp := asp, base := base,
                       ea := ea, stamp := g.seq, at_ := s.now }
  if (hdrOf s g.kern).slip < slip s g + n ∨ holdFull s gid n ∨ loadHeld s g r then s
  else
  match ringOut s g n with
  | some pa => takeFault s gid (structFault g pa)
  | none =>
    let s1 := reserveRun s gid n
    let s2 := modEntries s1 gid r.first (fun _ e => zeroLanes (~~~g.em) e) n
    let past : Bool := match grp? s2 gid with | some x => !x.hold.isEmpty | none => false
    if past then
      let s3 := modGrp s2 gid fun x => { x with seq := x.seq + 1, pc := x.pc + 4 }
      loadFault s3 gid r { code := 0x0C, pc := g.pc, w5 := g.em, w7 := qovfW7 s2 g, slot := some r.first }
    else
      let s3 := modGrp s2 gid fun x => { x with seq := x.seq + 1 }
      match tryLoad s3 gid g r g.em with
      | (s4, none) => modGrp s4 gid advance
      | (s4, some f) => loadFault (modGrp s4 gid fun x => { x with pc := x.pc + 4 }) gid r f

/-- LD (R292). -/
def execLd (ty : BitVec 4) (asp : BitVec 2) (nt : Bool) (aa : BitVec 5) (sb : BitVec 6) (off : BitVec 8) (s : State) : Res :=
  issueA (.ld ty asp nt aa sb off) s fun gid g s =>
    if aa ≠ 31 ∧ fillPending s gid aa.toNat then s
    else
      let disp := sx off * BitVec.ofNat 64 (tySize ty.toNat)
      issueLoad s gid g (.ld ty.toNat) asp.toNat 0 (laneAddrs g (eaAM g aa sb disp))

/-- LDF (R293). -/
def execLdf (ty : BitVec 4) (nt : Bool) (aa : BitVec 5) (sb : BitVec 6) (s : State) : Res :=
  issueA (.ldf ty nt aa sb) s fun gid g s =>
    if aa ≠ 31 ∧ fillPending s gid aa.toNat then s
    else issueLoad s gid g (.ldf (ty.toNat = 9)) 0 (rs g sb) (laneAddrs g fun l => if aa = 31 then 0 else aReg g aa.toNat l)

/-- The value an LDA lane receives (R294). -/
def ldaExt (ty v : Nat) : Word :=
  match ty with
  | 0 => (BitVec.ofNat 8 v).signExtend 64
  | 2 => (BitVec.ofNat 16 v).signExtend 64
  | _ => BitVec.ofNat 64 v

/-- Write the values of a completed LDA and retire it. -/
def ldaFinish (g : Group) (d : Nat) : Group :=
  let g1 := g.ldaVal.foldl (fun x e => wa x d e.1 e.2) g
  advance { g1 with ldaVal := [], ldaDone := false }

/-- The load of an LDA in flight. -/
def ldaOut (g : Group) : Bool := g.loads.any fun r => match r.kind with | .lda _ _ => true | _ => false

/-- LDA (R294): a blocking point until the data of every lane has arrived. -/
def execLda (ty : BitVec 4) (asp : BitVec 2) (nt : Bool) (aa : BitVec 5) (sb : BitVec 6) (d : BitVec 5) (s : State) : Res :=
  issueA (.lda ty asp nt aa sb d) s fun gid g s =>
    if g.ldaDone then setGrp s gid (ldaFinish g d.toNat)
    else if ldaOut g then blockOn s gid g .lda
    else if fillPending s gid d.toNat || (aa ≠ 31 && fillPending s gid aa.toNat) then s
    else if g.em = 0 then setGrp s gid (advance g)
    else
      let r : LoadReq := { pc := g.pc, kind := .lda ty.toNat d.toNat, issue := g.em, lanes := 0, asp := asp.toNat,
                           ea := laneAddrs g (eaAM g aa sb 0), stamp := g.seq }
      let s1 := modGrp s gid fun x => { x with seq := x.seq + 1, ldaVal := [] }
      if loadHeld s g r then s
      else
      match tryLoad s1 gid g r g.em with
      | (s2, some f) => takeFault s2 gid f
      | (s2, none) =>
        match grp? s2 gid with
        | some x => if x.st = .active ∧ x.afaults = [] then blockOn s2 gid x .lda else s2
        | none => s2

/-! ### Data arrival (R38, R198, R292) -/

/-- The values of a lane's LQ words for an LD type (R292). -/
def ldWords (ty v : Nat) : List (BitVec 32) :=
  match ty with
  | 0 => [(BitVec.ofNat 8 v).signExtend 32]
  | 2 => [(BitVec.ofNat 16 v).signExtend 32]
  | 5 => [BitVec.ofNat 32 v, BitVec.ofNat 32 (v / 2 ^ 32)]
  | 6 => (List.range 4).map fun j => BitVec.ofNat 32 (v / 2 ^ (32 * j))
  | _ => [BitVec.ofNat 32 v]

/-- Give one lane of a reservation its words. -/
def fillLane (s : State) (gid first l : Nat) (ws : List (BitVec 32)) (poison : Bool) : State :=
  modEntries s gid first (fun j e => settleEntry { e with
    data := SMap.set e.data 0 l (ws.getD j 0)
    arrived := e.arrived ||| laneBit l
    poisoned := if poison then e.poisoned ||| laneBit l else e.poisoned &&& ~~~(laneBit l) }) ws.length

/-- Deliver the bytes of a lane's access to where its load puts them. -/
def deliver (s : State) (gid : Nat) (r : LoadReq) (l : Nat) (a : LaneAcc) (v : Nat) : State :=
  match r.kind with
  | .ld ty => fillLane s gid r.first l (ldWords ty v) false
  | .ldf bf16 => fillLane s gid r.first l [BitVec.ofNat 32 (ldfValue bf16 a.code a.elt v)] false
  | .lda ty _ => modGrp s gid fun g => { g with ldaVal := SMap.put g.ldaVal l (ldaExt ty v) }

/-- No earlier access of the group to these bytes is still to be performed (R215, R216). -/
def inTurn (s : State) (g : Group) (stamp : Nat) (p : Loc × Nat) : Bool :=
  !overlapsSaq s g stamp p.1 p.2 && !loadsBefore g stamp p.1 p.2

/-- A part that can be read now: a local one in its turn whose link is not RETRAINING (R186), a remote one whose words have
all returned. -/
def partReady (s : State) (g : Group) (r : LoadReq) (p : Loc × Nat) : Bool :=
  match p.1 with
  | .phys pa _ =>
    if isFabric pa then (wordsOf pa p.2).all fun w => (SMap.find? r.data w).isSome
    else inTurn s g r.stamp p && !linkWaits s (coreDie g.core) pa
  | .scratch _ => inTurn s g r.stamp p

/-- The bytes of a part, as a value. -/
def partRead (s : State) (g : Group) (r : LoadReq) (p : Loc × Nat) : State × Nat :=
  match p.1 with
  | .phys pa d =>
    if isFabric pa then
      (s, bytesToNat ((List.range p.2).map fun i =>
        ((SMap.get r.data 0 ((pa + i) / 8)).extractLsb' (8 * ((pa + i) % 8)) 8)))
    else thrNat s g.core (slotOf s g.ctx) (.phys pa d) p.2
  | .scratch o => thrNat s g.core (slotOf s g.ctx) (.scratch o) p.2

/-- Read the parts of a lane in order; the first part lowest. -/
def partsRead (s : State) (g : Group) (r : LoadReq) : List (Loc × Nat) → State × Nat
  | [] => (s, 0)
  | p :: ps =>
    let a := partRead s g r p
    let b := partsRead a.1 g r ps
    (b.1, a.2 + 2 ^ (8 * p.2) * b.2)

/-- The parts of a lane that are left when its first `k` bytes are taken away. -/
def dropParts : Nat → List (Loc × Nat) → List (Loc × Nat)
  | _, [] => []
  | k, p :: ps =>
    if p.2 ≤ k then dropParts (k - p.2) ps
    else
      (match p.1 with | .phys pa d => Loc.phys (pa + k) d | .scratch o => Loc.scratch (o + k), p.2 - k) :: ps

/-- The first `k` bytes of the parts of a lane. -/
def takeParts : Nat → List (Loc × Nat) → List (Loc × Nat)
  | _, [] => []
  | k, p :: ps => if k = 0 then [] else if p.2 ≤ k then p :: takeParts (k - p.2) ps else [(p.1, k)]

/-- Why a lane's local parts cannot be read: a port or die that has gone, or poison (R131, R184, R190): the code, word 7 and
the offset of the first such byte. -/
def partsBad (s : State) (g : Group) : Nat → List (Loc × Nat) → Option (Nat × Nat × Nat)
  | _, [] => none
  | o, (.scratch _, n) :: ps => partsBad s g (o + n) ps
  | o, (.phys pa _, n) :: ps =>
    if isFabric pa then partsBad s g (o + n) ps
    else
      match fabricReason s g.core g.ctx pa, (runLines pa n).find? fun x => s.bad.contains x.1 with
      | some w, _ => some (0x0F, w, o)
      | none, some x => some (0x0E, 0, o + x.2)
      | none, none => partsBad s g (o + n) ps

/-- A load drops lanes that have been dealt with; one with none left is over. -/
def dropLanes (s : State) (gid stamp : Nat) (m : BitVec 32) : State :=
  modGrp s gid fun g => { g with
    loads := (g.loads.map fun x => if x.stamp = stamp then { x with lanes := x.lanes &&& ~~~m } else x).filter
      fun x => x.lanes ≠ 0 }

/-- Lanes of a load that are no longer present when its data arrives receive zero (R292). -/
def zeroGone (s : State) (gid : Nat) (r : LoadReq) (m : BitVec 32) : State :=
  modEntries s gid r.first (fun _ e => zeroLanes m e) (loadEntries r.kind)

/-- The data of one lane arrives, if it can. -/
def arriveLane (s : State) (gid stamp l : Nat) : State :=
  match grp? s gid with
  | none => s
  | some g =>
    match g.loads.find? fun x => x.stamp = stamp with
    | none => s
    | some r =>
      let a := SMap.get r.acc {} l
      let e := SMap.get r.early (0, 0) l
      if !r.lanes.getLsbD l || !a.parts.all (partReady s g r) then s
      else if !g.present.getLsbD l then zeroGone (dropLanes s gid stamp (laneBit l)) gid r (laneBit l)
      else
        match partsBad s g 0 a.parts with
        | some (c, w, off) => raiseSlot (dropLanes s gid stamp (laneBit l)) gid r (slotFault r c (laneBit l) a off w)
        | none =>
          let v := partsRead s g r (dropParts e.1 a.parts)
          deliver (dropLanes v.1 gid stamp (laneBit l)) gid r l a (e.2 + 2 ^ (8 * e.1) * v.2)

/-- The bytes of an access that may be read before the rest (R214): the low half of a b128, any of a record. -/
def aheadOk (kind : LoadKind) (k n : Nat) : Bool :=
  match kind with
  | .ld ty => ty == 6 && k == 8
  | .ldf _ => decide (0 < k) && decide (k < n)
  | .lda _ _ => false

/-- Bytes of a lane's access. -/
def accBytesN (a : LaneAcc) : Nat := a.parts.foldl (fun n p => n + p.2) 0

/-- The first `k` bytes of a lane are read before the rest (R214). -/
def readAhead (s : State) (gid stamp l k : Nat) : State :=
  let s0 := settleFences s gid
  match grp? s0 gid with
  | none => s0
  | some g =>
    match g.loads.find? fun x => x.stamp = stamp with
    | none => s0
    | some r =>
      let a := SMap.get r.acc {} l
      if !accessOk g stamp false || !r.lanes.getLsbD l || (SMap.find? r.early l).isSome || !aheadOk r.kind k (accBytesN a)
          || !a.parts.all (partReady s0 g r) || (partsBad s0 g 0 a.parts).isSome then s0
      else
        let v := partsRead s0 g r (takeParts k a.parts)
        modGrp v.1 gid fun x => { x with
          loads := x.loads.map fun y => if y.stamp = stamp then { y with early := SMap.put y.early l (k, v.2) } else y }

/-- The LDA of a group whose lanes have all arrived is done. -/
def settleLda (s : State) (gid : Nat) : State :=
  modGrp s gid fun g =>
    match g.wake with
    | some .lda => if ldaOut g ∨ g.ldaVal = [] then g else { g with ldaDone := true }
    | _ => g

/-- LOAD_DATA_ARRIVAL (R198): the data of some lanes of the load with stamp `n` arrives, unless an acquire before it is
still to come into force. -/
def execLoadDataArrival (gid n : Nat) (lanes : BitVec 32) (s : State) : Res :=
  let s0 := settleFences s gid
  match grp? s0 gid with
  | none => .next s0
  | some g =>
    if !accessOk g n false then .next s0
    else .next (settleFences (settleLda ((lanesOf lanes).foldl (fun s l => arriveLane s gid n l) s0) gid) gid)

/-! ### LDS and LDSW (R295) -/

/-- Read for LDS or LDSW and retire when the data has returned. -/
def loadScalar (s : State) (gid : Nat) (g : Group) (d : BitVec 6) (addr : Word) (n : Nat) : State :=
  match scalarRead s gid addr n with
  | (s1, .wait) => s1
  | (s1, .bad b) => takeFault (modGrp s1 gid fun x => { x with rval := [], rbad := none }) gid (readInfo g b 1)
  | (s1, .value v) =>
    modGrp s1 gid fun x => advance (ws { x with rval := [], rbad := none } d (if n = 4 then sx (lo32 v) else v))

/-- LDS (R295). -/
def execLds (d a : BitVec 6) (imm : BitVec 14) (s : State) : Res :=
  issueA (.lds d a imm) s fun gid g s => loadScalar s gid g d (rs g a + sx imm) 8

/-- LDSW (R295). -/
def execLdsw (d a : BitVec 6) (imm : BitVec 14) (s : State) : Res :=
  issueA (.ldsw d a imm) s fun gid g s => loadScalar s gid g d (rs g a + sx imm) 4

/-! ### Stores (R296, R377) -/

/-- The window and offset of an alias address (R206). -/
def winOf (pa : Nat) : Nat × Nat := ((pa - 0x20000000000) / 0x10000000, (pa - 0x20000000000) % 0x10000000)

/-- Bytes of a window's store element (R374). -/
def storeSize (d : WinDesc) : Nat := match d.store with | 1 => 4 | 2 => 2 | _ => 1

/-- The check of R377 on one lane's store: the reason it fails. -/
def windowReason (s : State) (ctxN pa size : Nat) : Option Nat :=
  let w := winOf pa
  match SMap.find? s.damask.wins w.1 with
  | none => some 1
  | some x =>
    if (SMap.find? s.damask.plans x.plan).map (·.ctx) ≠ some ctxN then some 1
    else
      let len := x.desc.length
      if w.2 < len ∧ x.desc.kind = 2 ∧ size ≠ storeSize x.desc then some 2
      else if (w.2 < len ∧ len < w.2 + size) ∨ len + 8 < w.2 + size then some 3
      else if len ≤ w.2 ∧ size ≠ 8 then some 4
      else none

/-- Add the window check, which comes last (R377). -/
def windowCheck (s : State) (g : Group) (n : Nat) (ea : SMap Word) (e : Nat × Except Bad Loc) : Nat × Except Bad Loc :=
  match e.2 with
  | .ok (.phys pa _) =>
    if isAlias pa then
      match windowReason s g.ctx pa n with
      | some r => (e.1, .error ⟨0x10, SMap.get ea 0 e.1, SMap.get ea 0 e.1, r⟩)
      | none => e
    else e
  | _ => e

/-- The address an SAQ entry holds for a lane (R418): physical, or the offset in the allocation. -/
def saqAddr (asp : Nat) (ea : SMap Word) (l : Nat) : Loc → Nat
  | .phys pa _ => if asp = 2 then (SMap.get ea 0 l).toNat else pa
  | .scratch _ => (SMap.get ea 0 l).toNat

/-- The SAQ entries of an instruction: `n` of them over the checked lanes. -/
def saqEntries (e : SaqEntry) (ea : SMap Word) (ls : List (Nat × Loc)) (n : Nat) : List SaqEntry :=
  let addr := ls.map fun x => (x.1, saqAddr e.asp ea x.1 x.2)
  let direct := maskOf ((ls.filter fun x => match x.2 with | .phys _ d => d | .scratch _ => false).map (·.1))
  let win := ls.any fun x => match x.2 with | .phys pa _ => isAlias pa | .scratch _ => false
  (List.range n).map fun j => { e with
    addr := addr, va := ls.map fun x => (x.1, SMap.get ea 0 x.1), mask := maskOf (ls.map (·.1)), place := j, count := n, direct := direct
    kind := if e.kind = .store ∧ win then .window else e.kind }

/-- A store or atomic with a remote lane waits before translation while the coalescer's input is full (R196). -/
def lanesHeld (s : State) (g : Group) (asp n : Nat) (kind : Access) (ea : SMap Word) : Bool :=
  inputFull s g.core && (checkLanes s g asp n kind ea (lanesOf g.em)).2.any fun e =>
    match e.2 with
    | .ok (.phys pa _) => isFabric pa
    | _ => false

/-- SAQ and SDQ entries that an atomic takes (R298). -/
def atomPairs (aop w : Nat) : Nat := (if aop = 9 then 2 else 1) * (w / 4)

/-- SAQ entries of the instruction that an entry is for (R296, R298). -/
def entryPairs (e : SaqEntry) : Nat := if e.kind = .atomic then atomPairs e.aop e.size else Nat.max 1 (e.size / 4)

/-- The kind of access an entry makes. -/
def entryAccess (e : SaqEntry) : Access := if e.kind = .atomic then .atomic else .write

/-- LQ entries that the instruction of an entry reserves. -/
def entryLq (e : SaqEntry) : Nat := if e.rv then e.size / 4 else 0

/-- Check the lanes of a store or atomic (R290, R377). -/
def entryChecks (s : State) (g : Group) (e : SaqEntry) : State × List (Nat × Except Bad Loc) :=
  let c := checkLanes s g e.asp e.size (entryAccess e) e.va (lanesOf e.mask)
  (c.1, if e.kind = .atomic then c.2 else c.2.map (windowCheck c.1 g e.size e.va))

/-- What the fault of a store or atomic at issue holds pending (R38, R370). -/
def entryHeld (e : SaqEntry) (data : Option Word) : Held :=
  { kind := if e.rv then .atomic e else .store e data, issue := e.mask, first := e.resv, entries := entryLq e }

/-- Take the fault of a store or atomic at its issue: the access alone is reissued, so the A-stream has gone on (R38). -/
def entryFail (s : State) (gid : Nat) (e : SaqEntry) (h : Held) (f : FaultInfo) : State :=
  takeFault (modGrp (holdEntries s gid e.resv (entryLq e)) gid fun x => { x with held := some h, atomRes := none }) gid
    { f with pc := e.pc, asp := e.asp, store := !e.rv, slot := if e.rv then some e.resv else none, kind := if e.kind = .atomic then 3 else 2 }

/-- Push the SAQ entries of a store or atomic whose lanes have passed (R296, R298). -/
def pushEntries (s : State) (gid : Nat) (e : SaqEntry) (ls : List (Nat × Loc)) : State :=
  modGrp (freeEntries s gid e.resv (entryLq e)) gid fun x => { x with
    saq := x.saq ++ saqEntries { e with stamp := x.seq, at_ := s.now } e.va ls (entryPairs e)
    seq := x.seq + 1
    atomRes := none }

/-- The SAQ has no room for an instruction's entries. -/
def saqFull (g : Group) (e : SaqEntry) : Bool := decide (32 < g.saq.length + entryPairs e)

/-- The A-stream steps over an instruction that is yet to retire (R38). -/
def stepOver (s : State) (gid : Nat) : State := modGrp s gid fun x => { x with pc := x.pc + 4 }

/-- ST (R296). -/
def execSt (ty : BitVec 4) (asp : BitVec 2) (nt : Bool) (aa : BitVec 5) (sb : BitVec 6) (off : BitVec 8) (s : State) : Res :=
  issueA (.st ty asp nt aa sb off) s fun gid g s =>
    if aa ≠ 31 ∧ fillPending s gid aa.toNat then s
    else
      let size := tySize ty.toNat
      let ea := laneAddrs g (eaAM g aa sb (sx off * BitVec.ofNat 64 size))
      let e : SaqEntry := { size := size, nt := nt, asp := asp.toNat, pc := g.pc, va := ea, mask := g.em }
      if lanesHeld s g asp.toNat size .write ea then s
      else
        let c := entryChecks s g e
        match reportBad g (badLanes c.2) with
        | some f => entryFail (stepOver c.1 gid) gid e (entryHeld e none) f
        | none => if saqFull g e then c.1 else modGrp (pushEntries c.1 gid e (goodLanes c.2)) gid advance

/-! ### Atomics (R298 to R300) -/

/-- The new value of an atomic on `w` bytes (R299). -/
def atomOp (aop w old v c : Nat) : Nat :=
  let m := 2 ^ (8 * w)
  let lt (a b : Nat) : Bool := (BitVec.ofNat (8 * w) a).slt (BitVec.ofNat (8 * w) b)
  match aop with
  | 0 => (old + v) % m
  | 1 => if lt v old then v else old
  | 2 => if lt old v then v else old
  | 3 => Nat.min old v
  | 4 => Nat.max old v
  | 5 => old &&& v
  | 6 => old ||| v
  | 7 => old ^^^ v
  | 8 => v
  | 9 => if old = c then v else old
  | 10 => f32AddRne old v
  | 11 => bf16AddRne (old % 65536) (v % 65536) + 65536 * bf16AddRne (old / 65536 % 65536) (v / 65536 % 65536)
  | 12 => fmtF32.pick false old v
  | _ => fmtF32.pick true old v

/-- Perform one atomic at a local place (R221): at team scope or narrower in the core's L1, else at the home. -/
def atomAt (s : State) (core slot : Nat) (l : Loc) (sc aop w v c : Nat) : State × Nat :=
  match l with
  | .scratch o =>
    let old := locNat s core slot (.scratch o) w
    (locWrite s core slot (.scratch o) (natToBytes w (atomOp aop w old v c)), old)
  | .phys pa d =>
    if sc < 2 ∧ cached pa d then
      let r := thrNat s core slot (.phys pa d) w
      (thrWrite r.1 core slot (.phys pa d) (natToBytes w (atomOp aop w r.2 v c)), r.2)
    else
      let s1 := settleLine s core (pa / 128)
      let old := memNat s1 slot pa w
      (homeWrite s1 slot pa (natToBytes w (atomOp aop w old v c)), old)

/-- ATOM (R298): it reserves, checks, and then waits for room in the SAQ, keeping its reservation. -/
def execAtom (aop : BitVec 4) (asp : BitVec 2) (sc : BitVec 3) (aa : BitVec 5) (sb : BitVec 6) (at_ : BitVec 3) (rv : Bool)
    (s : State) : Res :=
  issueA (.atom aop asp sc aa sb at_ rv) s fun gid g s =>
    let w := if at_ = 0 then 4 else 8
    let n := if rv then w / 4 else 0
    let ea := laneAddrs g (eaAA g aa sb)
    if fillPending s gid aa.toNat then s
    else if rv ∧ g.atomRes = none ∧ ((hdrOf s g.kern).slip < slip s g + n ∨ holdFull s gid n) then s
    else if lanesHeld s g asp.toNat w .atomic ea then s
    else
      match (if g.atomRes = none then ringOut s g n else none) with
      | some pa => takeFault s gid (structFault g pa)
      | none =>
      let e : SaqEntry := { kind := .atomic, size := w, rv := rv, asp := asp.toNat, aop := aop.toNat, sc := sc.toNat,
                            at64 := w = 8, resv := g.atomRes.getD g.resv, pc := g.pc, va := ea, mask := g.em }
      let s1 := if rv ∧ g.atomRes = none then
          modEntries (reserveRun s gid n) gid e.resv (fun _ x => zeroLanes (~~~g.em) x) n else s
      let past : Bool := match grp? s1 gid with
        | some x => rv && !x.hold.isEmpty
        | none => false
      if past then
        entryFail (stepOver s1 gid) gid e (entryHeld e none) { code := 0x0C, w5 := g.em, w7 := qovfW7 s1 g }
      else
        let c := entryChecks s1 g e
        match reportBad g (badLanes c.2) with
        | some f => entryFail (stepOver c.1 gid) gid e (entryHeld e none) f
        | none =>
          if saqFull g e then modGrp c.1 gid fun x => { x with atomRes := if rv then some e.resv else none }
          else modGrp (pushEntries c.1 gid e (goodLanes c.2)) gid advance

/-- Why an atomic at a local place cannot be performed: the port or die has gone, or its data is poisoned (R38, R184, R190):
the code and word 7. -/
def placeBad (s : State) (g : Group) (pa : Nat) : Option (Nat × Nat) :=
  match fabricReason s g.core g.ctx pa with
  | some r => some (0x0F, r)
  | none => if !isFabric pa && badLine s pa then some (0x0E, 0) else none

/-- ATOMS (R300): one 64-bit atomic, or a 32-bit one for the floating-point operations. -/
def execAtoms (aop : BitVec 4) (sc : BitVec 3) (d a b : BitVec 6) (s : State) : Res :=
  issueA (.atoms aop sc d a b) s fun gid g s =>
    let w := if 10 ≤ aop.toNat then 4 else 8
    let addr := rs g a
    if !g.saq.isEmpty || scalarHeld s gid g addr w .atomic then s
    else
      let s0 := settleFences s gid
      let v := (rs g b).toNat % 2 ^ (8 * w)
      let c := (rs g d).toNat
      let fin (s : State) (old : Nat) : State :=
        modGrp s gid fun x => advance (ws { x with rval := [], rbad := none, seq := x.seq + 1 } d (BitVec.ofNat 64 old))
      match checkAccess s0 g 0 addr w w .atomic with
      | (s1, .error bad) => takeFault s1 gid { badInfo g bad 1 with kind := 3 }
      | (s1, .ok l) =>
        if !(((grp? s1 gid).map fun x => accessOk x x.seq true).getD false) || overlapsSaq s1 g g.seq l w
            || loadsBefore g g.seq l w then s1
        else
          match l with
          | .phys pa dir =>
            if isFabric pa then
              let line : LineReq := { noLine with
                line := offOf pa / 128, aop := aop, at64 := w = 8, rv := true, scope := sc
                lanes := [⟨0, pa % 128, BitVec.ofNat 64 v, BitVec.ofNat 64 (if aop = 9 then c else 0)⟩] }
              match syncRemote s1 gid g pa 4 line with
              | (s2, .value old) => fin s2 old.toNat
              | (s2, .bad code w7) =>
                takeFault (modGrp s2 gid fun x => { x with rval := [], rbad := none }) gid
                  (readInfo g ⟨code, addr, addr, w7⟩ 1)
              | (s2, .wait) => s2
            else
              match placeBad s1 g pa with
              | some (code, w7) => takeFault s1 gid (readInfo g ⟨code, addr, addr, w7⟩ 1)
              | none =>
                if linkWaits s1 (coreDie g.core) pa then s1
                else
                let r := atomAt s1 g.core (slotOf s1 g.ctx) (.phys pa dir) sc.toNat aop.toNat w v c
                fin r.1 r.2
          | .scratch _ => s1

/-! ### Sending pairs (R28, R200, R296, R298) -/

/-- The value a lane stores: its words from the SDQ entries of the instruction, low word first. -/
def laneData (ds : List SdqEntry) (l : Nat) : Nat :=
  (ds.zipIdx).foldl (fun v e => v + (SMap.get e.1.data 0 l).toNat * 2 ^ (32 * e.2)) 0

/-- A remote write of bytes in one line. -/
structure RemoteBytes where
  line  : Nat
  bytes : SMap (BitVec 8)
  deriving DecidableEq, Repr

/-- Gather the remote bytes of a store by line; a later byte prevails. -/
def gatherBytes (m : SMap (SMap (BitVec 8))) (pa : Nat) : List Byte → SMap (SMap (BitVec 8))
  | [] => m
  | b :: bs =>
    let line := pa / 128
    gatherBytes (SMap.put m line (SMap.put (SMap.get m [] line) (pa % 128) b)) (pa + 1) bs

/-- The virtual address at which the lowest of some lanes' accesses starts. -/
def lowVa (e : SaqEntry) (ls : List Nat) : Word :=
  SMap.get e.va 0 (ls.foldl (fun a b => if SMap.get e.addr 0 b < SMap.get e.addr 0 a then b else a) (ls.headD 0))

/-- Put the store line requests of one instruction into the coalescer (R200). -/
def storeReqs (s : State) (gid core : Nat) (e : SaqEntry) (ls : List Nat) (m : SMap (SMap (BitVec 8))) : State :=
  let lanesIn (line : Nat) := ls.filter fun l => decide (SMap.get e.addr 0 l / 128 = line)
  m.foldl (fun s x =>
    addReq s { core := core, g := gid, op := 3, dst := pkgOf (128 * x.1), stamp := e.stamp, pc := e.pc
               addr := lowVa e (lanesIn x.1), nt := e.nt, lanes := maskOf (lanesIn x.1)
               line := { noLine with
                 line := offOf (128 * x.1) / 128
                 mask := x.2.foldl (fun (k : BitVec 128) b => k ||| BitVec.ofNat 128 (2 ^ b.1)) 0
                 bytes := x.2.map (·.2) } }) s

/-- A store known to fail after it has retired (R201). -/
def lateStore (pc w3 w4 : Word) (lanes : BitVec 32) (code reason : Nat) : FaultInfo :=
  { code := code, pc := pc, w3 := w3, w4 := w4, w5 := lanes, w7 := BitVec.ofNat 64 reason, done := true, store := true }

/-- A place `n` bytes on. -/
def locAdd (l : Loc) (n : Nat) : Loc := match l with | .phys pa d => .phys (pa + n) d | .scratch o => .scratch (o + n)

/-- One lane of a local store: the bytes from `a` on, `n` of them. -/
def storePart (s : State) (g : Group) (e : SaqEntry) (ds : List SdqEntry) (a n l : Nat) : State :=
  match saqLoc s g e l with
  | none => s
  | some loc => thrWrite s g.core (slotOf s g.ctx) (locAdd loc a) (((natToBytes e.size (laneData ds l)).drop a).take n)

/-- One lane of a local store: all of it, or the high half of a b128 whose low half is written (R214). -/
def storeLocal (s : State) (g : Group) (e : SaqEntry) (ds : List SdqEntry) (l : Nat) : State :=
  if e.half then storePart s g e ds 8 8 l else storePart s g e ds 0 e.size l

/-- The lanes of an entry that act, with their addresses, split by where they go: local, remote, window. -/
def isRemoteLane (e : SaqEntry) (l : Nat) : Bool := e.asp == 0 && isFabric (SMap.get e.addr 0 l)

def isWindowLane (e : SaqEntry) (l : Nat) : Bool := e.asp == 0 && isAlias (SMap.get e.addr 0 l)

/-- Send the lanes of a store that go to one window to Damask, the data or the closes among them (R225, R378). `pair` names
the ST. -/
def sendWindow (s : State) (core pair : Nat) (closing : Bool) (e : SaqEntry) (ds : List SdqEntry) (ls : List Nat) : State :=
  match ls with
  | [] => s
  | l0 :: _ =>
    let w := (winOf (SMap.get e.addr 0 l0)).1
    match SMap.find? s.damask.wins w with
    | none => s
    | some x =>
      let data := ls.filter fun l => decide ((winOf (SMap.get e.addr 0 l)).2 < x.desc.length)
      let items := data.flatMap fun l =>
        (natToBytes e.size (laneData ds l)).zipIdx.map fun b => ((winOf (SMap.get e.addr 0 l)).2 + b.2, b.1)
      let n := ls.length - data.length
      if (if closing then n == 0 else items.isEmpty) then s
      else
        let st : WinStore := { core := core, window := w, plan := x.plan, items := if closing then [] else items
                               closes := if closing then n else 0, pair := pair }
        { s with serial := s.serial + 1, fabric := { s.fabric with stores := SMap.put s.fabric.stores s.serial st } }

/-- Send all window lanes of a store: the data of every window, then the closes (R378). -/
def sendWindows (s : State) (core : Nat) (e : SaqEntry) (ds : List SdqEntry) (ls : List Nat) : State :=
  let win (l : Nat) : Nat := (winOf (SMap.get e.addr 0 l)).1
  let ws := distinct (ls.map win)
  let part (closing : Bool) (t : State) : State :=
    ws.foldl (fun t w => sendWindow t core s.serial closing e ds (ls.filter fun l => win l == w)) t
  part true (part false s)

/-- Why a local lane of a store or atomic cannot leave its die or port. -/
def laneReason (s : State) (g : Group) (e : SaqEntry) (l : Nat) : Option Nat :=
  if e.asp = 0 ∧ ¬ isWindowLane e l then fabricReason s g.core g.ctx (SMap.get e.addr 0 l) else none

/-- Perform a store whose pairs are complete (R296). -/
def performStore (s : State) (gid : Nat) (g : Group) (e : SaqEntry) (ds : List SdqEntry) (on : List Nat) : State :=
  let ok := on.filter fun l => (laneReason s g e l).isNone
  let failed := on.filter fun l => (laneReason s g e l).isSome
  let s1 := (ok.filter fun l => !isRemoteLane e l && !isWindowLane e l).foldl (fun s l => storeLocal s g e ds l) s
  let away := ok.filter (isRemoteLane e)
  let rem := away.foldl (fun m l => gatherBytes m (SMap.get e.addr 0 l) (natToBytes e.size (laneData ds l))) []
  let s2 := storeReqs s1 gid g.core e away rem
  let s3 := sendWindows s2 g.core e ds (ok.filter (isWindowLane e))
  match failed with
  | [] => s3
  | l :: _ =>
    let w3 := SMap.get e.va 0 l
    raiseAsync s3 gid (lateStore e.pc w3 w3 (maskOf failed) 0x0F ((laneReason s g e l).getD 7)) none

/-- The operand and compare values of a lane of an ATOM from its SDQ entries (R298). -/
def atomArgs (e : SaqEntry) (ds : List SdqEntry) (l : Nat) : Nat × Nat :=
  let h := e.size / 4
  if e.aop = 9 then (laneData (ds.drop h) l, laneData (ds.take h) l) else (laneData ds l, 0)

/-- The words an atomic returns to its LQ entries. -/
def atomWords (w old : Nat) : List (BitVec 32) :=
  if w = 8 then [BitVec.ofNat 32 old, BitVec.ofNat 32 (old / 2 ^ 32)] else [BitVec.ofNat 32 old]

/-- One lane of a local atomic. -/
def atomLocal (s : State) (gid : Nat) (g : Group) (e : SaqEntry) (ds : List SdqEntry) (l : Nat) : State :=
  match saqLoc s g e l with
  | none => s
  | some loc =>
    let a := atomArgs e ds l
    let r := atomAt s g.core (slotOf s g.ctx) loc e.sc e.aop e.size a.1 a.2
    if e.rv then fillLane r.1 gid e.resv l (atomWords e.size r.2) false else r.1

/-- The atomic line request of some lanes in one remote line (R196, R197). -/
def atomReq (gid : Nat) (g : Group) (e : SaqEntry) (ds : List SdqEntry) (line : Nat) (ls : List Nat) : RReq :=
  { core := g.core, g := gid, op := 4, dst := pkgOf (128 * line), stamp := e.stamp, pc := e.pc, resv := e.resv,
    addr := lowVa e ls, lanes := maskOf ls, issue := e.mask,
    line := { noLine with
      line := offOf (128 * line) / 128, aop := BitVec.ofNat 4 e.aop, at64 := e.at64, rv := e.rv
      scope := BitVec.ofNat 3 e.sc
      lanes := ls.map fun l =>
        ⟨l, SMap.get e.addr 0 l % 128, BitVec.ofNat 64 (atomArgs e ds l).1, BitVec.ofNat 64 (atomArgs e ds l).2⟩ } }

/-- Why a lane of an atomic cannot be performed at its place. -/
def atomBad (s : State) (g : Group) (e : SaqEntry) (l : Nat) : Option (Nat × Nat) :=
  if e.asp = 0 then placeBad s g (SMap.get e.addr 0 l) else none

/-- The lanes of an ATOM that fail with one code: a fetching one holds its slot with their line requests, another fails as a
store does (R38, R201, R202). -/
def atomFail (s : State) (gid : Nat) (g : Group) (e : SaqEntry) (ds : List SdqEntry) (code why : Nat) (ls : List Nat) : State :=
  match ls with
  | [] => s
  | l :: _ =>
    let w3 := SMap.get e.va 0 l
    if e.rv then
      let lost := distinct (ls.map fun l => SMap.get e.addr 0 l / 128)
      let inLine (line : Nat) := ls.filter fun l => decide (SMap.get e.addr 0 l / 128 = line)
      let s1 := lost.foldl (fun s line => addReq s { atomReq gid g e ds line (inLine line) with held := true }) s
      raiseAsync (holdEntries s1 gid e.resv (entryLq e)) gid
        { code := code, pc := e.pc, w3 := w3, w4 := w3, w5 := maskOf ls, w7 := BitVec.ofNat 64 why, inslot := true,
          slot := some e.resv }
        (some { kind := .remote ((List.range lost.length).map fun i => s.serial + i), issue := e.mask, first := e.resv,
                entries := entryLq e, done := true })
    else raiseAsync s gid (lateStore e.pc w3 w3 (maskOf ls) code why) none

/-- Perform an ATOM whose pairs are complete (R298, R202). -/
def performAtom (s : State) (gid : Nat) (g : Group) (e : SaqEntry) (ds : List SdqEntry) (on : List Nat) : State :=
  let ok := on.filter fun l => (atomBad s g e l).isNone
  let s0 := modEntries s gid e.resv (fun _ x => zeroLanes (e.mask &&& ~~~(maskOf on)) x) (entryLq e)
  let s1 := (ok.filter fun l => !isRemoteLane e l).foldl (fun s l => atomLocal s gid g e ds l) s0
  let rem := ok.filter (isRemoteLane e)
  let lines := distinct (rem.map fun l => SMap.get e.addr 0 l / 128)
  let inLine (line : Nat) := rem.filter fun l => decide (SMap.get e.addr 0 l / 128 = line)
  let s2 := lines.foldl (fun s line => addReq s (atomReq gid g e ds line (inLine line))) s1
  [(0x0F, 5), (0x0F, 6), (0x0F, 7), (0x0E, 0)].foldl (fun t c =>
    atomFail t gid g e ds c.1 c.2 (on.filter fun l => decide (atomBad s g e l = some c))) s2

/-- An earlier access of the group to bytes that the store writes is still to be performed (R216): a barrier update sent
before it, or a load in flight. -/
def heldByOwn (s : State) (gid : Nat) (g : Group) (e : SaqEntry) : Bool :=
  (lanesOf e.mask).any fun l =>
    match saqLoc s g e l with
    | some x => ((ownUpdates s gid).any fun u => locsOverlap u.home 32 x e.size) || loadsBefore g e.stamp x e.size
    | none => false

/-- A local lane of the entry waits for its link (R186). -/
def linkHolds (s : State) (g : Group) (e : SaqEntry) : Bool :=
  e.asp == 0 && (lanesOf e.mask).any fun l =>
    !isWindowLane e l && !isRemoteLane e l && linkWaits s (coreDie g.core) (SMap.get e.addr 0 l)

/-- Bytes of a Damask message's data. -/
def msgBytes (m : DMsg) : Nat := m.items.length * (if m.form = .fp32 then 4 else 1)

/-- Bytes of the operands that `n` lanes of a remote atomic carry: a CAS carries two (R197). -/
def atomData (aop n : Nat) : Nat := (if aop = 9 then 16 else 8) * n

/-- Bytes that remote stores, non-fetching atomics, window stores and messages on their way hold in the retransmit store
(R204). -/
def retransmit (s : State) : Nat :=
  (s.fabric.reqs.map fun e =>
      if e.2.op = 3 then e.2.line.bytes.length
      else if e.2.op = 4 ∧ e.2.line.rv = false then atomData e.2.line.aop.toNat e.2.line.lanes.length else 0).foldl (· + ·) 0
    + (s.fabric.stores.map fun e => e.2.items.length).foldl (· + ·) 0
    + (s.fabric.outMsgs.map fun e => msgBytes e.2.msg).foldl (· + ·) 0

/-- Bytes that the lanes of a pair would place in the retransmit store (R204). -/
def pairData (e : SaqEntry) : Nat :=
  let n := ((lanesOf e.mask).filter fun l => isRemoteLane e l || isWindowLane e l).length
  if e.kind = .atomic then (if e.rv then 0 else atomData e.aop n) else e.size * n

/-- A pair with remote or window lanes waits while the retransmit store has no room for its data (R204), or the coalescer's
input is full (R196). -/
def pairWaits (s : State) (core : Nat) (e : SaqEntry) : Bool :=
  ((lanesOf e.mask).any fun l => isRemoteLane e l || isWindowLane e l)
    && (decide (2 ^ 26 < retransmit s + pairData e) || inputFull s core)

/-- An instruction's pairs can be sent: complete (R28), behind the group's earlier accesses and fences (R216, R218), and with
room where they go. -/
def pairReady (s : State) (gid : Nat) (g : Group) (e : SaqEntry) : Bool :=
  decide (e.count ≤ g.sdq.length) && accessOk g e.stamp true && !heldByOwn s gid g e && !pairWaits s g.core e && !linkHolds s g e

/-- The low halves of a b128 store's local lanes are written before the high ones (R214). -/
def halfPair (s : State) (gid : Nat) (g : Group) : State :=
  match g.saq with
  | [] => s
  | e :: rest =>
    if e.kind = .store ∧ e.size = 16 ∧ e.half = false ∧ pairReady s gid g e then
      let ds := g.sdq.take e.count
      let on := lanesOf (e.mask &&& ((ds.head?.map (·.mask)).getD 0))
      let s1 := setGrp s gid { g with saq := { e with half := true } :: rest }
      (on.filter fun l => !isRemoteLane e l && (laneReason s g e l).isNone).foldl (fun s l => storePart s g e ds 0 8 l) s1
    else s

/-- A group's oldest store reaches memory by its low halves (R214). -/
def halfStore (s : State) (gid : Nat) : State :=
  let s0 := settleFences s gid
  match grp? s0 gid with
  | none => s0
  | some g => halfPair s0 gid g

/-- Send the oldest instruction of the SAQ once all its pairs are complete (R28). -/
def sendPair (s : State) (gid : Nat) (g : Group) : State :=
  match g.saq with
  | [] => s
  | e :: _ =>
    if !pairReady s gid g e then s
    else
      let ds := g.sdq.take e.count
      let on := lanesOf (e.mask &&& ((ds.head?.map (·.mask)).getD 0))
      let s1 := setGrp s gid { g with saq := g.saq.drop e.count, sdq := g.sdq.drop e.count }
      match e.kind with
      | .atomic => performAtom s1 gid g e ds on
      | _ => performStore s1 gid g e ds on

/-- STORE_PAIR_SEND (R28): a group's oldest complete store or atomic reaches memory. -/
def execStorePairSend (gid : Nat) (s : State) : Res :=
  let s0 := settleFences s gid
  match grp? s0 gid with
  | none => .next s0
  | some g => .next (settleFences (sendPair s0 gid g) gid)

/-- What the send of an STS comes to: it waits, it has left, or it faults. -/
inductive Sending where
  | waits
  | left
  | fails (f : FaultInfo)
  deriving DecidableEq, Repr

/-- Check an STS and let it leave the core with its data by value, in its place among the group's accesses (R215, R297). -/
def sendSts (s : State) (gid : Nat) (g : Group) (e : SaqEntry) (v : Word) : State × Sending :=
  let c := entryChecks s g e
  match reportBad g (badLanes c.2), goodLanes c.2 with
  | some f, _ => (c.1, .fails f)
  | none, [] => (c.1, .left)
  | none, (i, l) :: _ =>
    let x : SaqEntry := { e with stamp := g.seq, addr := [(i, saqAddr 0 e.va i l)]
                                 direct := match l with | .phys _ true => 1 | _ => 0 }
    if !(((grp? c.1 gid).map fun y => accessOk y y.seq true).getD false) || overlapsSaq c.1 g g.seq l 8
        || loadsBefore g g.seq l 8 || pairWaits c.1 g.core x || linkHolds c.1 g x then (c.1, .waits)
    else
      let ds : List SdqEntry := [{ data := [(0, BitVec.ofNat 32 v.toNat)], mask := 1 },
        { data := [(0, BitVec.ofNat 32 (v.toNat / 2 ^ 32))], mask := 1 }]
      (performStore (modGrp c.1 gid fun y => { y with seq := y.seq + 1 }) gid g x ds [0], .left)

/-- STS (R297): waits for the group's earlier pairs, then leaves with its data by value. -/
def execSts (d a : BitVec 6) (imm : BitVec 14) (s : State) : Res :=
  issueA (.sts d a imm) s fun gid g s =>
    let addr := rs g a + sx imm
    let e : SaqEntry := { va := [(0, addr)], mask := 1, size := 8, pc := g.pc }
    if !g.saq.isEmpty || scalarHeld s gid g addr 8 .write then s
    else
      match sendSts (settleFences s gid) gid g e (rs g d) with
      | (s1, .waits) => s1
      | (s1, .left) => modGrp s1 gid advance
      | (s1, .fails f) => entryFail (stepOver s1 gid) gid e (entryHeld e (some (rs g d))) f

/-! ### Prefetch (R301) -/

/-- One lane of a prefetch: a line that a load of it could read is brought into the die's L2, and into L1 unless nt asks for
L2 only. -/
def prefLane (s : State) (g : Group) (nt : Bool) (addr : Word) : State :=
  match translate s g.core g.ctx addr.toNat .read with
  | (s1, .error _) => s1
  | (s1, .ok t) =>
    if (placeFault s1 g.ctx t.pa).isSome || isAlias t.pa || isFabric t.pa || (placeBad s1 g t.pa).isSome
        || linkWaits s1 (coreDie g.core) t.pa then s1
    else if (locksAt s1 g.core (.phys t.pa t.direct)).any fun e => e.2.dst || isMigr e.2 then s1
    else if !cached t.pa t.direct then s1
    else if nt then copyLine s1 (coreDie g.core) (slotOf s1 g.ctx) (t.pa / 128)
    else (fillLine s1 g.core (slotOf s1 g.ctx) (t.pa / 128)).1

/-- PREF (R301): never faults, and drops the lanes it cannot serve. -/
def execPref (ty : BitVec 4) (asp : BitVec 2) (nt : Bool) (aa : BitVec 5) (sb : BitVec 6) (off : BitVec 8) (s : State) : Res :=
  issueA (.pref ty asp nt aa sb off) s fun gid g s =>
    if aa ≠ 31 ∧ fillPending s gid aa.toNat then s
    else
      let disp := sx off * BitVec.ofNat 64 (tySize ty.toNat)
      let s1 := if asp = 0 then
          (lanesOf g.em).foldl (fun s l => prefLane s g nt (eaAM g aa sb disp l)) s
        else s
      modGrp s1 gid advance

end Sys2Proof.Machine
end

