-- ==== Sys2Proof/Machine/Matrix.lean ====
section
/-! DEFINITION. Matrix instructions and batches (R246 to R248, R334 to R344) and the events that complete them. -/

namespace Sys2Proof.Machine

open Sys2Proof

/-! ### Tiles (R334, R337) -/

/-- The place of a group's tile in its core. -/
def tileAt (s : State) (g : Group) (n : Nat) : Nat := ((team? s g.kern g.team).map (·.tbase)).getD 0 + n

/-- The key of a tile element. -/
def accKey (t row col : Nat) : Nat := 4096 * t + 64 * row + col

/-- An accumulator element. -/
def accGet (s : State) (core t row col : Nat) : BitVec 32 := SMap.get (coreOf s core).tiles 0 (accKey t row col)

/-- Write some accumulator elements: row, column, value. -/
def accPut (s : State) (core t : Nat) (xs : List (Nat × Nat × BitVec 32)) : State :=
  modCore s core fun k => { k with tiles := xs.foldl (fun m x => SMap.set m 0 (accKey t x.1 x.2.1) x.2.2) k.tiles }

/-- The rows of some lanes. -/
def laneRows (m : BitVec 32) : List Nat := (lanesOf m).flatMap fun i => [2 * i, 2 * i + 1]

/-! ### The multiply (R246 to R248) -/

/-- Bits of an element of an MMA format. -/
def mmaBits (fmt : Nat) : Nat :=
  match fmt with
  | 0 => 16
  | 1 => 16
  | 7 => 6
  | 8 => 6
  | 9 => 4
  | _ => 8

/-- Elements of a row and of a k-group, by class (R246, R336). -/
def mmaK (cls : Nat) : Nat := match cls with | 1 => 16 | 5 => 64 | _ => 32
def mmaG (cls : Nat) : Nat := match cls with | 1 => 8 | 5 => 32 | _ => 16

/-- The packed-record code of a scaled format (R137). -/
def mmaMx (fmt : Nat) : Nat :=
  match fmt with
  | 5 => 1
  | 6 => 2
  | 7 => 3
  | 8 => 4
  | 9 => 5
  | _ => 7

/-- Element `t` of a captured row or column of a lane: registers from `reg` on, row `r` of the lane. -/
def capElem (cap : SMap (BitVec 32)) (reg fmt lane r t : Nat) : Nat :=
  let w := mmaWords fmt
  let row := (List.range w).foldl (fun v j => v + (SMap.get cap 0 (32 * (reg + r * w + j) + lane)).toNat * 2 ^ (32 * j)) 0
  row / 2 ^ (mmaBits fmt * t) % 2 ^ mmaBits fmt

/-- The scale byte of a row's or column's block (R337). -/
def capScale (cap : SMap (BitVec 32)) (reg lane r j : Nat) : Nat :=
  (SMap.get cap 0 (32 * reg + lane)).toNat / 2 ^ (8 * (2 * r + j)) % 256

/-- The value of an operand element, with its block's scale for MX formats. -/
def mmaValue (fmt e sc : Nat) : FVal :=
  match fmt with
  | 0 => fmtBf16.val e
  | 1 => fmtF16.val e
  | 2 => fmtE4M3.val e
  | 3 => fmtE5M2.val e
  | _ => decodeMX sc e (mmaMx fmt)

/-- Exact sum of the products of a k-group. -/
def dotSum : List (FVal × FVal) → FVal
  | [] => .num false 0 0
  | [x] => FVal.mul x.1 x.2
  | x :: xs => FVal.add .rne (FVal.mul x.1 x.2) (dotSum xs)

/-- NAN and INF of a value that an accumulator element becomes (R247). -/
def elemStatus (v : Nat) : BitVec 12 :=
  match f32val v with
  | .nan => stNan
  | .inf _ => stInf
  | .num _ _ _ => 0

/-- One accumulator element of a floating-point multiply, one rounding for each k-group, and the status of the values that it
became. -/
def mmaElem (cap : SMap (BitVec 32)) (fa fb row col acc : Nat) : Nat × BitVec 12 :=
  let cls := mmaClass fa
  let a (t : Nat) : FVal := mmaValue fa (capElem cap 0 fa (row / 2) (row % 2) t) (capScale cap 128 (row / 2) (row % 2) (t / 32))
  let b (t : Nat) : FVal := mmaValue fb (capElem cap 64 fb (col / 2) (col % 2) t) (capScale cap 129 (col / 2) (col % 2) (t / 32))
  (List.range (mmaK cls / mmaG cls)).foldl (fun v n =>
    let s := dotSum ((List.range (mmaG cls)).map fun j => (a (mmaG cls * n + j), b (mmaG cls * n + j)))
    let x := fmtF32.enc .rne false (FVal.add .rne (f32val v.1) s)
    (x, v.2 ||| elemStatus x)) (acc, 0)

/-- One accumulator element of an INT8 multiply (R248). -/
def mmaInt (cap : SMap (BitVec 32)) (row col acc : Nat) : Nat :=
  let sum := (List.range 32).foldl (fun (v : Int) t =>
    v + int8 (capElem cap 0 4 (row / 2) (row % 2) t) * int8 (capElem cap 64 4 (col / 2) (col % 2) t)) 0
  (((acc : Int) + sum) % (2 ^ 32 : Nat)).toNat

/-- The elements a multiply writes, each with its status. -/
def mmaElems (s : State) (core t : Nat) (o : MOp) (fa fb : Nat) : List ((Nat × Nat × BitVec 32) × BitVec 12) :=
  (laneRows o.lanes).flatMap fun r => (List.range 64).map fun c =>
    let acc := (accGet s core t r c).toNat
    let x := if mmaClass fa = 3 then (mmaInt o.cap r c acc, 0) else mmaElem o.cap fa fb r c acc
    ((r, c, BitVec.ofNat 32 x.1), x.2)

/-! ### Issue -/

/-- Captured registers: `n` of them from `base` on, kept from number `at_` on; absent lanes read 0 (R338). -/
def capture (g : Group) (m : SMap (BitVec 32)) (at_ base n : Nat) : SMap (BitVec 32) :=
  (List.range n).foldl (fun m r => (lanesOf (sourceLanes g)).foldl
    (fun m l => SMap.set m 0 (32 * (at_ + r) + l) (vReg g (base + r) l)) m) m

/-- A group has room for another matrix operation (R335), and matrix issue is not withheld (R414). -/
def opRoom (s : State) (g : Group) : Bool :=
  decide (g.mops.length < 64) && !s.imqua.throttled && !(dieSt s (coreDie g.core)).throttled

/-- Issue a matrix operation: it is open until the next MBF (R340). -/
def pushOp (e : CEnv) (gid : Nat) (g : Group) (s : State) (kind : MKind) (tile : Nat) (lanes : BitVec 32)
    (cap : SMap (BitVec 32)) : State :=
  let n := newSerial s
  let o : MOp := { id := n.1, kind := kind, tile := tile, lanes := lanes, cap := cap, stamp := g.seq, oecc := eccHit g.corRegs g e.i e }
  modGrp n.2 gid fun x => cAdvance e { x with mops := x.mops ++ [o], seq := x.seq + 1 }

/-- MMA (R336 to R338). -/
def execMma (f : CFields) (s : State) : Res :=
  issueCS (.mma f) s fun e gid g s =>
    if !opRoom s g then s
    else
      let fa := (e.f.imm.extractLsb' 0 4).toNat
      let fb := (e.f.imm.extractLsb' 4 4).toNat
      let c1 := capture g [] 0 e.f.a.toNat (2 * mmaWords fa)
      let c2 := capture g c1 64 e.f.b.toNat (2 * mmaWords fb)
      let c3 := if 4 ≤ mmaClass fa then capture g c2 128 e.f.c.toNat 2 else c2
      pushOp e gid g s (.mma fa fb) e.f.d.toNat e.wide c3

/-- MZERO (R339). -/
def execMzero (f : CFields) (s : State) : Res :=
  issueCS (.mzero f) s fun e gid g s => if opRoom s g then pushOp e gid g s .mzero e.f.d.toNat e.wide [] else s

/-- The column block of a tile move (R339). -/
def moveBlock (f : CFields) : Nat := (f.imm.extractLsb' 0 3).toNat

/-- MLOAD (R339). -/
def execMload (f : CFields) (s : State) : Res :=
  issueCS (.mload f) s fun e gid g s =>
    if opRoom s g then
      pushOp e gid g s (.mload (moveBlock e.f)) e.f.d.toNat e.wide (capture g [] 0 e.f.a.toNat 16)
    else s

/-- MSTORE (R339). -/
def execMstore (f : CFields) (s : State) : Res :=
  issueCS (.mstore f) s fun e gid g s =>
    if opRoom s g then pushOp e gid g s (.mstore (moveBlock e.f) e.f.d.toNat) e.f.a.toNat e.wide [] else s

/-! ### Drains (R342 to R344) -/

/-- A group as its C-stream's accesses see it: the refused pages are its own. -/
def cView (g : Group) : Group := { g with refused := g.refusedC }

/-- A C-side fault of a failing access. -/
def cBad (g : Group) (b : Bad) (kind : Nat) : FaultInfo := { cFault g b.code 0 b.w3 b.w4 (BitVec.ofNat 64 b.w7) with kind := kind }

/-- The alignment of a drain format (R342). -/
def drainAlign (fmt : Nat) : Nat := match fmt with | 0 => 4 | 7 => 4 | 1 => 2 | 2 => 2 | _ => 1

/-- Check a drain's destination page by page (R343): where each page lies, or the first failing check. -/
def drainPages (s : State) (g : Group) (dest : Word) : List (Nat × Nat) → State × Except Bad (SMap Nat)
  | [] => (s, .ok [])
  | (o, k) :: rest =>
    let a := dest + BitVec.ofNat 64 o
    match checkAccess s g 0 a k 1 .write with
    | (s1, .error b) => (s1, .error { b with w4 := dest })
    | (s1, .ok (.phys pa _)) =>
      if isAlias pa || isFabric pa then (s1, .error ⟨0x03, a, dest, 5⟩)
      else
        match drainPages s1 g dest rest with
        | (s2, .ok m) => (s2, .ok (SMap.put m (a.toNat / 4096) (pa / 4096 * 4096)))
        | r => r
    | (s1, .ok (.scratch _)) => (s1, .error ⟨0x03, a, dest, 5⟩)

/-- The destination of a drain: alignment, then its places (R343). In space 2 the place of the whole range. -/
def drainDest (s : State) (g : Group) (asp : Nat) (dest : Word) (fmt : Nat) : State × Except Bad (Nat × SMap Nat) :=
  let n := 64 * drainRow fmt
  if dest.toNat % drainAlign fmt ≠ 0 then (s, .error ⟨0x05, dest, dest, drainAlign fmt⟩)
  else if asp = 2 then
    match checkAccess s g 2 dest n 1 .write with
    | (s1, .ok (.phys pa _)) => (s1, .ok (pa, []))
    | (s1, .ok (.scratch _)) => (s1, .error ⟨0x03, dest, dest, 7⟩)
    | (s1, .error b) => (s1, .error b)
  else
    match drainPages s g dest (cutAll [dest.toNat] n) with
    | (s1, .ok m) => (s1, .ok (dest.toNat, m))
    | (s1, .error b) => (s1, .error b)

/-- The rows of a drain as a set. -/
def rowSet (m : BitVec 32) : BitVec 64 := (laneRows m).foldl (fun v r => v ||| BitVec.ofNat 64 (2 ^ r)) 0

/-- The portions of a drain: each row, cut at 4 KiB of its destination. -/
def drainTodo (dst rb : Nat) (rows : List Nat) : List (Nat × Nat) :=
  rows.flatMap fun r => (cutAll [dst + r * rb] rb).map fun x => (r * rb + x.1, x.2)

/-- Take a token of the context (R348). -/
def takeToken (s : State) (cn : Nat) : State := modCtx s cn fun c => { c with token := c.token + 1 }

/-- Register a drain's destination and issue it; a full table leaves it to be tried again. -/
def enterDrain (e : CEnv) (gid : Nat) (g : Group) (s : State) (l : Loc) (asp fmt dst : Nat) (pages : SMap Nat) : State :=
  let die := coreDie g.core
  let n := newSerial s
  let r := cmdRanges n.2 die g.ctx [⟨asp, dst, 64 * drainRow fmt, true⟩]
  match lockAll r.1 g.core (.engine n.1) r.2.1 with
  | none => s
  | some s1 =>
    let s2 := takeToken s1 g.ctx
    let c : EngCmd :=
      { kind := .mdrain dst fmt (rowSet e.lset) pages, for_ := .group gid g.handle, ctx := g.ctx, die := die, core := g.core,
        token := (ctxOf s2 g.ctx).token, dsp := asp, barrier := some l, todo := drainTodo dst (drainRow fmt) (laneRows e.lset)
        ready := false, stamp := g.seq, kern := g.kern }
    pushOp e gid g { s2 with engines := SMap.put s2.engines n.1 c } (.mdrain n.1) e.f.a.toNat e.lset []

/-- MDRAIN to memory (R342, R343). -/
def execMdrain (f : CFields) (s : State) : Res :=
  issueCS (.mdrain f) s fun e gid g s =>
    if !opRoom s g then s
    else
      let fmt := (e.f.imm.extractLsb' 0 4).toNat
      let asp := (e.f.imm.extractLsb' 4 2).toNat
      let bsp := (e.f.imm.extractLsb' 6 2).toNat
      if e.lset = 0 then setGrp (takeToken s g.ctx) gid (cAdvance e g)
      else
        match checkBarrier s (cView g) bsp (kReg g e.f.c.toNat) with
        | (s1, .error b) => takeFault s1 gid { cBad g b 3 with asp := bsp }
        | (s1, .ok l) =>
          match drainDest s1 (cView g) asp (kReg g e.f.b.toNat) fmt with
          | (s2, .error b) => takeFault s2 gid { cBad g b 2 with asp := asp }
          | (s2, .ok (dst, pages)) => enterDrain e gid g s2 l asp fmt dst pages

/-- Check a window drain's elements in ascending order (R344, R377): where each page lies. -/
def windowPages (s : State) (g : Group) (dest : Word) (size : Nat) : List Nat → State × Except Bad (SMap Nat)
  | [] => (s, .ok [])
  | o :: rest =>
    let a := dest + BitVec.ofNat 64 o
    match checkAccess s g 0 a size size .write with
    | (s1, .error b) => (s1, .error { b with w4 := dest })
    | (s1, .ok (.phys pa _)) =>
      if !isAlias pa then (s1, .error ⟨0x03, a, dest, 5⟩)
      else
        match windowReason s1 g.ctx pa size with
        | some r => (s1, .error ⟨0x10, a, dest, r⟩)
        | none =>
          match windowPages s1 g dest size rest with
          | (s2, .ok m) => (s2, .ok (SMap.put m (a.toNat / 4096) (pa / 4096 * 4096)))
          | r => r
    | (s1, .ok (.scratch _)) => (s1, .error ⟨0x03, a, dest, 5⟩)

/-- Bytes of an element a window drain writes (R379). -/
def drainSize (d : WinDesc) : Nat := if d.store = 2 then 2 else 4

/-- The window a drain's destination names, or the reason it names none. -/
def drainWindow (s : State) (g : Group) (dest : Word) : State × Except Bad WinDesc :=
  match checkAccess s g 0 dest 1 1 .write with
  | (s1, .error b) => (s1, .error b)
  | (s1, .ok (.phys pa _)) =>
    if !isAlias pa then (s1, .error ⟨0x03, dest, dest, 5⟩)
    else
      match SMap.find? s1.damask.wins (winOf pa).1 with
      | some w => (s1, .ok w.desc)
      | none => (s1, .error ⟨0x10, dest, dest, 1⟩)
  | (s1, .ok (.scratch _)) => (s1, .error ⟨0x03, dest, dest, 5⟩)

/-- The byte offsets of a window drain's elements. -/
def drainOffsets (rows : List Nat) (size : Nat) : List Nat := rows.flatMap fun r => (List.range 64).map fun c => (64 * r + c) * size

/-- MDRAIN to a window (R344). -/
def execMdrainWindow (f : CFields) (s : State) : Res :=
  issueCS (.mdrainWindow f) s fun e gid g s =>
    let dest := kReg g e.f.b.toNat
    if !opRoom s g then s
    else if e.f.imm.extractLsb' 4 2 ≠ 0 then takeFault s gid (cBad g ⟨0x03, dest, dest, 5⟩ 2)
    else
      match drainWindow s (cView g) dest with
      | (s1, .error b) => takeFault s1 gid (cBad g b 2)
      | (s1, .ok d) =>
        match windowPages s1 (cView g) dest (drainSize d) (drainOffsets (laneRows e.lset) (drainSize d)) with
        | (s2, .error b) => takeFault s2 gid (cBad g b 2)
        | (s2, .ok m) => pushOp e gid g s2 (.mdrainWindow dest m) e.f.a.toNat e.lset []

/-! ### Batches (R340, R341) -/

/-- Merge the status of a member into a batch's (R99). -/
def joinStatus (a : Status) (b : BitVec 12) : Status :=
  { a with bits := a.bits ||| b, failures := a.failures + (if b &&& failMask = 0 then 0 else 1) }

/-- Close the open operations into the next batch (R340). -/
def closeBatch (g : Group) : Group :=
  let n := g.batchN
  let ids := (g.mops.filter fun o => o.batch = none).map (·.id)
  let b : Batch := { n := n, ord := g.closed, open_ := ids, status := g.openStat, bound := g.mbind }
  { g with
    batchN := (n + 1) % 65536
    closed := g.closed + 1
    mops := g.mops.map (fun o => if o.batch = none then { o with batch := some n } else o)
    openDone := 0
    openStat := {}
    batches := if ids.isEmpty && g.mbind.isNone then g.batches else g.batches ++ [b] }

/-- MBF (R340). -/
def execMbf (f : CFields) (s : State) : Res :=
  issueC (.mbf f) s fun e g => putUniform e (closeBatch g) (BitVec.ofNat 64 g.batchN)

/-- MBW (R340): waits by interlock while the batch has a member to come. -/
def execMbw (f : CFields) (s : State) : Res :=
  issueCS (.mbw f) s fun e gid g s =>
    if busy g ((e.av 0).toNat % 65536) then s else setGrp s gid (cAdvance e g)
where
  /-- The batch named is among the 32,768 closed last, and not complete. -/
  busy (g : Group) (n : Nat) : Bool := g.batches.any fun b => b.n == n && decide (g.closed ≤ b.ord + 32768) && !b.open_.isEmpty

/-- MBIND (R341). -/
def execMbind (f : CFields) (s : State) : Res :=
  issueCS (.mbind f) s fun e gid g s =>
    let addr := kReg g e.f.a.toNat
    let asp := (e.f.imm.extractLsb' 0 2).toNat
    if addr = 0 then setGrp s gid (cAdvance e { g with mbind := none })
    else
      match checkBarrier s (cView g) asp addr with
      | (s1, .error b) => takeFault s1 gid (cBad g b 3)
      | (s1, .ok _) => modGrp s1 gid fun x => cAdvance e { x with mbind := some (addr, asp) }

/-! ### Completion -/

/-- An operation is the first of those outstanding on its tile, whichever group issued it (R334). -/
def opFirst (s : State) (g : Group) (o : MOp) : Bool :=
  !((teamGroups s g.kern g.team).any fun e => e.2.mops.any fun x => decide (x.tile = o.tile) && decide (x.id < o.id))

/-- A MSTORE writes its registers. -/
def storeTile (s : State) (gid : Nat) (g : Group) (t cb base : Nat) (lanes : BitVec 32) : State :=
  let mend (l : List (RegRef × BitVec 32)) := (List.range 16).foldl (fun l j => mendLanes l (.v (base + j)) lanes) l
  setGrp s gid ((lanesOf lanes).foldl (fun x i => (List.range 16).foldl (fun x j =>
    wv x (base + j) i (accGet s g.core t (2 * i + j / 8) (8 * cb + j % 8))) x)
      { g with badRegs := mend g.badRegs, corRegs := mend g.corRegs })

/-- The tile that a drain reads is captured, and the drain may begin. -/
def captureDrain (s : State) (core t id : Nat) (corrected : Bool) : State :=
  { s with engines := SMap.modify s.engines id fun c =>
      match c.kind with
      | .mdrain _ _ rows _ =>
        { c with
          ready := true
          oecc := corrected
          cap := ((List.range 64).filter fun r => rows.getLsbD r).foldl (fun m r =>
            (List.range 64).foldl (fun m j => SMap.set m 0 (64 * r + j) (accGet s core t r j)) m) [] }
      | _ => c }

/-- A window drain's elements leave as window stores in ascending order (R344, R379): one for each row's run in one
window. -/
def sendDrain (s : State) (g : Group) (t : Nat) (o : MOp) (dest : Word) (pages : SMap Nat) : State :=
  (laneRows o.lanes).foldl (fun s r =>
    let pa (a : Word) : Nat := SMap.get pages 0 (a.toNat / 4096) + a.toNat % 4096
    match SMap.find? s.damask.wins (winOf (pa dest)).1 with
    | none => s
    | some w =>
      let size := drainSize w.desc
      (List.range 64).foldl (fun s c =>
        let at_ := winOf (pa (dest + BitVec.ofNat 64 ((64 * r + c) * size)))
        let v := (accGet s g.core t r c).toNat
        let bs := if size = 2 then natToBytes 2 (fmtBf16.enc .rne false (f32val v)) else natToBytes 4 v
        match SMap.find? s.damask.wins at_.1 with
        | none => s
        | some x =>
          let st : WinStore :=
            { core := g.core, window := at_.1, plan := x.plan, items := bs.zipIdx.map fun b => (at_.2 + b.2, b.1) }
          { s with serial := s.serial + 1, fabric := { s.fabric with stores := SMap.put s.fabric.stores s.serial st } }) s) s

/-- Errors of a tile met by an operation that reads it: corrected, or not (R338). -/
def tileErrors (s : State) (g : Group) (t : Nat) (k : MKind) : BitVec 12 :=
  match k, SMap.find? (coreOf s g.core).tileErr t with
  | .mzero, _ => 0
  | .mload _, _ => 0
  | _, some true => stAcor
  | _, some false => stAunc
  | _, none => 0

/-- Perform an operation: the state, and its status. -/
def performOp (s : State) (gid : Nat) (g : Group) (o : MOp) : State × BitVec 12 :=
  let t := tileAt s g o.tile
  let err := tileErrors s g t o.kind
  match o.kind with
  | .mma fa fb =>
    let xs := mmaElems s g.core t o fa fb
    (accPut s g.core t (xs.map (·.1)), xs.foldl (fun m x => m ||| x.2) 0 ||| err ||| (if o.oecc then stOecc else 0))
  | .mzero => (accPut s g.core t ((laneRows o.lanes).flatMap fun r => (List.range 64).map fun c => (r, c, 0)), 0)
  | .mload cb =>
    (accPut s g.core t ((lanesOf o.lanes).flatMap fun i => (List.range 16).map fun j =>
      (2 * i + j / 8, 8 * cb + j % 8, SMap.get o.cap 0 (32 * j + i))), if o.oecc then stOecc else 0)
  | .mstore cb base => (storeTile s gid g t cb base o.lanes, err)
  | .mdrain id => (captureDrain s g.core t id (err == stAcor), err)
  | .mdrainWindow dest pages => (sendDrain s g t o dest pages, err)

/-- An operation that has completed leaves its group's list, and its status joins its batch or the open ones. -/
def finishOp (g : Group) (o : MOp) (st : BitVec 12) : Group :=
  let g1 := { g with mops := g.mops.filter fun x => x.id ≠ o.id }
  match o.batch with
  | none => { g1 with openDone := g.openDone + 1, openStat := joinStatus g.openStat st }
  | some _ =>
    { g1 with batches := g.batches.map fun b =>
        if b.open_.contains o.id then { b with open_ := b.open_.filter (fun i => i ≠ o.id), status := joinStatus b.status st }
        else b }

/-- MATRIX_OP_COMPLETE (R335): operation `n` of a group is performed, once those before it on its tile have been. -/
def execMatrixOpComplete (gid n : Nat) (s : State) : Res :=
  match grp? s gid with
  | none => .next s
  | some g =>
    match g.mops.find? fun o => o.id = n with
    | none => .next s
    | some o =>
      let win := match o.kind with | .mdrainWindow _ _ => true | _ => false
      if !opFirst s g o || (win && !accessOk g o.stamp true) then .next s
      else
        let r := performOp s gid g o
        let s1 := modGrp r.1 gid fun x => finishOp x o r.2
        let s2 := if r.2 &&& (stAunc ||| stAcor) = 0 then s1
          else modCore s1 g.core fun k => { k with tileErr := SMap.erase k.tileErr (tileAt s g o.tile) }
        let s3 := captureSpills s2 gid
        if r.2 &&& stAunc = 0 ∨ g.stop.isSome then .next s3
        else .next (stopTeam s3 g.kern g.team 4 (BitVec.ofNat 32 g.handle))

/-- Where a bound batch's arrival goes: the address as it stood at MBIND, checked again without locks; else the fault code
(R341). -/
def boundHome (s : State) (g : Group) (addr : Word) (asp : Nat) : State × Except Nat Loc :=
  if addr.toNat % 32 ≠ 0 then (s, .error 0x05)
  else
    match asp with
    | 1 => (s, match scratchLoc s g addr.toNat 32 with | some l => .ok l | none => .error 0x03)
    | 2 => (s, match bankLoc s g addr.toNat 32 with | some l => .ok l | none => .error 0x03)
    | _ =>
      match translate s g.core g.ctx addr.toNat .atomic with
      | (s1, .error e) => (s1, .error e.1)
      | (s1, .ok t) =>
        if (placeFault s1 g.ctx t.pa).isSome || !(isHbm t.pa || isBank t.pa) then (s1, .error 0x03)
        else (s1, .ok (.phys t.pa t.direct))

/-- BATCH_COMPLETE (R341): a batch whose members are all complete makes the arrival it is bound to. -/
def execBatchComplete (gid n : Nat) (s : State) : Res :=
  match grp? s gid with
  | none => .next s
  | some g =>
    match g.batches.find? fun b => b.n = n with
    | none => .next s
    | some b =>
      if !b.open_.isEmpty then .next s
      else
        let s1 := setGrp s gid { g with batches := g.batches.filter fun x => x.n ≠ n }
        match b.bound with
        | none => .next s1
        | some (addr, asp) =>
          match boundHome s1 g addr asp with
          | (s2, .error code) => .next (logEvent s2 g.ctx 8 code g.kern addr.toNat)
          | (s2, .ok l) =>
            .next (sendUpd s2 { home := l, core := g.core, slot := slotOf s2 g.ctx, from_ := none
                                op := .arrive 1 { b.status with member := g.handle % 65536 } })

end Sys2Proof.Machine
end

