-- ==== Sys2Proof/Machine/Handler.lean ====
section
/-! DEFINITION. The handler instructions: leaving handler state, page requests, emulation, parking and calls to the host
(R152 to R154, R364 to R370), and the answers that reach a group (R146, R368, R369). -/

namespace Sys2Proof.Machine

open Sys2Proof

/-! ### The fault record -/

/-- Word `n` of a group's fault record (R357). -/
def faultWord (g : Group) (n : Nat) : Word := SMap.get g.frec 0 n

def faultCode (g : Group) : Nat := (faultWord g 0).toNat % 256
def faultCside (g : Group) : Bool := (faultWord g 0).getLsbD 8
def faultDone (g : Group) : Bool := (faultWord g 0).getLsbD 11

/-- The lanes of word 5. -/
def faultLanes (g : Group) : BitVec 32 := (faultWord g 5).truncate 32

/-- The page of word 3. -/
def faultPage (g : Group) : Nat := (faultWord g 3).toNat / 4096

/-- RDFI (R365). -/
def execRdfi (d a : BitVec 6) (s : State) : Res :=
  issueReg (.rdfi d a) s fun g => advance (ws g d (faultWord g ((rs g a).toNat % 8)))

/-! ### FRET (R370) -/

/-- Leave handler state: the group's own A-stream is where it stood, its last-SP index as it was. -/
def leaveHandler (g : Group) : Group :=
  { advance g with st := .active, pc := g.retPc, hLastSp := none, hFollow := false, held := none, faultLocks := [], preq := none }

/-- The lanes of word 5 are served without an access: FEMU, FSKIP or FRET.skip. -/
def served (h : Held) (skip : Bool) : Bool := skip || h.skip || !h.emu.isEmpty

/-- Give the lanes of word 5 their FEMU value, or zero with poison. -/
def fillServed (s : State) (gid : Nat) (h : Held) (lanes : BitVec 32) : State :=
  modEntries s gid h.first (fun j e =>
    { e with
      arrived := e.arrived ||| lanes
      data := (lanesOf lanes).foldl (fun d l => SMap.set d 0 l (SMap.get h.emu 0 (32 * j + l))) e.data
      poisoned := e.poisoned ||| maskOf ((lanesOf lanes).filter fun l => (SMap.find? h.emu (32 * j + l)).isNone) }) h.entries

/-- The load or store that faulted before it retired now retires (R65, R363). -/
def retireHeld (g : Group) : Group := retire g g.pc

/-- A hold buffer that still has no storage raises QOVF again (R89). -/
def stillFull (s : State) (gid : Nat) : Bool :=
  match grp? s gid with
  | some g => !g.hold.isEmpty
  | none => false

/-- Take the fault of a reissued load again. -/
def again (s : State) (gid : Nat) (h : Held) (f : FaultInfo) : State :=
  takeFault (modGrp (holdEntries s gid h.first h.entries) gid fun x => { x with held := some h }) gid
    { f with inslot := h.done, done := false }

/-- Reissue the lanes of a held load (R38, R199). -/
def reissue (s : State) (gid : Nat) (h : Held) (r : LoadReq) (lanes : BitVec 32) : State :=
  match grp? s gid with
  | none => s
  | some g =>
    match tryLoad s gid g r lanes with
    | (s1, some f) => again s1 gid { h with kind := .load { r with lanes := lanes }, emu := [], skip := false } f
    | (s1, none) => if h.done then s1 else modGrp s1 gid retireHeld

/-- FRET with a held load. -/
def fretLoad (s : State) (gid : Nat) (g : Group) (h : Held) (r : LoadReq) (skip : Bool) : State :=
  let s1 := settleHold (setGrp s gid (leaveHandler g)) gid true
  if served h skip then
    let lanes := r.lanes &&& ~~~(faultLanes g)
    let s2 := freeEntries (fillServed s1 gid h (faultLanes g)) gid h.first h.entries
    if lanes = 0 then (if h.done then s2 else modGrp s2 gid retireHeld) else reissue s2 gid h r lanes
  else if faultCode g = 0x0C ∧ stillFull s1 gid then
    again s1 gid h { code := 0x0C, pc := faultWord g 1, w5 := faultLanes g, w7 := qovfW7 s1 g, slot := some h.first }
  else reissue (freeEntries s1 gid h.first h.entries) gid h r r.lanes

/-- Perform again one lane of a held atomic request to a local line. -/
def redoLane (s : State) (gid : Nat) (g : Group) (r : RReq) (x : LaneReq) : State :=
  let w := if r.line.at64 then 8 else 4
  let pa := r.addr.toNat / 128 * 128 + x.offset
  let a := atomAt s g.core (slotOf s g.ctx) (.phys pa false) r.line.scope.toNat r.line.aop.toNat w x.operand.toNat x.compare.toNat
  fillLane a.1 gid r.resv x.lane (atomWords w a.2) false

/-- Reissue a held atomic request (R38): one to another package goes back to the coalescer, one that could not be performed in
this package is performed, or faults again. -/
def redoRequest (s : State) (gid n : Nat) : State :=
  match grp? s gid, SMap.find? s.fabric.reqs n with
  | some g, some r =>
    if isFabric r.addr.toNat then
      { s with fabric := { s.fabric with reqs := SMap.put s.fabric.reqs n { r with
          held := false, sent := false, retryAt := none, refusedAt := none, tries := 0, opened := s.now } } }
    else
      match placeBad s g r.addr.toNat with
      | none =>
        let s1 := { s with fabric := { s.fabric with reqs := SMap.erase s.fabric.reqs n } }
        r.line.lanes.foldl (fun s x => redoLane s gid g r x) s1
      | some (code, why) =>
        let k := if r.line.at64 then 2 else 1
        raiseAsync (holdEntries s gid r.resv k) gid
          { code := code, pc := r.pc, w3 := r.addr, w4 := r.addr, w5 := r.lanes, w7 := BitVec.ofNat 64 why, inslot := true
            slot := some r.resv }
          (some { kind := .remote [n], issue := r.issue, first := r.resv, entries := k, done := true })
  | _, _ => s

/-- FRET with atomic line requests that failed on return. -/
def fretRemote (s : State) (gid : Nat) (g : Group) (h : Held) (ids : List Nat) (skip : Bool) : State :=
  let s1 := setGrp s gid (leaveHandler g)
  if served h skip then
    let s2 := fillServed s1 gid h (faultLanes g)
    freeEntries { s2 with fabric := { s2.fabric with reqs := s2.fabric.reqs.filter fun e => !ids.contains e.1 } }
      gid h.first h.entries
  else ids.foldl (fun s n => redoRequest s gid n) (freeEntries s1 gid h.first h.entries)

/-- Reissue a held store or atomic for the lanes of its mask (R298, R370): the lanes are checked again, and the SAQ entries
pushed, or the lanes that fail take a new fault. -/
def reissueEntry (s : State) (gid : Nat) (h : Held) (e : SaqEntry) : State :=
  match grp? s gid with
  | none => s
  | some g =>
    let c := entryChecks s g e
    match reportBad g (badLanes c.2) with
    | some f => entryFail c.1 gid e { h with kind := (entryHeld e none).kind, emu := [], skip := false } f
    | none => modGrp (pushEntries c.1 gid e (goodLanes c.2)) gid retireHeld

/-- FRET with a fetching atomic that faulted at issue: the lanes of word 5 that were served keep their values, and the others
are issued again. Its SAQ entries are pushed in every case, and so consume their SDQ data. -/
def fretAtomic (s : State) (gid : Nat) (g : Group) (h : Held) (e : SaqEntry) (skip : Bool) : State :=
  let s1 := settleHold (setGrp s gid (leaveHandler g)) gid true
  if saqFull g e then s
  else if served h skip then
    reissueEntry (fillServed s1 gid h (faultLanes g)) gid h { e with mask := e.mask &&& ~~~(faultLanes g) }
  else if faultCode g = 0x0C ∧ stillFull s1 gid then
    entryFail s1 gid e h { code := 0x0C, w5 := faultLanes g, w7 := qovfW7 s1 g }
  else reissueEntry s1 gid h e

/-- The lanes of a held store that are still to be performed: those of word 5 go after FSKIP and under .skip. -/
def keptLanes (g : Group) (h : Held) (e : SaqEntry) (skip : Bool) : SaqEntry :=
  if skip || h.skip then { e with mask := e.mask &&& ~~~(faultLanes g) } else e

/-- FRET with a store or a non-fetching atomic: it is issued again without the lanes dropped. FRET waits while the SAQ has no
room for it. -/
def fretStore (s : State) (gid : Nat) (g : Group) (h : Held) (e : SaqEntry) (skip : Bool) : State :=
  if saqFull g e then s else reissueEntry (setGrp s gid (leaveHandler g)) gid h (keptLanes g h e skip)

/-- FRET with an STS: it leaves with its data again, unless it was dropped. FRET waits where the STS would. -/
def fretSts (s : State) (gid : Nat) (g : Group) (h : Held) (e : SaqEntry) (v : Word) (skip : Bool) : State :=
  let x := keptLanes g h e skip
  match sendSts (settleFences (setGrp s gid (leaveHandler g)) gid) gid g x v with
  | (_, .waits) => s
  | (s1, .left) => modGrp s1 gid retireHeld
  | (s1, .fails f) => entryFail s1 gid x { h with kind := .store x (some v), skip := false } f

/-- The C-stream resumes behind the instruction it faulted at (R370). -/
def skipC (s : State) (gid : Nat) (g : Group) : State :=
  match g.cpos, kern? s g.kern with
  | some p, some k =>
    let beyond := decide (k.hdr.clen < 12 * p.idx + 12) || decide (p.start + 1023 ≤ p.idx)
    match fetchC s g k p with
    | (s1, .ok i) =>
      if isEnd i || beyond then finishBlock s1 gid
      else modGrp s1 gid fun x =>
        { agePend x (Nat.max (cFields i).stall.toNat 1) with cpos := some { p with idx := p.idx + 1 } }
    | (s1, .error _) =>
      if beyond then finishBlock s1 gid
      else modGrp s1 gid fun x => { agePend x 1 with cpos := some { p with idx := p.idx + 1 } }
  | _, _ => s

/-- FRET with nothing held. SPDIST starts the count anew that it came from, a stub's own included (R114). -/
def fretPlain (s : State) (gid : Nat) (g : Group) (skip : Bool) : State :=
  let g1 := leaveHandler g
  let past : Group := if skip then { g1 with pc := g.retPc + 4 } else g1
  if faultDone g then setGrp s gid g1
  else if faultCside g then
    let s1 := setGrp s gid g1
    if skip then skipC s1 gid g1 else s1
  else if faultCode g = 0x0B then setGrp s gid { past with spcnt := 0, stub := past.stub.map fun x => (x.1, 0) }
  else setGrp s gid past

/-- FRET and FRET.skip. -/
def fret (i : Instr) (skip : Bool) (s : State) : Res :=
  issueA i s fun gid g s =>
    match g.held with
    | none => fretPlain s gid g skip
    | some h =>
      match h.kind with
      | .load r => fretLoad s gid g h r skip
      | .remote ids => fretRemote s gid g h ids skip
      | .atomic e => fretAtomic s gid g h e skip
      | .store e none => fretStore s gid g h e skip
      | .store e (some v) => fretSts s gid g h e v skip

/-- FRET (R370). -/
def execFret (s : State) : Res := fret .fret false s

/-- FRET.skip (R370). -/
def execFretSkip (s : State) : Res := fret .fretSkip true s

/-! ### FMAP, HCALL (R153, R154, R366, R369) -/

/-- The open request of a PENDING-MAP page, on whichever die it was posted (R146). -/
def pendingMap (s : State) (cn page : Nat) : Option Nat :=
  s.dies.findSome? fun e =>
    (List.find? (fun (x : Nat × PageReq) => x.2.kind != 8 && x.2.ctx == cn && x.2.page.toNat / 4096 == page) e.2.preqs).map (·.1)

/-- The page-request table of a die is full. -/
def preqFull (d : Die) : Bool := decide (1024 ≤ d.preqs.length)

/-- A request record (R154, R369). -/
def requestRecord (n : Nat) (r : PageReq) : List Byte :=
  natToBytes 8 r.page.toNat ++ natToBytes 2 r.ctx ++ natToBytes 1 r.kind ++ natToBytes 5 0 ++ natToBytes 8 n
    ++ natToBytes 8 r.arg.toNat

/-- The record of a request reaches the upstream host's page-request ring, where the context has one (R154). -/
def forwardRecord (s : State) (n : Nat) (r : PageReq) : State :=
  let c := ctxOf s r.ctx
  if c.prCount = 0 then s
  else
    modCtx (ctxWrite s r.ctx (c.prRing + 32 * (c.prNext % c.prCount)) (requestRecord n r)) r.ctx fun c =>
      { c with prNext := c.prNext + 1 }

/-- Open a page-request entry under a fresh request number. -/
def openPreq (s : State) (die : Nat) (r : PageReq) : State :=
  let n := newSerial s
  forwardRecord (modDie n.2 die fun d => { d with preqs := SMap.put d.preqs n.1 r }) n.1 r

/-- FMAP. -/
def execFmap (d : BitVec 6) (s : State) : Res :=
  issueA (.fmap d) s fun gid g s =>
    let die := coreDie g.core
    let fin (s : State) (v : Nat) (req : Option Nat) (full : Bool) : State :=
      modGrp s gid fun x => advance (ws { x with preq := req, fmapFull := full } d (BitVec.ofNat 64 v))
    if faultCode g ≠ 0x02 then fin s 3 g.preq g.fmapFull
    else
      match pendingMap s g.ctx (faultPage g) with
      | some n => fin s 1 (some n) false
      | none =>
        if preqFull (dieSt s die) then fin s 2 none true
        else
          fin (openPreq s die { ctx := g.ctx, page := BitVec.ofNat 64 (4096 * faultPage g), kind := g.fkind, group := gid }) 0
            (some s.serial) false

/-- HCALL. -/
def execHcall (d a b : BitVec 6) (s : State) : Res :=
  issueA (.hcall d a b) s fun gid g s =>
    let die := coreDie g.core
    if preqFull (dieSt s die) then modGrp s gid fun x => advance (ws { x with hcst := 3, hcall := none } d 2)
    else
      modGrp (openPreq s die { ctx := g.ctx, page := rs g b, kind := 8, group := gid, arg := rs g a }) gid fun x =>
        advance (ws { x with hcst := 2, hcall := some s.serial } d 0)

/-- A page-request entry with its die. -/
def findPreq (s : State) (n : Nat) : Option (Nat × PageReq) :=
  s.dies.findSome? fun e => (SMap.find? e.2.preqs n).map fun r => (e.1, r)

/-- Close a page-request entry. -/
def closePreq (s : State) (die n : Nat) : State := modDie s die fun d => { d with preqs := SMap.erase d.preqs n }

/-- A group that waits for a page request hears that it was refused. -/
def refusePage (req page : Nat) (g : Group) : Group :=
  if g.preq = some req ∧ (g.st = .handler ∨ g.st = .parked ∨ g.st = .stopped ∨ g.st = .saved) then
    if faultCside g then { g with refusedC := page :: g.refusedC } else { g with refused := page :: g.refused }
  else g

/-- PAGE_REQUEST_RESPONSE (R146, R154). -/
def execPageRequestResponse (req : Nat) (refused : Bool) (s : State) : Res :=
  match findPreq s req with
  | none => .next s
  | some (die, r) =>
    if r.kind = 8 then .next s
    else
      let s1 := closePreq s die req
      .next (if refused then { s1 with groups := s1.groups.map fun e => (e.1, refusePage req (r.page.toNat / 4096) e.2) }
        else s1)

/-- HCALL_RESPONSE (R369): the answer to a group's last HCALL becomes its status. -/
def execHcallResponse (req : Nat) (refused : Bool) (s : State) : Res :=
  match findPreq s req with
  | none => .next s
  | some (die, r) =>
    if r.kind ≠ 8 then .next s
    else .next (modGrp (closePreq s die req) r.group fun g =>
      if g.hcall = some req then { g with hcst := if refused then 1 else 0, hcall := none } else g)

/-! ### FEMU, FSKIP (R367) -/

/-- Record an emulated value, where it names a lane of word 5 and an entry of the held slot. -/
def emulate (g : Group) (v pos : Word) : Group :=
  let l := pos.toNat % 32
  let j := pos.toNat / 32 % 4
  match g.held with
  | none => g
  | some h =>
    if j < h.entries ∧ (faultLanes g).getLsbD l then
      { g with held := some { h with emu := SMap.put h.emu (32 * j + l) (v.truncate 32) } }
    else g

/-- FEMU. -/
def execFemu (a b : BitVec 6) (s : State) : Res :=
  issueReg (.femu a b) s fun g => advance (emulate g (rs g a) (rs g b))

/-- FSKIP. -/
def execFskip (s : State) : Res :=
  issueReg .fskip s fun g => advance { g with held := g.held.map fun h => { h with skip := true } }

/-! ### FPARK (R368) -/

/-- Every lock that is registered anywhere. -/
def allLocks (s : State) : List Nat :=
  (s.dies.flatMap fun e => e.2.locks.map (·.2.id)) ++ s.cores.flatMap fun e => e.2.locks.map (·.2.id)

/-- The wake condition of a code. -/
def parkMet (s : State) (g : Group) (code arg : Word) : Bool :=
  let d := dieSt s (coreDie g.core)
  match code.toNat with
  | 1 => if g.fmapFull then !preqFull d else !(g.preq.any fun n => (findPreq s n).isSome)
  | 2 => !(g.faultLocks.any fun n => (allLocks s).contains n)
  | 3 => decide (0 < freeRecs s g.ctx)
  | 4 => g.hold.isEmpty || decide (g.chunkMark < (ctxOf s g.ctx).freed) || chunkFree s g || (decide (g.lq.length < 64) && decide (ringCount s g = 0))
  | 5 => decide (arg.toNat ≤ ftime s)
  | 6 => g.hcst != 2
  | _ => true

/-- FPARK: a blocking point of the handler. -/
def execFpark (a b : BitVec 6) (s : State) : Res :=
  issueA (.fpark a b) s fun gid g s =>
    if g.woken || parkMet s g (rs g a) (rs g b) then setGrp s gid (advance g)
    else setGrp s gid { g with
      st := .parked, out := true, obuf := [], wake := some (.fpark (rs g a) (rs g b)), woken := false, blockedAt := s.now }

/-- PARKED_WAKE (R52, R368). -/
def execParkedWake (gid : Nat) (s : State) : Res :=
  match grp? s gid with
  | none => .next s
  | some g =>
    match g.st, g.wake with
    | .parked, some (.fpark code arg) =>
      if parkMet s g code arg then .next (setGrp s gid { g with st := .handler, woken := true, setSince := s.now }) else .next s
    | _, _ => .next s

end Sys2Proof.Machine
end

