-- ==== Sys2Proof/Machine/Queue.lean ====
section
/-! DEFINITION. Work queues (R74 to R85): acceptance, spilling, heads, selection and handover, copies made for launch
records (R415), and the instructions ENQ and DEQ (R352, R353). -/

namespace Sys2Proof.Machine

open Sys2Proof

/-! ### Launch records (R77, R78) -/

/-- A field of a launch record. -/
def recField (bs : List Byte) (at_ n : Nat) : Nat := bytesToNat ((bs.drop at_).take n)

/-- A record is malformed (R76). -/
def badRecord (bs : List Byte) : Bool :=
  let kind := recField bs 0 2
  kind < 1 || 4 < kind || recField bs 2 2 / 16 != 0 || recField bs 48 16 != 0 || (kind == 3 && recField bs 24 8 == 0)

/-- The priority a record takes from itself or its queue (R78, R82). -/
def basePrio (q : Queue) (bs : List Byte) : Nat :=
  let f := recField bs 2 2
  if f.testBit 1 then bits f 2 2 else q.prio

/-! ### Residency (R80 to R83) -/

/-- Code of a queue's state (R81, R84). -/
def queueState (q : Queue) : Nat :=
  if !q.en then 4
  else if q.res.length = 16 ∧ q.spilled = q.quota then 3
  else if q.spilled ≠ 0 then 2
  else if q.res.isEmpty then 0
  else 1

/-- Bring a queue's head up to date: the moment it became eligible, and the rise of its priority, one for each complete
millisecond since, to 3 (R82, R83). -/
def ageHead (now : Nat) (q : Queue) : Queue :=
  match q.res with
  | [] => q
  | r :: rest =>
    let e : Option Nat := match r.eligible with
      | some t => some t
      | none => if 17 * r.notBefore ≤ now then some (17 * r.notBefore) else none
    let rise := match e with
      | some t => Nat.min 3 ((now - t) / 17000000)
      | none => 0
    { q with res := { r with eligible := e, rise := rise } :: rest }

/-- A record becomes its queue's head now: at once eligible when its time is 0 or reached. -/
def newHead (now : Nat) (q : Queue) : Queue :=
  match q.res with
  | [] => q
  | r :: rest => { q with res := { r with eligible := if 17 * r.notBefore ≤ now then some now else none } :: rest }

/-- Address of place `i` of a queue's spill ring. -/
def ringPlace (q : Queue) (i : Nat) : Nat := q.qbase + 64 * ((q.ringHead + i) % q.quota)

/-- Accept a record at the tail (R80, R83); the spill ring is accessed under key slot 0 (R160). -/
def pushRecord (s : State) (n : Nat) (bs : List Byte) : State :=
  let q := queueOf s n
  let nb := recField bs 32 8
  let late : Bool := decide (nb ≠ 0) && decide (nb < ftime s)
  if q.res.length < 16 ∧ q.spilled = 0 then
    modQueue s n fun q =>
      let q1 := { q with res := q.res ++ [{ bytes := bs, notBefore := nb, late := late }] }
      if q.res.isEmpty then newHead s.now q1 else q1
  else
    let s1 := homeWrite s 0 (ringPlace q q.spilled) bs
    modQueue s1 n fun q => { q with spilled := q.spilled + 1, lateMarks := q.lateMarks ++ [late] }

/-- Refuse an enqueue: count it and set its flag (R76). -/
def refuseRecord (s : State) (n : Nat) (f : Queue → Queue) : State :=
  modQueue s n fun q => f { q with refused := (q.refused + 1) % 2 ^ 24 }

/-- An enqueue taken by the switch die (R76): the state, and the status that ENQ answers. -/
def acceptRecord (s : State) (n : Nat) (bs : List Byte) : State × Nat :=
  let q := queueOf s n
  if !q.en then (refuseRecord s n fun q => { q with refd := true }, 2)
  else if queueState q = 3 then (refuseRecord s n fun q => { q with refq := true }, 1)
  else if badRecord bs then (refuseRecord s n fun q => { q with malf := true }, 3)
  else (pushRecord s n bs, 0)

/-- Muslin moves the head of the spill ring into a free resident place (R80). -/
def refill (s : State) (n : Nat) : State :=
  let q := queueOf s n
  if q.res.length < 16 ∧ q.spilled ≠ 0 then
    let bs := memBytes s 0 (ringPlace q 0) 64
    modQueue s n fun q =>
      let r : Resident := { bytes := bs, notBefore := recField bs 32 8, late := q.lateMarks.headD false }
      { q with
        res := q.res ++ [r]
        spilled := q.spilled - 1
        ringHead := (q.ringHead + 1) % q.quota
        lateMarks := q.lateMarks.tail }
  else s

/-- Remove a queue's head; the next record becomes the head. -/
def dropHead (s : State) (n : Nat) : State :=
  let s1 := refill (modQueue s n fun q => { q with res := q.res.tail }) n
  modQueue s1 n (newHead s1.now)

/-- The head of an enabled queue, when it is eligible (R82). -/
def readyHead (s : State) (n : Nat) : Option Resident :=
  let q := ageHead s.now (queueOf s n)
  if q.en then q.res.head?.filter fun r => r.eligible.isSome else none

/-! ### Copies for launch records and graph nodes (R415) -/

/-- A copy whose source shares a line with its own destination has RANGE at every portion (log 16): every page of the source
is marked. -/
def sharedPages (src len : Nat) (m : SMap Nat) : SMap Nat :=
  (cutAll [src] len).foldl (fun m e => SMap.put m (2 * ((src + e.1) % 2 ^ 64 / 4096)) 0x06) m

/-- Try to register a copy's ranges, translating afresh; it takes its token when they are. -/
def registerCopy (s : State) (n : Nat) : State :=
  match SMap.find? s.engines n with
  | none => s
  | some c =>
    match c.registered, c.kind with
    | false, .cpy src dst len =>
      let r := cmdRanges s c.die c.ctx [⟨0, src, len, false⟩, ⟨0, dst, len, true⟩]
      match tryRegister r.1 c.core (.engine n) r.2.1 with
      | none => r.1
      | some s1 =>
        let tok := (ctxOf s1 c.ctx).token + 1
        let bad := if (ownShare r.2.1).isSome then sharedPages src len r.2.2 else r.2.2
        modCtx { s1 with engines := SMap.put s1.engines n { c with
          registered := true, noTrans := bad, token := tok, todo := portions c.kind } } c.ctx fun x => { x with token := tok }
    | _, _ => s

/-- Begin a copy that the package makes for a context. -/
def startCopy (s : State) (cn : Nat) (src dst len : Nat) (o : Origin) (barrier : Word) : State :=
  let n := newSerial s
  let c : EngCmd := { kind := .cpy src dst len, for_ := .record o barrier, ctx := cn, die := 0, core := 0, token := 0,
                      registered := false }
  registerCopy { n.2 with engines := SMap.put n.2.engines n.1 c } n.1

/-- RANGE_LOCK_REGISTER (R223): a copy that waits translates its pages again and registers. -/
def execRangeLockRegister (n : Nat) (s : State) : Res := .next (registerCopy s n)

/-- COPY_RECORD_COMPLETE (R415): a copy whose portions are all performed makes its record's arrival of 1. -/
def execCopyRecordComplete (n : Nat) (s : State) : Res :=
  match SMap.find? s.engines n with
  | none => .next s
  | some c =>
    match c.for_ with
    | .group _ _ => .next s
    | .record o barrier =>
      if c.registered && c.todo.isEmpty then
        let s1 := unlock { s with engines := SMap.erase s.engines n } (.engine n)
        .next (completeRecord s1 c.ctx o barrier 1
          { bits := (if c.failed then stCpyf else 0) ||| (if c.oecc then stOecc else 0), failures := if c.failed then 1 else 0 })
      else .next s

/-! ### Handover (R79, R82) -/

/-- A context to which records may be handed over (R173). -/
def mayHand (s : State) (cn : Nat) : Bool :=
  match (ctxOf s cn).state with
  | .loaded => true
  | .running => true
  | _ => false

/-- The head that the scheduler would hand over of one queue: its effective priority and the moment it became eligible. -/
def offer (s : State) (n : Nat) : Option (Nat × Nat) :=
  let q := queueOf s n
  if q.pull || !mayHand s q.ctx then none
  else
    match readyHead s n with
    | none => none
    | some r => some (Nat.min 3 (basePrio q r.bytes + r.rise), r.eligible.getD 0)

/-- The choice among queues in ascending number (R82): highest priority, then earliest eligible. -/
def bestQueue (s : State) : List Nat → Option (Nat × Nat × Nat)
  | [] => none
  | n :: rest =>
    let b := bestQueue s rest
    match offer s n, b with
    | none, _ => b
    | some (p, t), none => some (n, p, t)
    | some (p, t), some (m, p', t') => if p' < p ∨ (p' = p ∧ t ≤ t') then some (n, p, t) else some (m, p', t')

/-- Live graph instances at a die (R125). The spec does not say whether a graph handed over and not yet begun is live: here it is
not, and it keeps the die chosen at its handover (log 45). -/
def graphsAt (s : State) (d : Nat) : Nat := (s.graphs.filter fun e => e.2.die = d ∧ e.2.started).length

/-- The die whose Quince takes a graph: the fewest live instances, then the lowest number (R125). -/
def quinceDie (s : State) : Nat :=
  ([1, 2, 3].foldl (fun b d => if graphsAt s d < graphsAt s b then d else b) 0)

/-- A kernel from a launch record (R118): READY at the priority it was handed over with. -/
def launchKernel (s : State) (cn prio : Nat) (o : Origin) (barrier : Word) (st : KState) (bs : List Byte) : State :=
  let n := newSerial s
  let k : Kernel :=
    { ctx := cn, state := st, image := BitVec.ofNat 64 (recField bs 8 8), argv := BitVec.ofNat 64 (recField bs 16 8)
      barrier := barrier, teams := recField bs 4 4, perSpan := recField bs 40 4, scratch := recField bs 44 4
      coop := (recField bs 2 2).testBit 0, prio := prio, handed := s.now, origin := o, waitFrom := s.now }
  { n.2 with kernels := SMap.put n.2.kernels n.1 k }

/-- Hand a record over: its work begins (R77). A copy of length 0, which R76 does not refuse, takes its token, has no portion and
makes its arrival (log 45). -/
def handOver (s : State) (n prio : Nat) (late : Bool) (bs : List Byte) : State :=
  let cn := (queueOf s n).ctx
  let bar := BitVec.ofNat 64 (recField bs 24 8)
  let o : Origin := .record n late
  match recField bs 0 2 with
  | 1 => launchKernel s cn prio o bar .ready bs
  | 2 =>
    let m := newSerial s
    let g : Graph := { ctx := cn, die := quinceDie s, queue := n, late := late, va := BitVec.ofNat 64 (recField bs 8 8)
                       area := BitVec.ofNat 64 (recField bs 16 8), barrier := bar, prio := prio }
    { m.2 with graphs := SMap.put m.2.graphs m.1 g }
  | 3 => completeRecord s cn o bar (recField bs 4 4) {}
  | _ => startCopy s cn (recField bs 8 8) (recField bs 16 8) (recField bs 4 4) o bar

/-- The check of a record's barrier (R79), then the handover or the discard. -/
def handChecked (s : State) (n prio : Nat) (r : Resident) : State :=
  let cn := (queueOf s n).ctx
  let bar := recField r.bytes 24 8
  if bar = 0 then handOver s n prio r.late r.bytes
  else
    match barrierHome s cn (BitVec.ofNat 64 bar) with
    | (s1, .ok _) => handOver s1 n prio r.late r.bytes
    | (s1, .error _) =>
      logEvent (refuseRecord s1 n fun q => { q with badbar := true }) cn 7 (recField r.bytes 0 2) n bar

/-- QUEUE_HANDOVER (R82). -/
def execQueueHandover (s : State) : Res :=
  match bestQueue s (s.queues.map (·.1)) with
  | none => .next s
  | some (n, p, _) =>
    match readyHead s n with
    | none => .next s
    | some r => .next (handChecked (dropHead s n) n p r)

/-- QUEUE_HEAD_ELIGIBLE (R83): a head whose time has been reached. -/
def execQueueHeadEligible (q : Nat) (s : State) : Res := .next (modQueue s q (ageHead s.now))

/-- QUEUE_PRIORITY_AGE (R82): the rise of a head's priority. -/
def execQueuePriorityAge (q : Nat) (s : State) : Res := .next (modQueue s q (ageHead s.now))

/-- ENQUEUE_ARRIVAL (R75, R76): a host's write to an enqueue window. -/
def execEnqueueArrival (_who : Requester) (pa : Nat) (bytes : List (BitVec 8)) (s : State) : Res :=
  if isEnq pa then
    let n := (pa - 0x30000000000) / 64
    if pa % 64 = 0 ∧ bytes.length = 64 then .next (acceptRecord s n bytes).1
    else .next (modQueue s n fun q => { q with badwr := true })
  else .next s

/-! ### ENQ and DEQ (R352, R353) -/

/-- What ENQ, GSTART and GSIG share: they first act as FENCE.rel.p, then act once and write their answer. The switch die
answers them: from a die that is cut off they raise FABRIC with reason 6 (R190). -/
def releaseThen (s : State) (gid : Nat) (d : BitVec 6) (act : State → Group → State × Nat) : State :=
  let s0 := settleFences s gid
  match grp? s0 gid with
  | none => s0
  | some g =>
    let f : FenceRec := { acq := false, rel := true, scope := 3, stamp := g.seq }
    if cutOff s0 (coreDie g.core) then takeFault s0 gid (faultAt g 0x0F 6)
    else if fenceReady s0 gid g f && accessOk g g.seq true then
      let r := act (fenceAct s0 g.core f) g
      modGrp r.1 gid fun x => advance (ws x d (BitVec.ofNat 64 r.2))
    else s0

/-- The 64 bytes that s_b to s_b+7 hold. -/
def recordRegs (g : Group) (b : BitVec 6) : List Byte :=
  (List.range 8).flatMap fun i => natToBytes 8 (sReg g (b.toNat + i)).toNat

/-- ENQ (R352): a queue bound to no context is DISABLED and refuses with status 2 (R81). -/
def execEnq (d a b : BitVec 6) (s : State) : Res :=
  issueA (.enq d a b) s fun gid g s =>
    releaseThen s gid d fun s _ =>
      let n := (rs g a).toNat
      let c := (queueOf s n).ctx
      if 1023 < n ∨ (c ≠ 0 ∧ c ≠ g.ctx) then (s, 4) else acceptRecord s n (recordRegs g b)

/-- A queue that DEQ serves for a context (R353). -/
def deqServes (s : State) (cn : Nat) (q : Word) : Bool :=
  decide (q.toNat ≤ 1023) && (queueOf s q.toNat).pull && decide ((queueOf s q.toNat).ctx = cn)

/-- A group waits at a queue ahead of one that blocked at `at_`. -/
def deqAhead (s : State) (q : Word) (gid at_ : Nat) : Bool :=
  s.groups.any fun e =>
    e.2.st == .blocked && !e.2.woken && decide (e.2.wake = some (.deq q)) &&
      (decide (e.2.blockedAt < at_) || (decide (e.2.blockedAt = at_) && decide (e.1 < gid)))

/-- Take the head of a pulled queue for a group (R353). -/
def takeRecord (s : State) (gid : Nat) (n : Nat) (r : Resident) (f : Group → Group) : State :=
  let s1 := dropHead s n
  let s2 := if r.late then modQueue s1 n fun q => { q with lateCnt := (q.lateCnt + 1) % 2 ^ 24 } else s1
  modGrp s2 gid fun g => f { g with deqRec := r.bytes }

/-- Complete a DEQ: the record's words, or zeros, and an acquire at package scope. -/
def finishDeq (d : BitVec 6) (g : Group) : Group :=
  let bs := g.deqRec
  let g1 := (List.range 8).foldl (fun g i => ws g (d + BitVec.ofNat 6 i) (BitVec.ofNat 64 (recField bs (8 * i) 8))) g
  if bs.isEmpty then advance g1 else pushFence (advance g1) true false 3

/-- DEQ (R353): a group that waking has given a record takes that record, after a fault handled in between too. -/
def execDeq (d a : BitVec 6) (s : State) : Res :=
  issueA (.deq d a) s fun gid g s =>
    let q := rs g a
    if g.woken || !g.deqRec.isEmpty then setGrp s gid (finishDeq d g)
    else if cutOff s (coreDie g.core) then takeFault s gid (faultAt g 0x0F 6)
    else if !deqServes s g.ctx q then setGrp s gid (finishDeq d g)
    else
      match readyHead s q.toNat with
      | some r =>
        if s.groups.any (fun e => e.2.st == .blocked && !e.2.woken && decide (e.2.wake = some (.deq q))) then
          blockOn s gid g (.deq q)
        else takeRecord s gid q.toNat r (finishDeq d)
      | none => blockOn s gid g (.deq q)

/-- The wake condition of a DEQ (R353): the queue is enabled and the group's turn has come, or the queue no longer serves
it. Waking removes the head. -/
def wakeDeq (s : State) (gid : Nat) (g : Group) (q : Word) : Option State :=
  if !(queueOf s q.toNat).en then none
  else if !deqServes s g.ctx q then some s
  else if deqAhead s q gid g.blockedAt then none
  else (readyHead s q.toNat).map fun r => takeRecord s gid q.toNat r id

end Sys2Proof.Machine
end

