-- ==== Sys2Proof/Machine/Save.lean ====
section
/-! DEFINITION. Save-pool space, group and team records (R111, R177 to R179, R418), the completion of cuts (R36, R37, R40,
R41, R61), and stop records (R68 to R70). -/

namespace Sys2Proof.Machine

open Sys2Proof

/-! ### The save pool (R175) -/

/-- Bytes in whole units of 4 KiB. -/
def inUnits (n : Nat) : Nat := (n + 4095) / 4096 * 4096

/-- A run of the pool that no record holds. -/
def poolFits (c : Context) (off n : Nat) : Bool :=
  decide (off + n ≤ c.saveLen) && c.used.all fun e => decide (off + n ≤ e.1) || decide (e.1 + e.2 ≤ off)

/-- The lowest place of the pool for a record; the first unit is kept for the image header (R176). -/
def poolPlace (c : Context) (n : Nat) : Option Nat :=
  ((4096 :: c.used.map fun e => e.1 + e.2).filter fun o => poolFits c o n).foldl
    (fun (b : Option Nat) o => some (match b with | some x => Nat.min x o | none => o)) none

/-- Take space for a record of `n` bytes. -/
def poolTake (s : State) (cn n : Nat) : Option (Nat × State) :=
  let c := ctxOf s cn
  (poolPlace c (inUnits n)).map fun o => (o, modCtx s cn fun c => { c with used := (o, inUnits n) :: c.used })

/-- Free bytes of the pool. -/
def poolFree (c : Context) : Nat := c.saveLen - 4096 - (c.used.map (·.2)).foldl (· + ·) 0

/-! ### Sizes (R111, R177, R178) -/

/-- Bits set above bit 0. -/
def liveAbove0 {n : Nat} (m : BitVec n) : List Nat := (liveRegs m).filter fun i => i ≠ 0

/-- The size of a group record by its safe-point entry (R111). -/
def spSize (e : SpEntry) : Nat :=
  128 + 8 * (liveAbove0 e.slive).length + 256 * (liveRegs e.alive).length + 8 * (liveAbove0 e.klive).length
    + 128 * (liveRegs e.vlive).length + 64 * (liveRegs e.xlive).length + 16384 * (liveRegs e.tlive).length
    + 128 * Nat.min e.lqlim 64 + 8 * e.xqlim

/-- The size of a whole-group record (R178). -/
def wholeSize (h : Header) : Nat := 128 + 512 + 256 * h.na + 256 + 128 * h.nv + 256 + 16384 * h.tiles + 32768

/-- The safe-point index at which a group stands. -/
def standSp (g : Group) : Nat :=
  (if g.whole then g.hLastSp else g.lastSp).elim 0 (·.toNat)

/-- The size of a group's record. -/
def recSize (k : Kernel) (g : Group) : Nat := if g.whole then wholeSize k.hdr else spSize (spEntry k (standSp g))

/-- The worst case of a team's record (R175). -/
def teamWorst (s : State) (kn t : Nat) (k : Kernel) : Nat :=
  64 + k.scratch + 32 * k.hdr.bslots + (teamGroups s kn t).length * wholeSize k.hdr

/-! ### The fixed part (R178) -/

/-- Bytes extended with zeros, or cut, to a length. -/
def padTo (n : Nat) (bs : List Byte) : List Byte := bs.take n ++ List.replicate (n - bs.length) 0

/-- The wake code, waddr and wval of a record. -/
def wakeWords (g : Group) : Nat × Nat × Nat :=
  match g.wake with
  | none => (0, 0, 0)
  | some (.bwait _ _ a p) => (1, a.toNat, if p then 1 else 0)
  | some .mwait => (2, (g.mon.map fun m => 128 * m.1).getD 0, 0)
  | some (.deq q) => (3, q.toNat, 0)
  | some .join => (4, 0, 0)
  | some .xpop => (5, 0, 0)
  | some .yield => (6, 0, 0)
  | some .lda => (7, 0, 0)
  | some (.fpark c a) => (8, a.toNat, c.toNat)

/-- The 128-byte fixed part. -/
def fixedPart (s : State) (g : Group) : List Byte :=
  let w := wakeWords g
  padTo 64 (natToBytes 4 g.handle ++ natToBytes 2 (standSp g) ++ natToBytes 1 (if g.whole then 2 else 1) ++ natToBytes 1 0
    ++ natToBytes 4 g.em.toNat ++ natToBytes 4 g.present.toNat ++ natToBytes 4 (ringHead s g) ++ natToBytes 4 (ringTail s g)
    ++ natToBytes 4 (ringCount s g) ++ natToBytes 1 g.lq.length ++ natToBytes 1 g.xq.length ++ natToBytes 2 w.1
    ++ natToBytes 8 w.2.1 ++ natToBytes 8 w.2.2 ++ natToBytes 4 (if g.whole then g.spcnt else 0))
  ++ allLanes.flatMap fun l => natToBytes 2 (SMap.get g.ctr 0 l).toNat

/-! ### Register classes in a record -/

/-- The number of a tile of a team among its core's tiles. -/
def teamTile (s : State) (g : Group) (j : Nat) : Nat := ((team? s g.kern g.team).map (·.tbase)).getD 0 + j

/-- The registers of a record, class by class (R178). -/
def regPart (s : State) (g : Group) (ss as ks vs xs ts : List Nat) : List Byte :=
  ss.flatMap (fun n => natToBytes 8 (sReg g n).toNat)
    ++ as.flatMap (fun n => allLanes.flatMap fun l => natToBytes 8 (aReg g n l).toNat)
    ++ ks.flatMap (fun n => natToBytes 8 (kReg g n).toNat)
    ++ vs.flatMap (fun n => allLanes.flatMap fun l => natToBytes 4 (vReg g n l).toNat)
    ++ xs.flatMap (fun n => allLanes.flatMap fun l => natToBytes 2 (xReg g n l).toNat)
    ++ ts.flatMap (fun j => (List.range 4096).flatMap fun i =>
        natToBytes 4 (SMap.get (coreOf s g.core).tiles 0 (4096 * teamTile s g j + i)).toNat)

/-- Load lanes of one register from bytes. -/
def lanesOfBytes {w : Nat} (m : SMap (BitVec w)) (n sz : Nat) (bs : List Byte) : SMap (BitVec w) :=
  allLanes.foldl (fun m l => SMap.set m 0 (32 * n + l) (BitVec.ofNat w (recField bs (sz * l) sz))) m

/-- Take registers of one class off the front of a payload. -/
def takeRegs (sz : Nat) (put : Group → Nat → List Byte → Group) : List Nat → Group × List Byte → Group × List Byte
  | [], r => r
  | n :: rest, r => takeRegs sz put rest (put r.1 n (r.2.take sz), r.2.drop sz)

/-- Load the registers of a record; what remains of the payload begins with its tiles. -/
def loadRegPart (g : Group) (ss as ks vs xs : List Nat) (bs : List Byte) : Group × List Byte :=
  let r1 := takeRegs 8 (fun g n b => if n = 0 then g else { g with s := SMap.set g.s 0 n (BitVec.ofNat 64 (bytesToNat b)) }) ss (g, bs)
  let r2 := takeRegs 256 (fun g n b => { g with a := lanesOfBytes g.a n 8 b }) as r1
  let r3 := takeRegs 8 (fun g n b => wk g n (BitVec.ofNat 64 (bytesToNat b))) ks r2
  let r4 := takeRegs 128 (fun g n b => { g with v := lanesOfBytes g.v n 4 b }) vs r3
  takeRegs 64 (fun g n b => { g with x := lanesOfBytes g.x n 2 b }) xs r4

/-- Load tiles of a record into the core. -/
def loadTiles (s : State) (g : Group) : List Nat → List Byte → State
  | [], _ => s
  | j :: rest, bs =>
    let t := teamTile s g j
    let s1 := modCore s g.core fun c => { c with tiles := (List.range 4096).foldl (fun m i =>
      SMap.set m 0 (4096 * t + i) (BitVec.ofNat 32 (recField bs (4 * i) 4))) c.tiles }
    loadTiles s1 g rest (bs.drop 16384)

/-! ### Queue entries (R418) -/

/-- A BQ entry. -/
def bqBytes (k : Kernel) (e : BqEntry) : List Byte :=
  padTo 128 (natToBytes 8 (cBase k + BitVec.ofNat 64 (12 * e.block)).toNat ++ natToBytes 1 e.payload.length
    ++ natToBytes 3 0 ++ natToBytes 4 e.snap.toNat ++ padTo 8 (e.payload.map fun p => BitVec.ofNat 8 p.1)
    ++ e.payload.flatMap fun p => natToBytes 8 p.2.toNat)

/-- Staged payloads from their numbers and values. -/
def payloadOf (n : Nat) (num val : Nat → Nat) : List (Nat × Word) :=
  (List.range n).map fun i => (num i, BitVec.ofNat 64 (val i))

def bqOfBytes (k : Kernel) (bs : List Byte) : BqEntry :=
  { block := (BitVec.ofNat 64 (recField bs 0 8) - cBase k).toNat / 12
    payload := payloadOf (recField bs 8 1) (fun i => recField bs (16 + i) 1) fun i => recField bs (24 + 8 * i) 8
    snap := BitVec.ofNat 32 (recField bs 12 4) }

def saqCode : SaqKind → Nat
  | .store => 1
  | .window => 2
  | .atomic => 3

def saqOfCode : Nat → SaqKind
  | 2 => .window
  | 3 => .atomic
  | _ => .store

/-- An SAQ entry. -/
def saqBytes (g : Group) (e : SaqEntry) : List Byte :=
  padTo 320 ((allLanes.flatMap fun l => natToBytes 8 (SMap.get e.addr 0 l)) ++ natToBytes 4 e.mask.toNat
    ++ natToBytes 1 (saqCode e.kind) ++ natToBytes 1 e.size
    ++ natToBytes 1 ((if e.nt then 1 else 0) + (if e.rv then 2 else 0) + 4 * e.asp)
    ++ natToBytes 1 (e.place + 4 * (e.count - 1)) ++ natToBytes 1 e.aop ++ natToBytes 1 e.sc
    ++ natToBytes 1 (if e.at64 then 1 else 0) ++ natToBytes 1 0
    ++ natToBytes 4 (if e.rv then (e.resv + 65536 - g.slotBase % 65536) % 65536 else 0) ++ natToBytes 8 e.pc.toNat)

/-- An SAQ entry from a record; what a record does not hold of it stays as the model kept it (log 17). -/
def saqOfBytes (old : SaqEntry) (bs : List Byte) : SaqEntry :=
  let f := recField bs 262 1
  let p := recField bs 263 1
  { old with
    addr := allLanes.foldl (fun m l => if (recField bs 256 4).testBit l then SMap.put m l (recField bs (8 * l) 8) else m) []
    mask := BitVec.ofNat 32 (recField bs 256 4)
    kind := saqOfCode (recField bs 260 1)
    size := recField bs 261 1
    nt := f.testBit 0
    rv := f.testBit 1
    asp := bits f 2 2
    place := p % 4
    count := bits p 2 2 + 1
    aop := recField bs 264 1
    sc := recField bs 265 1
    at64 := (recField bs 266 1).testBit 0
    pc := BitVec.ofNat 64 (recField bs 272 8) }

def sdqBytes (e : SdqEntry) : List Byte := padTo 160 (lanesToBytes e.data ++ natToBytes 4 e.mask.toNat)

def sdqOfBytes (bs : List Byte) : SdqEntry :=
  { data := lanesFrom fun o => recField bs o 4, mask := BitVec.ofNat 32 (recField bs 128 4) }

/-- An LQ entry with its tag; the poisoned mask is kept in the group table (R178). -/
def lqBytes (e : LqEntry) : List Byte :=
  lanesToBytes e.data ++ natToBytes 4 e.arrived.toNat ++ natToBytes 4 0 ++ natToBytes 8 (lqCode e.st)

def lqOfBytes (poison : BitVec 32) (bs : List Byte) : LqEntry :=
  { data := lanesFrom fun o => recField bs o 4, arrived := BitVec.ofNat 32 (recField bs 128 4), poisoned := poison
    st := lqOfCode (recField bs 136 1) }

/-! ### The queue area of a whole-group record (R178, R179) -/

/-- A last-SP index as records hold it. -/
def spWord (o : Option (BitVec 16)) : Nat := match o with | some i => 65536 + i.toNat | none => 0

def spOfWord (n : Nat) : Option (BitVec 16) := if n.testBit 16 then some (BitVec.ofNat 16 n) else none

/-- A status as records hold it (R94). -/
def statusWord (x : Status) : Nat := x.bits.toNat + x.member % 65536 * 65536 + x.failures * 2 ^ 32

def statusOf (w : Nat) : Status :=
  { bits := BitVec.ofNat 12 w, failures := w / 2 ^ 32, member := bits w 16 16 }

/-- The group control state (R179). -/
def controlBytes (g : Group) : List Byte :=
  let hold (i : Nat) : LqEntry := g.hold.getD i {}
  padTo 40 (natToBytes 8 ((g.mbind.map fun m => m.1.toNat).getD 0) ++ natToBytes 1 ((g.mbind.map (·.2)).getD 0)
      ++ natToBytes 1 0 ++ natToBytes 2 g.batchN ++ natToBytes 4 g.openDone ++ natToBytes 8 (statusWord g.openStat)
      ++ ((List.range 4).flatMap fun i => [BitVec.ofNat 8 (xBounds g i).1, BitVec.ofNat 8 (xBounds g i).2])
      ++ natToBytes 1 g.kput.length)
    ++ padTo 128 (g.kput.flatMap fun p => natToBytes 1 p.1 ++ natToBytes 7 0 ++ natToBytes 8 p.2.toNat)
    ++ natToBytes 8 (spWord g.lastSp) ++ natToBytes 8 g.fvec.toNat ++ natToBytes 8 g.poison.toNat ++ natToBytes 8 g.hcst
    ++ ((List.range 8).flatMap fun i => natToBytes 8 (SMap.get g.frec 0 i).toNat)
    ++ natToBytes 8 g.pc.toNat ++ natToBytes 8 g.retPc.toNat ++ natToBytes 8 (spWord g.hLastSp)
    ++ ((List.range 3).flatMap fun i => lanesToBytes (hold (i + 1)).data)
    ++ (List.range 4).flatMap fun i => natToBytes 4 (hold i).poisoned.toNat

/-- The queue area. -/
def queueArea (k : Kernel) (g : Group) : List Byte :=
  padTo 9216 (g.lq.flatMap lqBytes)
    ++ lanesToBytes (g.hold.getD 0 {}).data
    ++ ((List.range 16).flatMap fun i => natToBytes 8 (SMap.get g.h 0 i).toNat)
    ++ padTo 128 (g.xq.flatMap fun v => natToBytes 8 v.toNat)
    ++ padTo 4096 (g.bq.flatMap (bqBytes k))
    ++ padTo 10240 (g.saq.flatMap (saqBytes g))
    ++ padTo 5120 (g.sdq.flatMap sdqBytes)
    ++ natToBytes 8 (match g.cpos with | some p => (cBase k + BitVec.ofNat 64 (12 * p.idx)).toNat | none => 0)
    ++ natToBytes 4 g.cmask.toNat ++ natToBytes 4 g.snap.toNat
    ++ padTo 3696 (controlBytes g)

/-- The bytes of a group's record (R178). -/
def groupRecord (s : State) (k : Kernel) (g : Group) : List Byte :=
  if g.whole then
    fixedPart s g
      ++ regPart s g (List.range 64) (List.range k.hdr.na) (List.range 32) (List.range k.hdr.nv) (List.range 4)
          (List.range k.hdr.tiles)
      ++ queueArea k g
  else
    let e := spEntry k (standSp g)
    fixedPart s g
      ++ regPart s g (liveAbove0 e.slive) (liveRegs e.alive) (liveAbove0 e.klive) (liveRegs e.vlive) (liveRegs e.xlive)
          (liveRegs e.tlive)
      ++ padTo (128 * Nat.min e.lqlim 64) (g.lq.flatMap fun x => lanesToBytes x.data)
      ++ padTo (8 * e.xqlim) (g.xq.flatMap fun v => natToBytes 8 v.toNat)

/-- The poisoned masks of the hardware LQ entries go to the group table (R178, R180). -/
def savePoison (s : State) (g : Group) : State :=
  ctxWrite s g.ctx (gtAddr s g 256) (padTo 256 (g.lq.flatMap fun e => natToBytes 4 e.poisoned.toNat))

/-- What a saved group keeps outside its record: its identity, its in-flight bookkeeping and its counters. -/
def stripSaved (g : Group) : Group :=
  { g with s := [], a := [], v := [], k := [], x := [], h := [], obuf := [], mon := none, yreq := false, st := .saved }

/-! ### Loading a group record (R37, R40, R65, R363) -/

/-- The group of a live-bitmap record (R37, R114): dead registers zero, the state that such a restore resets at its
reset value, and the A-stream at the stub or behind the SP. Entries that the hold buffer held at the cut have no place in such a
record and are gone (log 46). -/
def loadLive (s : State) (k : Kernel) (g : Group) (bs : List Byte) : State × Group :=
  let sp := recField bs 4 2
  let e := spEntry k sp
  let g0 : Group :=
    { ctx := g.ctx, entry := g.entry, kern := g.kern, team := g.team, handle := g.handle, index := g.index
      spawned := g.spawned, core := g.core, slot := g.slot, recs := g.recs, retired := g.retired, resv := g.resv
      slotBase := g.resv, seq := g.seq, fences := g.fences, afaults := g.afaults
      em := BitVec.ofNat 32 (recField bs 8 4), present := BitVec.ofNat 32 (recField bs 12 4)
      lastSp := some (BitVec.ofNat 16 sp), follow := true, fvec := BitVec.ofNat 32 k.hdr.fvec
      ctr := allLanes.foldl (fun m l => SMap.set m 0 l (BitVec.ofNat 16 (recField bs (64 + 2 * l) 2))) []
      replaced := g.replaced || decide (recField bs 30 2 = 6)
      stub := if e.stub = 0xFFFFFFFF then none else some (sp, 0)
      pc := aBase k + BitVec.ofNat 64 (if e.stub = 0xFFFFFFFF then e.pc + 4 else e.stub) }
  let r := loadRegPart g0 (liveAbove0 e.slive) (liveRegs e.alive) (liveAbove0 e.klive) (liveRegs e.vlive)
    (liveRegs e.xlive) (bs.drop 128)
  let s1 := loadTiles s g (liveRegs e.tlive) r.2
  let q := r.2.drop (16384 * (liveRegs e.tlive).length)
  let lq := (List.range (recField bs 28 1)).map fun i =>
    ({ data := lanesFrom fun o => recField q (128 * i + o) 4, arrived := BitVec.allOnes 32
       poisoned := BitVec.ofNat 32 (gtRead s g (256 + 4 * i) 4), st := .complete } : LqEntry)
  let xs := q.drop (128 * Nat.min e.lqlim 64)
  let xq := (List.range (recField bs 29 1)).map fun i => BitVec.ofNat 64 (recField xs (8 * i) 8)
  (s1, { r.1 with lq := lq, xq := xq })

/-- The entries of a queue area at an offset, as many as the group held. -/
def areaItems {α : Type} (area : List Byte) (at_ sz n : Nat) (f : Nat → List Byte → α) : List α :=
  (List.range n).map fun i => f i ((area.drop (at_ + sz * i)).take sz)

/-- The group of a whole-group record (R40, R179): everything the record holds is back in place. -/
def loadWhole (s : State) (k : Kernel) (g : Group) (bs : List Byte) : State × Group :=
  let r := loadRegPart { g with s := [], a := [], k := [], v := [], x := [] } (List.range 64) (List.range k.hdr.na)
    (List.range 32) (List.range k.hdr.nv) (List.range 4) (bs.drop 128)
  let s1 := loadTiles s g (List.range k.hdr.tiles) r.2
  let q := r.2.drop (16384 * k.hdr.tiles)
  let w (o : Nat) : Word := BitVec.ofNat 64 (recField q o 8)
  let cpc := w 29056
  let hold (i : Nat) (e : LqEntry) : LqEntry :=
    { e with data := lanesFrom (fun o => recField q ((if i = 0 then 9216 else 29360 + 128 * (i - 1)) + o) 4)
             poisoned := BitVec.ofNat 32 (recField q (29744 + 4 * i) 4) }
  let hc := (w 29264).toNat
  (s1, { r.1 with
    em := BitVec.ofNat 32 (recField bs 8 4)
    present := BitVec.ofNat 32 (recField bs 12 4)
    ctr := allLanes.foldl (fun m l => SMap.set m 0 l (BitVec.ofNat 16 (recField bs (64 + 2 * l) 2))) []
    spcnt := recField bs 48 4
    lq := areaItems q 0 144 (recField bs 28 1) fun i b => lqOfBytes (BitVec.ofNat 32 (gtRead s g (256 + 4 * i) 4)) b
    hold := g.hold.zipIdx.map fun e => hold e.2 e.1
    h := (List.range 16).foldl (fun m i => SMap.set m 0 i (w (9344 + 8 * i))) []
    xq := areaItems q 9472 8 (recField bs 29 1) fun _ b => BitVec.ofNat 64 (bytesToNat b)
    bq := areaItems q 9600 128 g.bq.length fun _ b => bqOfBytes k b
    saq := areaItems q 13696 320 g.saq.length fun i b => saqOfBytes (g.saq.getD i {}) b
    sdq := areaItems q 23936 160 g.sdq.length fun _ b => sdqOfBytes b
    cpos := g.cpos.map fun p => { p with idx := (cpc - cBase k).toNat / 12, code := [] }
    cmask := BitVec.ofNat 32 (recField q 29064 4)
    snap := BitVec.ofNat 32 (recField q 29068 4)
    mbind := if w 29072 = 0 then none else some (w 29072, recField q 29080 1 % 4)
    batchN := recField q 29082 2
    openDone := recField q 29084 4
    openStat := statusOf (recField q 29088 8)
    xb := (List.range 4).foldl (fun m i =>
      SMap.set m (0, 255) i (recField q (29096 + 2 * i) 1, recField q (29097 + 2 * i) 1)) []
    kput := payloadOf (recField q 29104 1) (fun i => recField q (29112 + 16 * i) 1) fun i => recField q (29120 + 16 * i) 8
    lastSp := spOfWord (recField q 29240 4)
    fvec := BitVec.ofNat 32 (recField q 29248 8)
    poison := BitVec.ofNat 32 (recField q 29256 8)
    hcst := if hc = 2 then g.hcst else hc
    frec := (List.range 8).foldl (fun m i => SMap.set m 0 i (w (29272 + 8 * i))) []
    pc := w 29336
    retPc := w 29344
    hLastSp := spOfWord (recField q 29352 4)
    hFollow := true
    wake := some (.fpark (BitVec.ofNat 64 (recField bs 40 8)) (BitVec.ofNat 64 (recField bs 32 8)))
    woken := false
    whole := false
    out := true
    slotBase := r.1.resv
    st := .parked })

/-- Load a saved group from the bytes of its record; the slip ring is used where it lies (R91). The group is PENDING, or
PARKED after a whole-group record. -/
def loadRecord (s : State) (k : Kernel) (g : Group) (bs : List Byte) : State × Group :=
  let s1 := (List.range 3).foldl (fun s i => gtWrite s g (8 + 4 * i) 4 (recField bs (16 + 4 * i) 4)) s
  if recField bs 6 1 = 2 then loadWhole s1 k g bs
  else
    let r := loadLive s1 k g bs
    (r.1, { r.2 with st := .pending, setSince := s.now, lastA := g.lastA, lastC := g.lastC })

/-! ### The cut (R36, R40, R41, R101) -/

/-- The units still owe the team's scratchpad barriers an update (R101). -/
def teamOwes (s : State) (g : Group) : Bool :=
  let scr (l : Loc) : Bool := match l with | .scratch _ => true | .phys _ _ => false
  (s.engines.any fun e =>
      match e.2.for_, e.2.barrier with
      | .group _ _, some l => scr l && decide (e.2.kern = g.kern) && decide (e.2.core = g.core)
      | _, _ => false)
    || s.homeQ.any fun u => scr u.home && decide (u.core = g.core)

/-- A fetching atomic of the group that has left for another package is still to be answered (R36). -/
def fetchOut (s : State) (gid : Nat) : Bool :=
  s.fabric.reqs.any fun e => decide (e.2.g = gid) && e.2.op == 4 && e.2.line.rv && !e.2.sync && !e.2.held

/-- The group has a SPILLB that is still to read its registers, or with `whole` one that is not complete (R40). -/
def spillOut (s : State) (gid : Nat) (g : Group) (whole : Bool) : Bool :=
  s.engines.any fun e =>
    match e.2.kind, e.2.for_ with
    | .spillb _ _ _, .group x _ => x == gid && e.2.kern == g.kern && (whole || !e.2.ready)
    | _, _ => false

/-- Nothing of the group is in flight in its registers or its queues. -/
def unitsDone (s : State) (gid : Nat) (g : Group) : Bool :=
  g.mops.isEmpty && g.batches.isEmpty && g.saq.all (fun e => !e.half) && g.loads.all (fun l => loadEntries l.kind == 0) && !fetchOut s gid && muslinIdle s g
    && !(s.engines.any fun e =>
      match e.2.kind, e.2.for_ with
      | .filla _ _ _, .group x _ => x == gid && e.2.kern == g.kern
      | _, _ => false)
    && (ownUpdates s gid).isEmpty && !teamOwes s g

/-- The cut of a yielding group is complete (R36). -/
def cutReady (s : State) (gid : Nat) (g : Group) : Bool :=
  g.stop.isNone && cIdle g && unitsDone s gid g && !spillOut s gid g false
    && (g.saq.isEmpty || decide (g.sdq.length < (g.saq.headD {}).count))

/-- An occupancy exceeds the entry's limits, or a pair is incomplete (R36). -/
def cutBad (s : State) (k : Kernel) (g : Group) : Bool :=
  let e := spEntry k (standSp g)
  decide (e.lqlim < slip s g) || decide (e.xqlim < g.xq.length) || decide (e.bqlim < g.bqMark)
    || !g.saq.isEmpty || !g.sdq.isEmpty

/-- The ILLEGAL of a failed cut, at the SP and with its word (R268), with the safe-point flag; the SP executes again after FRET. -/
def cutFault (s : State) (gid : Nat) (g : Group) : State :=
  let s1 := if g.evict then freeSave s g.ctx g.saveAt else s
  let g1 := { g with pc := g.pc - 4, evict := false, saveAt := 0, wake := none, woken := false }
  takeFault (setGrp s1 gid g1) gid { code := 0x01, pc := g1.pc, w7 := (encodeA (.sp (BitVec.ofNat 16 (standSp g)))).zeroExtend 64, safe := true }

/-! ### Saving a team (R67, R177) -/

/-- Groups in ascending handle order. -/
def byHandle (gs : List (Nat × Group)) : List (Nat × Group) :=
  gs.foldl (fun acc x => ins x acc) []
where
  ins (x : Nat × Group) : List (Nat × Group) → List (Nat × Group)
    | [] => [x]
    | y :: ys => if x.2.handle < y.2.handle then x :: y :: ys else y :: ins x ys

/-- Every group of a team is saved. -/
def allSaved (s : State) (k t : Nat) : Bool := (teamGroups s k t).all fun e => e.2.st == .saved

/-- The bytes of one group's record within its team's: an evicted group's record moves there (log 18). -/
def memberBytes (s : State) (k : Kernel) (g : Group) : List Byte :=
  if g.evict then ctxBytes s g.ctx ((ctxOf s g.ctx).savePool + g.saveAt) (recSize k g)
  else groupRecord s k g

/-- The head of a team record; its `next` field is written with the image header. -/
def teamHead (s : State) (kn t : Nat) (k : Kernel) (x : Team) (n total : Nat) : List Byte :=
  let sp := (coreOf s x.core).split
  natToBytes 8 kn ++ natToBytes 8 k.image.toNat ++ natToBytes 4 t ++ natToBytes 4 x.span ++ natToBytes 2 n ++ natToBytes 2 0
    ++ natToBytes 4 k.scratch ++ natToBytes 2 k.hdr.tiles ++ natToBytes 2 k.hdr.bslots
    ++ natToBytes 1 sp.1 ++ natToBytes 1 sp.2.1 ++ natToBytes 1 sp.2.2 ++ natToBytes 1 0
    ++ natToBytes 8 0 ++ natToBytes 8 (k.count / 17) ++ natToBytes 4 total ++ natToBytes 4 0

/-- Bytes of a core's scratchpad unit. -/
def scratchBytes (s : State) (core off n : Nat) : List Byte :=
  (List.range n).map fun i => SMap.get (coreOf s core).scratch 0 (off + i)

/-- Bramble closes a team's forming entries, their records waiting again, and holds the team's waiting records back until
it is placed again (R67). -/
def closeForming (s : State) (cn k t : Nat) : State :=
  let mine (f : Forming) : Bool := decide (f.kern = k) && decide (f.team = t)
  let rs := s.dies.flatMap fun e => (e.2.forming.filter fun f => mine f.2).flatMap fun f => f.2.records
  let s1 := rs.foldl (fun s i => ctxPut s cn (recAddr s cn i + 25) 1 1) s
  let ofTeam (w : Nat × Nat) : Bool :=
    decide (w.1 = cn) && decide (recRead s1 cn w.2 0 8 = k) && decide (recRead s1 cn w.2 12 4 = t)
  { s1 with dies := s1.dies.map fun e =>
      (e.1, { e.2 with forming := e.2.forming.filter (fun f => !mine f.2), waiting := e.2.waiting.filter fun w => !ofTeam w }) }

/-- Write a team's record at an offset of the pool, and give up all it held (R91, R119, R177). Its core's L1 is written
back, so that the team finds its stores on whatever core it is placed again (log 19). -/
def writeTeam (s : State) (kn t : Nat) (k : Kernel) (x : Team) (off total : Nat) : State :=
  let gs := byHandle (teamGroups s kn t)
  let s0 := flushTo s x.core 3
  let c := ctxOf s0 k.ctx
  let bs := teamHead s0 kn t k x gs.length total ++ scratchBytes s0 x.core x.sbase k.scratch
    ++ scratchBytes s0 x.core (0x200000 + 32 * x.bbase) (32 * k.hdr.bslots) ++ gs.flatMap fun e => memberBytes s0 k e.2
  let s1 := ctxWrite s0 k.ctx (c.savePool + off) bs
  let s2 := gs.foldl (fun s e => if e.2.evict then freeSave s k.ctx e.2.saveAt else savePoison s e.2) s1
  let s3 := gs.foldl (fun s e => setGrp s e.1 { stripSaved e.2 with evict := false, saveAt := 0 }) s2
  let s4 := modTeam s3 kn t fun y => { y with placed := false, saveAt := off, reserved := 0 }
  settleCores (settleKernel (freeSpan (closeForming s4 k.ctx kn t) kn x.span) kn)

/-- Save a team all of whose groups are saved, once the pool has room (R41). -/
def saveTeam (s : State) (kn t : Nat) : State :=
  match kern? s kn, team? s kn t with
  | some k, some x =>
    if !x.placed || !allSaved s kn t then s
    else
      let total := 64 + k.scratch + 32 * k.hdr.bslots
        + ((teamGroups s kn t).map fun e => recSize k e.2).foldl (· + ·) 0
      let s0 := if x.reserved = 0 then s else freeSave s k.ctx x.saveAt
      let c := ctxOf s k.ctx
      let lost := (teamGroups s kn t).any fun e => e.2.evict && badRun s (c.savePool + e.2.saveAt) (recSize k e.2)
      if lost then (if c.state = .faulted then s else setCState s k.ctx .faulted 2)
      else match poolTake s0 k.ctx total with
      | none => s
      | some (off, s1) => writeTeam s1 kn t k x off total
  | _, _ => s

/-- An evicted group's record is written alone, at the place reserved for it (R61). -/
def saveEvicted (s : State) (gid : Nat) (g : Group) (k : Kernel) : State :=
  let c := ctxOf s g.ctx
  let s1 := ctxWrite (savePoison (flushTo s g.core 3) g) g.ctx (c.savePool + g.saveAt) (groupRecord s k g)
  setGrp s1 gid { stripSaved g with evict := true }

/-- A group whose cut has completed is SAVED; its team is, with its last group. An LDA not yet complete drops its access
(R302). -/
def finishCut (s : State) (gid : Nat) (g : Group) (k : Kernel) : State :=
  let g1 := { flushPend g with st := .saved, yreq := false, loads := [], ldaDone := false, ldaVal := [] }
  if g.evict && !g.yreq then saveEvicted s gid { g1 with st := .yielding } k
  else
    let s1 := if g.evict then freeSave s g.ctx g.saveAt else s
    saveTeam (setGrp s1 gid { g1 with evict := false, saveAt := 0 }) g.kern g.team

/-- CUT_COMPLETE (R36, R40): a yielding group, or a parked one that has a yield request, is saved once its cut is complete,
or the cut fails. -/
def execCutComplete (gid : Nat) (s : State) : Res :=
  match grp? s gid with
  | none => .next s
  | some g =>
    match kern? s g.kern with
    | none => .next s
    | some k =>
      match g.st with
      | .yielding =>
        if !cutReady s gid g then .next s
        else if cutBad s k g then .next (cutFault s gid g)
        else .next (finishCut s gid g k)
      | .parked =>
        if g.yreq && unitsDone s gid g && !spillOut s gid g true then .next (finishCut s gid { g with whole := true } k) else .next s
      | .saved => .next (saveTeam s g.kern g.team)
      | _ => .next s

/-! ### Stop records (R68 to R70) -/

/-- Code of a group state (R51). -/
def stateCode : GState → Nat
  | .empty => 0
  | .forming => 1
  | .pending => 2
  | .active => 3
  | .blocked => 4
  | .yielding => 5
  | .handler => 6
  | .parked => 7
  | .stopped => 8
  | .saved => 9
  | .retired => 10

/-- The 128 bytes of a stop record. -/
def stopBytes (s : State) (k : Kernel) (g : Group) (x : StopInfo) : List Byte :=
  padTo 64 (natToBytes 8 g.pc.toNat
    ++ natToBytes 8 (match g.cpos with | some p => (cBase k + BitVec.ofNat 64 (12 * p.idx)).toNat | none => 0)
    ++ natToBytes 8 g.retired ++ natToBytes 1 x.skidA ++ natToBytes 1 x.skidC ++ natToBytes 1 x.reason
    ++ natToBytes 1 (stateCode x.prior) ++ natToBytes 4 x.origin.toNat ++ natToBytes 8 (occupancy s g)
    ++ natToBytes 4 g.em.toNat ++ natToBytes 4 g.cmask.toNat)
  ++ allLanes.flatMap fun l => natToBytes 2 (SMap.get g.ctr 0 l).toNat

/-- Write a group's stop record: every latency has passed, every matrix operation it issued has completed, the moves of its
ring under way have been made, and the group is STOPPED (R68, R92, R335). -/
def writeStop (s : State) (gid : Nat) : State :=
  let s := muslinMoves s gid
  match grp? s gid with
  | none => s
  | some g =>
    match g.stop, kern? s g.kern with
    | some x, some k =>
      if x.written || !g.mops.isEmpty then s
      else
        let g1 := { flushPend g with st := .stopped, stop := some { x with written := true } }
        let c := ctxOf s g.ctx
        ctxWrite (setGrp s gid g1) g.ctx (c.stopArea + 128 * g.entry) (stopBytes s k g1 x)
    | _, _ => s

/-- STOP_RECORD_WRITE (R69). -/
def execStopRecordWrite (gid : Nat) (s : State) : Res := .next (writeStop s gid)

/-- A group that was stopped takes the fault it kept, or one of its slots that became known while it stood (R38, R43). -/
def resumeFault (s : State) (gid : Nat) (x : StopInfo) : State :=
  match x.fault, grp? s gid with
  | some f, _ => takeFault s gid f
  | none, some g =>
    if x.prior = .handler ∨ x.prior = .parked then s
    else
      match g.afaults with
      | (f, h) :: rest => takeFault (setGrp s gid { g with afaults := rest, held := h }) gid f
      | [] => s
  | none, none => s

/-- Resume a stopped group (R70): its state before the stop, or its handler when it kept a fault (R43). A blocked group takes a
yield request that came in the meantime (R66). -/
def resumeGroup (s : State) (gid : Nat) : State :=
  match grp? s gid with
  | none => s
  | some g =>
    match g.stop with
    | none => s
    | some x =>
      let cut := x.prior == .blocked && g.yreq
      let s1 := setGrp s gid { g with
        st := if cut then .yielding else x.prior
        bqMark := if cut then g.bq.length else g.bqMark
        stop := none }
      resumeFault s1 gid x

end Sys2Proof.Machine
end

