-- ==== Sys2Proof/Machine/Launch.lean ====
section
/-! DEFINITION. The dispatcher: validation (R108 to R113), the fit test (R416), placement and restoring of teams (R115,
R116, R119 to R121), repartition (R123), pre-emption (R122), retirement (R118) and the watchdog (R44, R71). -/

namespace Sys2Proof.Machine

open Sys2Proof

/-! ### Reads by units of the package -/

/-- Read a virtual range of a context as data, or `none` when any read of it fails (R109). The spec does not say whether the
dispatcher's reads may reach the fabric: here such a read fails (log 44). -/
def pkgBytes (s : State) (cn va : Nat) : List (Nat × Nat) → State × Option (List Byte)
  | [] => (s, some [])
  | (o, k) :: rest =>
    match translatePkg s cn ((va + o) % 2 ^ 64) .read with
    | (s1, .error _) => (s1, none)
    | (s1, .ok t) =>
      let bad := (List.range ((t.pa % 128 + k + 127) / 128)).any fun i => badLine s1 (t.pa + 128 * i)
      if (placeFault s1 cn t.pa).isSome || bad || !(isHbm t.pa || isBank t.pa || (isHostMem t.pa && !s1.fabric.hostReset)) then
        (s1, none)
      else
        match pkgBytes s1 cn va rest with
        | (s2, none) => (s2, none)
        | (s2, some bs) => (s2, some (memBytes s1 (slotOf s1 cn) t.pa k ++ bs))

/-- Read `n` bytes. -/
def pkgRead (s : State) (cn va n : Nat) : State × Option (List Byte) := pkgBytes s cn va (cutAll [va] n)

/-! ### The header and the safe-point table (R108, R111, R113) -/

/-- The fields of a header. -/
def headerOf (bs : List Byte) : Header :=
  let f := recField bs
  { flags := f 2 2, spdist := f 4 4, aoff := f 8 8, alen := f 16 4, fvec := f 20 4, coff := f 24 8, clen := f 32 4
    spoff := f 40 8, spcount := f 48 4, slip := f 52 4, share := f 56 4, budget := f 64 8, lanes := f 72 2, na := f 74 1
    nv := f 76 2, tiles := f 78 2, scratch := f 80 4, bslots := f 84 2, bank := f 88 4, gvrf := f 92 1, gscr := f 93 1
    gl1 := f 94 1, spawnw := f 95 1, fmask := f 96 2 }

/-- Every byte of a range is zero. -/
def zeroAt (bs : List Byte) (at_ n : Nat) : Bool := ((bs.drop at_).take n).all fun b => b == 0

/-- A scratch size within the limits of R108. -/
def scratchOk (n : Nat) : Bool := decide (n % 256 = 0) && decide (n ≤ 1114112)

/-- A split that is absent, or within its limits. -/
def splitOk (h : Header) : Bool :=
  (h.gvrf == 0 && h.gscr == 0 && h.gl1 == 0)
    || (decide (2 ≤ h.gvrf ∧ h.gvrf ≤ 19 ∧ h.gscr ≤ 17 ∧ 1 ≤ h.gl1 ∧ h.gl1 ≤ 18) && h.gvrf + h.gscr + h.gl1 == 20)

/-- A header whose fields lie within their limits and whose zero bytes are zero. -/
def headerOk (bs : List Byte) : Bool :=
  let h := headerOf bs
  recField bs 0 2 == 1 && h.flags < 4 && decide (64 ≤ h.spdist ∧ h.spdist ≤ 8192)
    && h.aoff % 4 == 0 && h.alen % 4 == 0 && 4 ≤ h.alen && (h.fvec % 4 == 0 || h.fvec == 0xFFFFFFFF)
    && h.coff % 16 == 0 && h.clen % 12 == 0 && h.spoff % 32 == 0 && decide (1 ≤ h.spcount ∧ h.spcount ≤ 65536)
    && decide (64 ≤ h.slip ∧ h.slip ≤ 65536) && decide (1 ≤ h.lanes ∧ h.lanes ≤ 512) && h.na ≤ 32
    && h.nv ≤ 256 && h.nv % 8 == 0 && h.tiles ≤ 96 && scratchOk h.scratch && h.bslots ≤ 64 && h.bank % 4096 == 0
    && splitOk h && h.spawnw ≤ 32 && h.fmask < 256
    && zeroAt bs 36 4 && zeroAt bs 60 4 && zeroAt bs 75 1 && zeroAt bs 86 2 && zeroAt bs 98 158

/-- The fields of a safe-point entry. -/
def entryOf (bs : List Byte) : SpEntry :=
  let f := recField bs
  { pc := f 0 4, stub := f 4 4, lqlim := f 8 4, xqlim := f 12 1, bqlim := f 13 1, slive := BitVec.ofNat 64 (f 16 8)
    alive := BitVec.ofNat 32 (f 24 4), klive := BitVec.ofNat 32 (f 28 4), vlive := BitVec.ofNat 256 (f 32 32)
    tlive := BitVec.ofNat 96 (f 64 12), xlive := BitVec.ofNat 4 (f 76 1), size := f 80 4 }

/-- A safe-point entry that keeps R111 and R113. -/
def entryOk (h : Header) (bs : List Byte) : Bool :=
  let e := entryOf bs
  zeroAt bs 14 2 && zeroAt bs 77 3 && zeroAt bs 84 12 && decide (recField bs 76 1 < 16)
    && e.lqlim ≤ h.slip && e.xqlim ≤ 16 && e.bqlim ≤ 32
    && ((liveRegs e.alive).all fun n => decide (n < h.na)) && ((liveRegs e.vlive).all fun n => decide (n < h.nv))
    && ((liveRegs e.tlive).all fun n => decide (n < h.tiles)) && e.size == spSize e
    && (e.pc != 0xFFFFFFFF || (e.stub == 0xFFFFFFFF && e.lqlim == 0 && e.xqlim == 0 && e.bqlim == 0 && e.size == 128
      && zeroAt bs 16 61))

/-- Read and check a kernel's header and table. -/
def readHeader (s : State) (cn : Nat) (image : Word) : State × Option (Header × List SpEntry) :=
  if image.toNat % 256 ≠ 0 then (s, none)
  else
    match pkgRead s cn image.toNat 256 with
    | (s1, none) => (s1, none)
    | (s1, some bs) =>
      if !headerOk bs then (s1, none)
      else
        let h := headerOf bs
        match pkgRead s1 cn ((image.toNat + h.spoff) % 2 ^ 64) (96 * h.spcount) with
        | (s2, none) => (s2, none)
        | (s2, some ts) =>
          let es := (List.range h.spcount).map fun i => (ts.drop (96 * i)).take 96
          if es.all (entryOk h) then (s2, some (h, es.map entryOf)) else (s2, none)

/-! ### What a team needs and a core offers (R119, R416) -/

/-- Groups of a team (R108). -/
def groupsOf (h : Header) : Nat := (h.lanes + 31) / 32

/-- The header asks for a split. -/
def asksSplit (h : Header) : Bool := h.gvrf != 0

/-- The split that a core offers a kernel. -/
def splitFor (h : Header) (c : Core) : Nat × Nat × Nat := if asksSplit h then (h.gvrf, h.gscr, h.gl1) else c.split

/-- Room divided by need; a need of zero is no limit. -/
def roomFor (room need : Nat) : Nat := if need = 0 then 28 else room / need

/-- Teams an empty core holds at once (R416). -/
def coreCapacity (k : Kernel) (c : Core) : Nat :=
  let h := k.hdr
  let n := groupsOf h
  let sp := splitFor h c
  [roomFor 28 n, roomFor (65536 * sp.1) (n * h.nv * 128), roomFor 262144 (n * h.na * 256),
    roomFor (65536 * sp.2.1) k.scratch, roomFor 256 h.bslots, roomFor 96 h.tiles].foldl Nat.min 28

/-- The cores of a partition on a powered die, without those that failed their start-up tests (R162, R414). -/
def coresOn (s : State) (p d : Nat) : List Nat :=
  let m := (partOf s p).masks.getD d 0
  if (dieSt s d).powered then
    ((List.range 192).filter fun i => m.getLsbD i && !(coreOf s (192 * d + i)).failed).map fun i => 192 * d + i
  else []

/-- A die's capacity. -/
def dieCapacity (s : State) (k : Kernel) (d : Nat) : Nat :=
  ((coresOn s (ctxOf s k.ctx).part d).map fun c => coreCapacity k (coreOf s c)).foldl (· + ·) 0

/-- The bytes of the partition's bank-store share on a die. -/
def shareBytes (s : State) (k : Kernel) (d : Nat) : Nat := 0x2000000 * (partOf s (ctxOf s k.ctx).part).share.getD d 0

/-- Spans of a kernel, and the teams of one. -/
def spanCount (k : Kernel) : Nat := (k.teams + k.perSpan - 1) / k.perSpan
def spanTeams (k : Kernel) (n : Nat) : Nat := Nat.min k.perSpan (k.teams - n * k.perSpan)

/-- Give each span of a COOP grid to the lowest die that has capacity and share left. -/
def coopFits (bank : Nat) : List Nat → List (Nat × Nat) → Bool
  | [], _ => true
  | n :: rest, ds =>
    match ds.findIdx? fun d => decide (n ≤ d.1) && decide (bank ≤ d.2) with
    | none => false
    | some i => coopFits bank rest (ds.modify i fun d => (d.1 - n, d.2 - bank))

/-- The fit test (R416). -/
def fits (s : State) (k : Kernel) : Bool :=
  let ds := (List.range 4).map fun d => (dieCapacity s k d, shareBytes s k d)
  let big := spanTeams k 0
  ds.any (fun d => decide (0 < d.1)) && ds.any (fun d => decide (big ≤ d.1) && decide (k.hdr.bank ≤ d.2))
    && (!k.coop || coopFits k.hdr.bank ((List.range (spanCount k)).map (spanTeams k)) ds)

/-! ### Taking a kernel (R109, R116, R118) -/

/-- The launch values of R116, if they are good: teams per span and scratch bytes. -/
def launchValues (k : Kernel) (h : Header) : Option (Nat × Nat) :=
  let sc := if k.scratch = 0 then h.scratch else k.scratch
  if k.teams = 0 ∨ 192 < k.perSpan ∨ !scratchOk sc then none else some (Nat.max k.perSpan 1, sc)

/-- A kernel comes before another in the dispatcher's order (R122). -/
def kernBefore (a b : Nat × Kernel) : Bool :=
  decide (b.2.prio < a.2.prio)
    || (decide (a.2.prio = b.2.prio) && (decide (a.2.handed < b.2.handed) || (decide (a.2.handed = b.2.handed) && decide (a.1 < b.1))))

/-- Validate, enter PLACING, and make the fit test. -/
def takeKernel (s : State) (n : Nat) (k : Kernel) : State :=
  match readHeader s k.ctx k.image with
  | (s1, none) => endKernel s1 n .faulted 1
  | (s1, some (h, table)) =>
    match launchValues k h with
    | none => endKernel s1 n .faulted 2
    | some (e, sc) =>
      let k1 := { k with hdr := h, table := table, perSpan := e, scratch := sc, state := .placing, waitFrom := s.now }
      let s2 := { s1 with kernels := SMap.put s1.kernels n k1 }
      let s3 := if (ctxOf s2 k.ctx).state = .loaded then setCState s2 k.ctx .running 0 else s2
      if fits s3 k1 then s3 else endKernel s3 n .faulted 3

/-- KERNEL_TAKE (R109): a READY kernel, the first in the dispatcher's order. -/
def execKernelTake (n : Nat) (s : State) : Res :=
  match kern? s n with
  | none => .next s
  | some k =>
    let earlier := s.kernels.any fun e => e.2.state == .ready && mayHand s e.2.ctx && kernBefore e (n, k)
    if k.state = .ready ∧ mayHand s k.ctx = true ∧ earlier = false then .next (takeKernel s n k) else .next s

/-! ### Room on a core and on a die (R119, R120) -/

/-- Teams that a core holds. -/
def teamsAt (s : State) (c : Nat) : List (Nat × Team) := s.teams.filter fun e => e.2.core = c ∧ e.2.placed

/-- The kernel of a team's key. -/
def teamKern (s : State) (key : Nat) : Kernel := (kern? s (key / 4294967296)).getD { ctx := 0 }

/-- The lowest place for `n` of `total` that no listed run covers. -/
def lowestRun (total n : Nat) (runs : List (Nat × Nat)) : Option Nat :=
  ((0 :: runs.map fun e => e.1 + e.2).filter fun o =>
    decide (o + n ≤ total) && runs.all fun e => n == 0 || e.2 == 0 || decide (o + n ≤ e.1) || decide (e.1 + e.2 ≤ o)).foldl
    (fun (b : Option Nat) o => some (match b with | some x => Nat.min x o | none => o)) none

/-- Groups that hold slots on a core. -/
def slotHolders (s : State) (c : Nat) : List (Nat × Group) := s.groups.filter fun e => e.2.core = c ∧ holdsSlot e.2 = true

/-- Free group slots of a core, in ascending number. -/
def freeSlots (s : State) (c : Nat) : List Nat :=
  (List.range 32).filter fun i => !((slotHolders s c).any fun e => e.2.slot == i)

/-- Where a team lies on a core: its scratchpad, barrier slots and tiles. -/
structure Spot where
  core  : Nat
  sbase : Nat
  bbase : Nat
  tbase : Nat
  adopt : Bool
  deriving DecidableEq, Repr

/-- The room a core has for one team of a kernel, under a split (R119). A team's scratchpad, its barrier slots and its tiles each
take one contiguous run (log 14). -/
def roomAt (s : State) (k : Kernel) (c : Nat) (sp : Nat × Nat × Nat) : Option Spot :=
  let ts := teamsAt s c
  let h := k.hdr
  let sum (f : Kernel → Nat) : Nat := (ts.map fun e => f (teamKern s e.1)).foldl (· + ·) 0
  let n := groupsOf h
  if 28 < sum (fun x => groupsOf x.hdr) + n ∨ (freeSlots s c).length < n
      ∨ 65536 * sp.1 < sum (fun x => groupsOf x.hdr * x.hdr.nv * 128) + n * h.nv * 128
      ∨ 262144 < sum (fun x => groupsOf x.hdr * x.hdr.na * 256) + n * h.na * 256 then none
  else
    match lowestRun (65536 * sp.2.1) k.scratch (ts.map fun e => (e.2.sbase, (teamKern s e.1).scratch)),
      lowestRun 256 h.bslots (ts.map fun e => (e.2.bbase, (teamKern s e.1).hdr.bslots)),
      lowestRun 96 h.tiles (ts.map fun e => (e.2.tbase, (teamKern s e.1).hdr.tiles)) with
    | some a, some b, some t => some ⟨c, a, b, t, false⟩
    | _, _, _ => none

/-- A core takes a team (R120): its room at its own split when that matches, or an idle core at the header's split. The
class of R120's order is given with it. -/
def takesAt (s : State) (k : Kernel) (c : Nat) : Option (Nat × Spot) :=
  let x := coreOf s c
  let want := splitFor k.hdr x
  let busy := !(teamsAt s c).isEmpty
  if x.pendSplit.isSome then none
  else if x.split = want then (roomAt s k c x.split).map fun p => (if busy then 0 else 1, p)
  else if busy then none
  else (roomAt s k c want).map fun p => (2, { p with adopt := true })

/-- The first core of a list in R120's order. -/
def firstSpot (s : State) (k : Kernel) (cs : List Nat) : Option Spot :=
  let os := cs.filterMap (takesAt s k)
  let pick (n : Nat) : Option Spot := (os.find? fun o => o.1 = n).map (·.2)
  match pick 0 with
  | some p => some p
  | none =>
    match pick 1 with
    | some p => some p
    | none => pick 2

/-- The bank-store allocation of a span on a die: the lowest run of the partition's share there (R163). -/
def bankRun (s : State) (k : Kernel) (d : Nat) : Option Nat :=
  let p := partOf s (ctxOf s k.ctx).part
  let first := p.first.getD d 0xFF
  if k.hdr.bank = 0 then some 0
  else if first = 0xFF then none
  else
    let lo := 0x10000000000 + 0x10000000 * d + 0x2000000 * first
    (lowestRun (0x2000000 * p.share.getD d 0) k.hdr.bank
      ((s.spans.filter fun e => lo ≤ e.2.base ∧ e.2.base < lo + 0x2000000 * p.share.getD d 0 ∧ e.2.size ≠ 0).map
        fun e => (e.2.base - lo, e.2.size))).map fun o => lo + o

/-- Free entries of a context's group table (R180). -/
def freeTable (s : State) (cn : Nat) : Nat := (ctxOf s cn).gcount - (s.groups.filter fun e => e.2.ctx = cn).length

/-! ### Placing a team (R115) -/

/-- An idle core of another split adopts the header's: L1 is written back and emptied, and the scratchpad's contents are not
kept (R120, R123). -/
def adoptSplit (s : State) (c : Nat) (sp : Nat × Nat × Nat) : State :=
  modCore (flushCore s c) c fun x => { x with split := sp, l1 := [], scratch := [] }

/-- The team's accumulator tiles are zero (R115, R400). -/
def clearTiles (s : State) (c t n : Nat) : State :=
  modCore s c fun x => { x with
    tiles := x.tiles.filter (fun e => decide (e.1 < 4096 * t) || decide (4096 * (t + n) ≤ e.1))
    tileErr := x.tileErr.filter fun e => decide (e.1 < t) || decide (t + n ≤ e.1) }

/-- The registers a group starts with (R115). -/
def initRegs (k : Kernel) (t i : Nat) (g : Group) : Group :=
  let ss : List (Nat × Nat) := [(1, k.argv.toNat), (2, t), (3, t / k.perSpan), (4, t % k.perSpan), (5, i), (6, k.teams),
    (7, k.perSpan)]
  let g1 := ss.foldl (fun g e => { g with s := SMap.set g.s 0 e.1 (BitVec.ofNat 64 e.2) }) g
  if k.hdr.na = 0 then g1
  else allLanes.foldl (fun g l => wa g 0 l (BitVec.ofNat 64 (32 * i + l))) g1

/-- Lanes of a group within the launch size (R108). -/
def launchLanes (h : Header) (i : Nat) : BitVec 32 := maskOf (allLanes.filter fun l => decide (32 * i + l < h.lanes))

/-- A fresh group-table entry (R88, R180). -/
def freshEntry (s : State) (g : Group) : State :=
  ctxWrite s g.ctx (gtAddr s g 0) (natToBytes 4 0 ++ natToBytes 4 g.handle ++ List.replicate 2040 0)

/-- The number of a context's group at an entry of its table. -/
def gidAt (cn entry : Nat) : Nat := cn * 1048576 + entry

/-- The lowest free entry of a context's group table. -/
def freeEntry (s : State) (cn : Nat) : Option Nat :=
  (List.range (ctxOf s cn).gcount).find? fun i => (grp? s (gidAt cn i)).isNone

/-- Place one group of a team at its start. -/
def placeGroup (s : State) (kn t : Nat) (k : Kernel) (c i : Nat) : State :=
  match freeEntry s k.ctx, (freeSlots s c).head? with
  | some e, some slot =>
    let m := launchLanes k.hdr i
    let g : Group := initRegs k t i
      { ctx := k.ctx, entry := e, kern := kn, team := t, handle := i, index := i, core := c, slot := slot
        pc := aBase k, em := m, present := m, fvec := BitVec.ofNat 32 k.hdr.fvec, setSince := s.now }
    freshEntry (setGrp s (gidAt k.ctx e) g) g
  | _, _ => s

/-- Undefined contents of a team's barrier slots when it is first placed (R417). -/
def freeSlotsBytes (s : State) (c off n : Nat) : State :=
  { scratchWrite s c off ((List.range n).map fun i => Config.freeByte (s.free + i)) with free := s.free + n }

/-- Take a core for a team. -/
def enterSpot (s : State) (kn t sp : Nat) (k : Kernel) (p : Spot) : State :=
  let s1 := if p.adopt then adoptSplit s p.core (splitFor k.hdr (coreOf s p.core)) else s
  let s2 := clearTiles s1 p.core p.tbase k.hdr.tiles
  let old := (team? s2 kn t).getD { span := sp }
  { s2 with teams := SMap.put s2.teams (teamKey kn t) { old with
      span := sp, core := p.core, sbase := p.sbase, bbase := p.bbase, tbase := p.tbase, placed := true } }

/-- Start a team at a spot. -/
def startTeam (s : State) (kn t sp : Nat) (k : Kernel) (p : Spot) : State :=
  let s1 := enterSpot s kn t sp k p
  let s2 := freeSlotsBytes s1 p.core (0x200000 + 32 * p.bbase) (32 * k.hdr.bslots)
  (List.range (groupsOf k.hdr)).foldl (fun s i => placeGroup s kn t k p.core i) s2

/-! ### Restoring a team (R37, R52, R67, R177, R400) -/

/-- The bytes of a team's record. -/
def teamRecord (s : State) (k : Kernel) (x : Team) : List Byte :=
  let c := ctxOf s k.ctx
  ctxBytes s k.ctx (c.savePool + x.saveAt) (ctxRead s k.ctx (c.savePool + x.saveAt + 56) 4)

/-- The group records that follow a team's barrier slots, each with its handle. -/
def splitRecs (k : Kernel) : Nat → List Byte → List (Nat × List Byte)
  | 0, _ => []
  | n + 1, bs =>
    let z := if recField bs 6 1 = 2 then wholeSize k.hdr else spSize (spEntry k (recField bs 4 2))
    (recField bs 0 4, bs.take z) :: splitRecs k n (bs.drop z)

/-- The saved group of a record's handle. An image of an earlier save may bring back a group that has ended since (R181): it
takes a free entry of the group table (log 19). -/
def groupOfRec (s : State) (kn t : Nat) (k : Kernel) (h : Nat) : Option (Nat × Group) :=
  match (teamGroups s kn t).find? fun e => e.2.handle = h with
  | some e => some e
  | none => (freeEntry s k.ctx).map fun e =>
      (gidAt k.ctx e, { ctx := k.ctx, entry := e, kern := kn, team := t, handle := h, index := if h < 16 then h else 0
                        spawned := decide (16 ≤ h), core := 0, slot := 0, fvec := BitVec.ofNat 32 k.hdr.fvec })

/-- Load a team's groups from their records, in ascending handle order: each takes a slot, spawned ones only while the core has
one free. -/
def loadGroups (s : State) (kn t : Nat) (k : Kernel) (c : Nat) : List (Nat × List Byte) → State
  | [] => s
  | (h, bs) :: rest =>
    match groupOfRec s kn t k h with
    | none => loadGroups s kn t k c rest
    | some (gid, g0) =>
      let s0 := if (grp? s gid).isSome then s else freshEntry s g0
      let slot := (freeSlots s0 c).head?
      let g1 : Group := { g0 with core := c, slot := slot.getD 0 }
      let r := loadRecord (setGrp s0 gid g1) k g1 bs
      let g2 := if slot.isSome then r.2 else { r.2 with st := .saved, whole := r.2.st == .parked }
      loadGroups (setGrp r.1 gid g2) kn t k c rest

/-- Records of a team in state 1, in (origin handle, lane) order (R67). -/
def waitingOf (s : State) (cn kn t : Nat) : List Nat :=
  let rs := (ctxOf s cn).recs.filter fun e =>
    e.2 = kn ∧ recRead s cn e.1 25 1 = 1 ∧ recRead s cn e.1 12 4 = t
  let key (i : Nat) : Nat := 32 * recRead s cn i 8 4 + recRead s cn i 24 1
  (rs.map (·.1)).foldl (fun acc i => ins key i acc) []
where
  ins (key : Nat → Nat) (i : Nat) : List Nat → List Nat
    | [] => [i]
    | j :: js => if key i < key j then i :: j :: js else j :: ins key i js

/-- Restore a team at a spot: its scratchpad, barrier slots, tiles and groups; its waiting records go to Bramble again; the
pool space is free. -/
def restoreTeam (s : State) (kn t sp : Nat) (k : Kernel) (x : Team) (p : Spot) : State :=
  let bs := teamRecord s k x
  let s1 := enterSpot s kn t sp k p
  let sc := recField bs 28 4
  let sl := 32 * recField bs 34 2
  let s2 := scratchWrite s1 p.core p.sbase ((bs.drop 64).take (Nat.min sc k.scratch))
  let rest := bs.drop (64 + sc)
  let s3 := scratchWrite s2 p.core (0x200000 + 32 * p.bbase) (rest.take (Nat.min sl (32 * k.hdr.bslots)))
  let recs := splitRecs k (recField bs 24 2) (rest.drop sl)
  let gone := (teamGroups s3 kn t).filter fun e => !(recs.any fun r => r.1 == e.2.handle)
  let s4 := loadGroups ((gone.map (·.1)).foldl freeGroup s3) kn t k p.core recs
  let s5 := dropClean (freeSave s4 k.ctx x.saveAt) p.core
  let w := waitingOf s5 k.ctx kn t
  modDie s5 (coreDie p.core) fun d => { d with waiting := d.waiting ++ w.map fun i => (k.ctx, i) }

/-! ### Placing a span (R120, R121) -/

/-- Place a team, new or saved, on the first core of a die that takes it. -/
def placeTeam (s : State) (kn t sp : Nat) (k : Kernel) (cs : List Nat) : Option State :=
  (firstSpot s k cs).map fun p =>
    match team? s kn t with
    | some x => restoreTeam s kn t sp k x p
    | none => startTeam s kn t sp k p

/-- Place teams in ascending number, all or none. -/
def placeAll (s : State) (kn sp : Nat) (k : Kernel) (cs : List Nat) : List Nat → Option State
  | [] => some s
  | t :: rest => (placeTeam s kn t sp k cs).bind fun s => placeAll s kn sp k cs rest

/-- Cores of a partition on a die that hold no team. -/
def freeCores (s : State) (p d : Nat) : Nat := ((coresOn s p d).filter fun c => (teamsAt s c).isEmpty).length

/-- The dies in order of most free cores, then lowest number (R120). -/
def dieOrder (s : State) (p : Nat) : List Nat :=
  [0, 1, 2, 3].foldl (fun acc d => ins d acc) []
where
  ins (d : Nat) : List Nat → List Nat
    | [] => [d]
    | e :: es => if freeCores s p e < freeCores s p d then d :: e :: es else e :: ins d es

/-- The teams of a span still to place: all of a new span, or its saved ones. -/
def toPlace (s : State) (kn sp : Nat) (k : Kernel) : List Nat :=
  if sp = k.nextSpan then (List.range (spanTeams k sp)).map fun i => sp * k.perSpan + i
  else ((kernTeams s kn).filter fun e => e.2.span = sp ∧ e.2.placed = false).map fun e => e.1 % 4294967296

/-- Place some teams of a span on one die, at once or not at all. -/
def placeOnDie (s : State) (kn sp : Nat) (k : Kernel) (ts : List Nat) (d : Nat) : Option State :=
  let part := (ctxOf s k.ctx).part
  let new := sp = k.nextSpan
  if new ∧ freeTable s k.ctx < ts.length * groupsOf k.hdr then none
  else
    match SMap.find? s.spans (teamKey kn sp), bankRun s k d with
    | none, none => none
    | held, run =>
      let o : Span := held.getD { die := d, base := run.getD 0, size := k.hdr.bank }
      (placeAll { s with spans := SMap.put s.spans (teamKey kn sp) o } kn sp k (coresOn s part d) ts).map fun s1 =>
        modKern s1 kn fun x => { x with
          nextSpan := if new then x.nextSpan + 1 else x.nextSpan
          state := .running
          waitFrom := s1.now }

/-- The die that holds placed teams of a span. -/
def spanDie (s : State) (kn sp : Nat) : Option Nat :=
  ((kernTeams s kn).find? fun e => e.2.span = sp ∧ e.2.placed = true).map fun e => coreDie e.2.core

/-- Place a span, whole on the first die in order that has room (log 20); of one whose other teams stay placed, each saved team
goes back to their die by itself (R120). -/
def placeSpan (s : State) (kn sp : Nat) (k : Kernel) : Option State :=
  let ts := toPlace s kn sp k
  match spanDie s kn sp with
  | some d => ts.findSome? fun t => placeOnDie s kn sp k [t] d
  | none => (dieOrder s (ctxOf s k.ctx).part).findSome? (placeOnDie s kn sp k ts)

/-- Spans with something to place, in ascending number. -/
def openSpans (s : State) (kn : Nat) (k : Kernel) : List Nat :=
  (List.range (spanCount k)).filter fun sp =>
    (decide (sp = k.nextSpan) && (k.state == .placing || k.state == .running || k.state == .suspended))
      || (kernTeams s kn).any fun e => decide (e.2.span = sp) && !e.2.placed

/-- Place the spans of a list, each against the kernel as it then stands. -/
def placeSpans (s : State) (kn : Nat) : List Nat → Option State
  | [] => some s
  | sp :: rest =>
    match kern? s kn with
    | none => none
    | some k => (placeSpan s kn sp k).bind fun s1 => placeSpans s1 kn rest

/-- What the dispatcher can place of a kernel now: the first span that has room, or for a COOP grid all of it (R121). -/
def placeable (s : State) (kn : Nat) (k : Kernel) : Option State :=
  if k.coop then
    let all := if k.nextSpan = 0 then List.range (spanCount k) else openSpans s kn k
    let anyPlaced := (kernTeams s kn).any fun e => e.2.placed
    if all.isEmpty ∨ (k.nextSpan ≠ 0 ∧ anyPlaced = true) then none else placeSpans s kn all
  else (openSpans s kn k).findSome? fun sp => placeSpan s kn sp k

/-- A kernel that the dispatcher considers for placing. -/
def placing (s : State) (k : Kernel) : Bool :=
  mayHand s k.ctx && match k.state with
    | .placing => true
    | .running => true
    | .suspended => true
    | _ => false

/-! ### Repartition (R123) -/

/-- Cores that could be marked for a kernel on a die: all their teams under another split, fewest groups first. -/
def markable (s : State) (k : Kernel) (d : Nat) : List Nat :=
  let cs := (coresOn s (ctxOf s k.ctx).part d).filter fun c =>
    let x := coreOf s c
    x.pendSplit.isNone && !(teamsAt s c).isEmpty && decide (x.split ≠ splitFor k.hdr x)
  let n (c : Nat) : Nat := (slotHolders s c).length
  cs.foldl (fun acc c => ins n c acc) []
where
  ins (n : Nat → Nat) (c : Nat) : List Nat → List Nat
    | [] => [c]
    | e :: es => if n c < n e then c :: e :: es else e :: ins n c es

/-- The state as it would be with a core emptied and at the kernel's split, for the question whether a span would fit. -/
def emptied (s : State) (k : Kernel) (c : Nat) : State :=
  let s1 := { s with teams := s.teams.filter (fun e => ¬ (e.2.core = c ∧ e.2.placed = true)),
                     groups := s.groups.filter fun e => e.2.core ≠ c }
  modCore s1 c fun x => { x with split := splitFor k.hdr x, pendSplit := none }

/-- Mark cores until the marked and the free ones pass a test; none when they never do. -/
def markUntil (s t : State) (kn : Nat) (k : Kernel) (ok : State → Bool) : List Nat → Option State
  | [] => none
  | c :: rest =>
    let sp' := splitFor k.hdr (coreOf s c)
    let s1 := modCore s c fun x => { x with pendSplit := some (kn, sp'.1, sp'.2.1, sp'.2.2) }
    let t1 := emptied t k c
    if ok t1 then some s1 else markUntil s1 t1 kn k ok rest

/-- Cores marked so that a span can be placed: on the die of its placed teams, or the first die in order where marks help. -/
def markSpan (s : State) (kn sp : Nat) (k : Kernel) : Option State :=
  let ds := match spanDie s kn sp with
    | some d => [d]
    | none => dieOrder s (ctxOf s k.ctx).part
  ds.findSome? fun d =>
    markUntil s s kn k (fun t => (placeOnDie t kn sp k (toPlace s kn sp k) d).isSome) (markable s k d)

/-- Mark cores for what a kernel would place next and cannot only for other splits: a span, or every span of a COOP grid (R121,
R123). -/
def markCores (s : State) (kn : Nat) (k : Kernel) : State :=
  match openSpans s kn k with
  | [] => s
  | sp :: _ =>
    if !asksSplit k.hdr || (s.cores.any fun e => match e.2.pendSplit with | some (n, _) => n == kn | none => false) then s
    else if k.coop then
      (markUntil s s kn k (fun t => (placeable t kn k).isSome)
        ((dieOrder s (ctxOf s k.ctx).part).flatMap (markable s k))).getD s
    else (markSpan s kn sp k).getD s

/-- A saved team's record holds an uncorrectable error (R173). -/
def savedBad (s : State) (kn : Nat) (k : Kernel) : Bool :=
  let c := ctxOf s k.ctx
  (kernTeams s kn).any fun e =>
    !e.2.placed && badRun s (c.savePool + e.2.saveAt) (ctxRead s k.ctx (c.savePool + e.2.saveAt + 56) 4)

/-- TEAM_PLACE (R120 to R123): the next span of a kernel, no kernel before it in order being placeable or still to be taken. A record that cannot
be read makes the context FAULTED. -/
def execTeamPlace (n : Nat) (s : State) : Res :=
  match kern? s n with
  | none => .next s
  | some k =>
    let earlier := s.kernels.any fun e => kernBefore e (n, k)
      && ((e.2.state == .ready && mayHand s e.2.ctx) || (placing s e.2 && (placeable s e.1 e.2).isSome))
    if !placing s k || earlier then .next s
    else if savedBad s n k then .next (setCState s k.ctx .faulted 2)
    else
      match placeable s n k with
      | some s1 => .next s1
      | none => .next (markCores s n k)

/-! ### Pre-emption (R122) -/

/-- The next span of a kernel would fit a die with some teams gone. -/
def wouldFit (s : State) (kn : Nat) (k : Kernel) (d : Nat) (gone : List Nat) : Bool :=
  let ts := s.teams.filter fun e => !gone.contains e.1
  let s1 := { s with
    groups := s.groups.filter fun e => !gone.contains (teamKey e.2.kern e.2.team)
    teams := ts
    spans := s.spans.filter fun e =>
      ts.any fun t => decide (teamKey (t.1 / 4294967296) t.2.span = e.1) && t.2.placed }
  match openSpans s kn k with
  | [] => false
  | sp :: _ => (placeOnDie s1 kn sp k (toPlace s kn sp k) d).isSome

/-- The running kernel of lowest priority on a die, below a priority; the later in order among equals. -/
def lowestKern (s : State) (d prio : Nat) : Option (Nat × Kernel) :=
  (s.kernels.filter fun e => decide (e.2.prio < prio) && e.2.state == .running
      && (kernTeams s e.1).any fun t => t.2.placed && coreDie t.2.core == d).foldl
    (fun (b : Option (Nat × Kernel)) e => match b with
      | none => some e
      | some x => if kernBefore x e then some e else some x) none

/-- Reserve the worst case of some teams' records; none when one does not fit (R175). -/
def reserveTeams (s : State) (kn : Nat) (k : Kernel) : List Nat → Option State
  | [] => some s
  | t :: rest =>
    (poolTake s k.ctx (teamWorst s kn t k)).bind fun r =>
      reserveTeams (modTeam r.2 kn t fun y => { y with saveAt := r.1, reserved := teamWorst s kn t k }) kn k rest

/-- The teams that a yield request to one team reaches (R121). -/
def yieldTeams (s : State) (kn t : Nat) (k : Kernel) : List Nat :=
  if k.coop then ((kernTeams s kn).filter fun e => e.2.placed && e.2.reserved == 0).map fun e => e.1 % 4294967296 else [t]

/-- Reserve the worst case of a team's record, or of every team of its COOP grid, and post the yield request (R175). -/
def preemptTeam (s : State) (kn t : Nat) : State :=
  match kern? s kn, team? s kn t with
  | some k, some x =>
    if x.reserved ≠ 0 then s
    else ((reserveTeams s kn k (yieldTeams s kn t k)).map fun s1 => postYield s1 kn t).getD s
  | _, _ => s

/-- The teams of a kernel that are on their way to the save pool. -/
def yielding (s : State) (v : Nat) : List Nat := ((kernTeams s v).filter fun e => e.2.placed && e.2.reserved != 0).map (·.1)

/-- Yield teams, highest number first, until the span would fit. -/
def preemptUntil (s : State) (kn : Nat) (k : Kernel) (d victim : Nat) : List Nat → State
  | [] => s
  | t :: rest =>
    if wouldFit s kn k d (yielding s victim) then s else preemptUntil (preemptTeam s victim t) kn k d victim rest

/-- PREEMPTION_TIMEOUT (R122): 50 µs without placing the next span. -/
def execPreemptionTimeout (n die : Nat) (s : State) : Res :=
  match kern? s n with
  | none => .next s
  | some k =>
    if !placing s k || (openSpans s n k).isEmpty || decide (s.now < k.waitFrom + 850000) then .next s
    else
      match lowestKern s die k.prio with
      | none => .next s
      | some (v, _) =>
        let ts := ((kernTeams s v).filter fun e => e.2.placed && coreDie e.2.core == die).map fun e => e.1 % 4294967296
        .next (preemptUntil s n k die v ts.reverse)

/-! ### Retirement and the watchdog -/

/-- Every engine command of a kernel's groups has been performed. -/
def enginesDone (s : State) (n : Nat) : Bool :=
  !(s.engines.any fun e => e.2.kern == n && match e.2.for_ with | .group _ _ => true | .record _ _ => false)

/-- KERNEL_RETIRE (R118): a draining kernel whose work is performed. -/
def execKernelRetire (n : Nat) (s : State) : Res :=
  match kern? s n with
  | none => .next s
  | some k =>
    if k.state ≠ .draining ∨ enginesDone s n = false then .next s
    else
      let s1 := (((ctxOf s k.ctx).recs.filter fun e => e.2 = n).map (·.1)).foldl (fun s i => freeRecord s k.ctx i) (flushAll s)
      let s2 := modKern s1 n fun x => { x with state := .retired, ended := s1.now }
      .next (settleCores (settleCtx (completeRecord s2 k.ctx k.origin k.barrier 1 {}) k.ctx))

/-- A kernel's watchdog budget in ns (R71, R108). -/
def budgetOf (s : State) (k : Kernel) : Nat := if k.hdr.budget = 0 then (ctxOf s k.ctx).budget else k.hdr.budget

/-- Post a yield request to every team of a kernel. -/
def yieldKernel (s : State) (n : Nat) : State :=
  ((kernTeams s n).map fun e => e.1 % 4294967296).foldl (fun s t => yieldTeam s n t) s

/-- WATCHDOG_FIRST_EXPIRY (R44). -/
def execWatchdogFirstExpiry (n : Nat) (s : State) : Res :=
  match kern? s n with
  | none => .next s
  | some k =>
    if isLive k && !k.first && decide (budgetOf s k ≤ k.count / 17) then
      .next (yieldKernel (modKern s n fun x => { x with first := true }) n)
    else .next s

/-- WATCH is recorded over every other stop (R43). -/
def markWatch (s : State) (gid : Nat) : State :=
  modGrp s gid fun g => { g with stop := g.stop.map fun x => { x with reason := 3, origin := 0xFFFFFFFF, written := false } }

/-- WATCHDOG_SECOND_EXPIRY (R44, R128; of a suspended kernel it comes after re-placement): every team that holds slots is stopped with reason 3, its stop records are written, and the
kernel is killed. -/
def execWatchdogSecondExpiry (n : Nat) (s : State) : Res :=
  match kern? s n with
  | none => .next s
  | some k =>
    if isLive k && k.state != .suspended && decide (2 * budgetOf s k ≤ k.count / 17) then
      let ts := ((kernTeams s n).filter fun e => e.2.placed).map fun e => e.1 % 4294967296
      let s1 := ts.foldl (fun s t => stopTeam s n t 3 0xFFFFFFFF) s
      let s2 := ((kernGroups s1 n).map (·.1)).foldl (fun s g => writeStop (markWatch s g) g) s1
      .next (endKernel s2 n .killed 5)
    else .next s

end Sys2Proof.Machine
end

