-- ==== Sys2Proof/Machine/Sync.lean ====
section
/-! DEFINITION. Fences and the drain of non-temporal stores (R218, R222), monitors (R226), and what the L1 caches do of their
own accord (R210). -/

namespace Sys2Proof.Machine

open Sys2Proof

/-- FENCE (R218): it takes its place in the group's program order at once; later accesses wait until it is in force. -/
def execFence (kind : BitVec 2) (scope : BitVec 3) (s : State) : Res :=
  issueA (.fence kind scope) s fun gid g s =>
    settleFences (setGrp s gid (advance (pushFence g (kind.getLsbD 0) (kind.getLsbD 1) scope.toNat))) gid

/-- The group has non-temporal stores that are not yet performed. -/
def ntPending (s : State) (gid : Nat) (g : Group) : Bool :=
  (g.saq.any fun e => e.nt) || s.fabric.reqs.any fun e => decide (e.2.g = gid) && e.2.op == 3 && e.2.nt

/-- DRAINNT (R222): waits by interlock until the group's earlier non-temporal stores are performed at their places. -/
def execDrainnt (s : State) : Res :=
  issueA .drainnt s fun gid g s =>
    if ntPending s gid g then s else modGrp (flushTo s g.core 3) gid advance

/-- The check of MON's address (R226): the reason of PROT for a place that cannot be watched. -/
def monFault (s : State) (ctxN pa : Nat) : Option Nat :=
  if isFabric pa || isAlias pa then some 5 else placeFault s ctxN pa

/-- MON (R226). -/
def execMon (a : BitVec 6) (s : State) : Res :=
  issueA (.mon a) s fun gid g s =>
    let addr := rs g a
    match translate s g.core g.ctx addr.toNat .read with
    | (s1, .error (c, w)) =>
      let w7 := if c = 0x02 ∧ g.refused.contains (addr.toNat / 4096) then 5 else w
      takeFault s1 gid (badInfo g ⟨c, addr, addr, w7⟩ 0)
    | (s1, .ok t) =>
      match monFault s1 g.ctx t.pa with
      | some r => takeFault s1 gid (badInfo g ⟨0x03, addr, addr, r⟩ 0)
      | none =>
        match fabricReason s1 g.core g.ctx t.pa with
        | some r => takeFault s1 gid (badInfo g ⟨0x0F, addr, addr, r⟩ 0)
        | none => modGrp s1 gid fun x => advance { x with mon := some (t.pa / 128, false) }

/-- MWAIT (R226): completes when the armed line was written or no monitor is armed, else blocks. -/
def execMwait (s : State) : Res :=
  issueA .mwait s fun gid g s =>
    match g.mon with
    | some (_, false) => blockOn s gid g .mwait
    | _ => setGrp s gid (advance { g with mon := none })

/-- A group blocked at MWAIT whose monitor has fired or gone is woken. -/
def wakeMonitor (g : Group) : Group :=
  match g.wake, g.mon with
  | some .mwait, some (_, false) => g
  | some .mwait, _ => { g with woken := true }
  | _, _ => g

/-- MONITOR_TRIGGER (R226): a write to the line has been performed at the home. -/
def execMonitorTrigger (gid : Nat) (s : State) : Res := .next (modGrp s gid wakeMonitor)

/-- MONITOR_DROP (R226): the home drops the monitor. -/
def execMonitorDrop (gid : Nat) (s : State) : Res := .next (modGrp s gid fun g => wakeMonitor { g with mon := none })

/-- L1_WRITEBACK_TIMEOUT (R210): a dirty line is written back. -/
def execL1WritebackTimeout (core line : Nat) (s : State) : Res := .next (cleanLine s core line)

/-- L1_CLEAN_DROP (R210): a clean line is dropped. -/
def execL1CleanDrop (core line : Nat) (s : State) : Res :=
  .next (modCore s core fun k => { k with l1 := k.l1.filter fun e => decide (e.1 ≠ line) || decide (e.2.dirty ≠ 0) })

end Sys2Proof.Machine
end

