-- ==== Sys2Proof/Machine/System.lean ====
section
/-! DEFINITION. Safe points, yields, traps, team stops and the group control registers (R360 to R363). -/

namespace Sys2Proof.Machine

open Sys2Proof

/-- A group that has retired an SP takes a pending yield request (R36, R360). -/
def takeYield (g : Group) : Group :=
  if g.yreq && g.stop.isNone then leaveIdle { g with st := .yielding, bqMark := g.bq.length } else g

/-- SP as an ordinary safe point: the last-SP index, the count, and a pending yield request (R360). -/
def safePoint (g : Group) (idx : BitVec 16) : Group :=
  takeYield { g with lastSp := some idx, spcnt := 0, follow := true }

/-- SP (R360). Inside a stub it ends the stub and goes on behind the SP of its own entry (R114); in handler state it only
sets the handler's last-SP index. -/
def execSp (idx : BitVec 16) (s : State) : Res :=
  issueA (.sp idx) s fun gid g s =>
    if inHandler g then setGrp s gid { advance g with hLastSp := some idx, hFollow := true }
    else
      match g.stub, kern? s g.kern with
      | some _, some k =>
        let at_ := ((k.table.drop idx.toNat).headD {}).pc
        setGrp s gid (safePoint { retire g (aBase k + BitVec.ofNat 64 at_ + 4) with stub := none } idx)
      | _, _ => setGrp s gid (safePoint (advance g) idx)

/-- YIELD (R361): posts a yield request to its team, or its grid under COOP, and stands at a blocking point until the team
has been placed again. -/
def execYield (s : State) : Res :=
  issueA .yield s fun gid g s =>
    if g.woken || g.replaced then setGrp s gid { advance g with replaced := false }
    else if g.stop.isSome then s
    else
      let s1 := postYield s g.kern g.team
      match grp? s1 gid with
      | some x => blockOn s1 gid x .yield
      | none => s1

/-- TRAP (R361). -/
def execTrap (a : BitVec 6) (s : State) : Res :=
  issueA (.trap a) s fun gid g s =>
    takeFault (setGrp s gid (advance g)) gid { code := 0x12, pc := g.pc, w7 := rs g a, done := true }

/-- Retire, then stop the team (R362); a team that is stopping already goes on with its first stop. -/
def stopHere (s : State) (gid : Nat) (g : Group) (reason : Nat) : State :=
  match g.stop with
  | some _ => setGrp s gid { advance g with st := .stopped }
  | none => stopTeam (setGrp s gid (advance g)) g.kern g.team reason (BitVec.ofNat 32 g.handle)

/-- BRK (R362). -/
def execBrk (s : State) : Res := issueA .brk s fun gid g s => stopHere s gid g 1

/-- TSTOP (R362). -/
def execTstop (s : State) : Res := issueA .tstop s fun gid g s => stopHere s gid g 2

/-! ### Group control registers (R363) -/

/-- PLACE: the group slot, the die and the core within it. -/
def placeReg (g : Group) : Nat := bits g.slot 0 5 * 2 ^ 16 + bits (coreDie g.core) 0 2 * 2 ^ 8 + g.core % 192

/-- LASTSP: the valid bit and the index; the handler's own in handler state. -/
def lastSpReg (g : Group) : Nat :=
  match (if inHandler g then g.hLastSp else g.lastSp) with
  | some i => 2 ^ 16 + i.toNat
  | none => 0

/-- YREQ: a request pending, and the kernel's first watchdog expiry. -/
def yreqReg (s : State) (g : Group) : Nat :=
  (if g.yreq then 1 else 0) + (if ((kern? s g.kern).map (·.first)).getD false then 2 else 0)

/-- The value of a control register. -/
def ctlReg (s : State) (g : Group) (n : Nat) : Word :=
  match n with
  | 0 => BitVec.ofNat 64 g.handle
  | 1 => BitVec.ofNat 64 g.kern
  | 2 => BitVec.ofNat 64 (placeReg g)
  | 3 => g.present.zeroExtend 64
  | 4 => BitVec.ofNat 64 g.spcnt
  | 5 => BitVec.ofNat 64 (lastSpReg g)
  | 6 => BitVec.ofNat 64 (slip s g)
  | 7 => BitVec.ofNat 64 (spawns s g)
  | 8 => BitVec.ofNat 64 (ftime s)
  | 9 => BitVec.ofNat 64 g.retired
  | 10 => BitVec.ofNat 64 (yreqReg s g)
  | 11 => g.fvec.zeroExtend 64
  | 12 => g.poison.zeroExtend 64
  | _ => BitVec.ofNat 64 g.hcst

/-- CSRR (R363). -/
def execCsrr (d n : BitVec 6) (s : State) : Res :=
  issueA (.csrr d n) s fun gid g s => setGrp s gid (advance (ws g d (ctlReg s g n.toNat)))

/-- Write a control register under its access code: FVEC, a value not a multiple of 4 read as none; POISON, write one to
clear; every other is read-only. -/
def putCtl (g : Group) (n : Nat) (v : Word) : Group :=
  match n with
  | 11 => { g with fvec := if v.toNat % 4 = 0 then v.truncate 32 else 0xFFFFFFFF }
  | 12 => { g with poison := g.poison &&& ~~~(v.truncate 32) }
  | _ => g

/-- CSRW (R363). -/
def execCsrw (a n : BitVec 6) (s : State) : Res :=
  issueReg (.csrw a n) s fun g => advance (putCtl g n.toNat (rs g a))

end Sys2Proof.Machine
end

