-- ==== Sys2Proof/Machine/Ready.lean ====
section
/-! DEFINITION. Which groups are ready in which stream (R46), and which of them a stream issues from (R47). -/

namespace Sys2Proof.Machine

open Sys2Proof

/-! ### Interlocks (R28, R46) -/

/-- What an A-instruction that may wait by interlock would do now; the others never wait. -/
def tryA (i : Instr) (s : State) : Option Res :=
  match i with
  | .vaadd d a b => some (execVaadd d a b s)
  | .vaadds d a b => some (execVaadds d a b s)
  | .vasub d a b => some (execVasub d a b s)
  | .vamuls d a b => some (execVamuls d a b s)
  | .vamads d a b => some (execVamads d a b s)
  | .vashls d a b => some (execVashls d a b s)
  | .vashrs d a b => some (execVashrs d a b s)
  | .vaands d a b => some (execVaands d a b s)
  | .vaiota d a b => some (execVaiota d a b s)
  | .vamovs d a => some (execVamovs d a s)
  | .vaext d a b => some (execVaext d a b s)
  | .vains d a b => some (execVains d a b s)
  | .valtm d a b => some (execValtm d a b s)
  | .vaeqm d a b => some (execVaeqm d a b s)
  | .bxq cc off => some (execBxq cc off s)
  | .brs policy m off => some (execBrs policy m off s)
  | .brx aa base len => some (execBrx aa base len s)
  | .join => some (execJoin s)
  | .ends => some (execEnds s)
  | .disp off => some (execDisp off s)
  | .xpop d => some (execXpop d s)
  | .xpeek d => some (execXpeek d s)
  | .ld ty asp nt aa sb off => some (execLd ty asp nt aa sb off s)
  | .lda ty asp nt aa sb d => some (execLda ty asp nt aa sb d s)
  | .lds d a imm => some (execLds d a imm s)
  | .ldsw d a imm => some (execLdsw d a imm s)
  | .st ty asp nt aa sb off => some (execSt ty asp nt aa sb off s)
  | .sts d a imm => some (execSts d a imm s)
  | .ldf ty nt aa sb => some (execLdf ty nt aa sb s)
  | .atom aop asp sc aa sb at_ rv => some (execAtom aop asp sc aa sb at_ rv s)
  | .atoms aop sc d a b => some (execAtoms aop sc d a b s)
  | .pref ty asp nt aa sb off => some (execPref ty asp nt aa sb off s)
  | .cpy d a => some (execCpy d a s)
  | .cpysp d a => some (execCpysp d a s)
  | .gath d a => some (execGath d a s)
  | .scat d a => some (execScat d a s)
  | .spillb d a => some (execSpillb d a s)
  | .filla d a => some (execFilla d a s)
  | .binit asp a b => some (execBinit asp a b s)
  | .barrive rel asp d a b => some (execBarrive rel asp d a b s)
  | .bexpect asp a b => some (execBexpect asp a b s)
  | .bwait asp a b => some (execBwait asp a b s)
  | .btest asp d a b => some (execBtest asp d a b s)
  | .bstat asp d a b => some (execBstat asp d a b s)
  | .drainnt => some (execDrainnt s)
  | .enq d a b => some (execEnq d a b s)
  | .deq d a => some (execDeq d a s)
  | _ => none

/-- What a C-instruction that may wait beside its queues would do now (R335, R340, R342). -/
def tryC (i : Instr) (s : State) : Option Res :=
  match i with
  | .mma f => some (execMma f s)
  | .mzero f => some (execMzero f s)
  | .mload f => some (execMload f s)
  | .mstore f => some (execMstore f s)
  | .mdrain f => some (execMdrain f s)
  | .mdrainWindow f => some (execMdrainWindow f s)
  | .mbw f => some (execMbw f s)
  | _ => none

/-- Nothing came of a try: the group stands where it stood, in the state it was in, and sent nothing. -/
def noMove (s : State) (gid : Nat) (r : Res) : Bool :=
  match r with
  | .next t =>
    match grp? s gid, grp? t gid with
    | some a, some b => decide (a.pc = b.pc) && decide (a.retired = b.retired) && decide (a.st = b.st) && decide (a.cpos = b.cpos)
        && decide (s.serial = t.serial)
    | _, _ => false
  | _ => false

/-- The state in which a group would try its next instruction: in the active set, ACTIVE unless it is a handler, its streams
named as the actor. -/
def tryState (s : State) (gid : Nat) (g : Group) (st : GState) : State :=
  { setGrp s gid { g with st := st, out := false, stop := none } with cur := .group gid }

/-- The A-instruction would wait by interlock. -/
def waitsA (s : State) (gid : Nat) (g : Group) (i : Instr) : Bool :=
  let s1 := tryState s gid g (if g.st = .handler then .handler else .active)
  match tryA i s1 with
  | some r => noMove s1 gid r
  | none => false

/-! ### Readiness (R46) -/

/-- The A-stream is ready: a fetch that faults, a fault kept for the instruction boundary (R38), or an instruction that no
interlock holds. -/
def readyA (s : State) (gid : Nat) (g : Group) : Bool :=
  (g.st == .handler || g.st == .active || g.st == .pending) &&
    match kern? s g.kern with
    | none => false
    | some k =>
      (!inHandler g && !g.afaults.isEmpty) ||
        match fetchA s g k with
        | (_, .ok i) => !waitsA s gid g i
        | (_, .error _) => true

/-- The next C-instruction, in the group as it stands at it: inside a block, or at the start of the next one. -/
def nextC (s : State) (g0 : Group) : Option (Group × Instr) :=
  let g := startBlock g0
  match g.cpos, kern? s g.kern with
  | some p, some k =>
    match fetchC s g k p with
    | (_, .ok i) => some (g, i)
    | (_, .error _) => none
  | _, _ => none

/-- The C-instruction would wait by interlock. -/
def waitsC (s : State) (gid : Nat) (g : Group) (i : Instr) : Bool :=
  let s1 := tryState s gid g .active
  match tryC i s1 with
  | some r => noMove s1 gid r
  | none =>
    match kern? s g.kern with
    | some k => cWaits g i (cEnv k g i)
    | none => true

/-- A state in which the C-stream may issue once the group is in the active set. -/
def cState (g : Group) : Bool := g.st == .active || g.st == .pending || g.st == .blocked || g.st == .yielding

/-- The C-stream is ready. -/
def readyC (s : State) (gid : Nat) (g : Group) : Bool :=
  cState g && !cIdle g && !(g.cpos.isNone && spillHolds s gid) &&
    match nextC s g with
    | some (x, i) => !waitsC s gid x i
    | none => true

/-- A group is ready. -/
def ready (s : State) (gid : Nat) (g : Group) : Bool := readyA s gid g || readyC s gid g

/-! ### The choice among ready groups (R47) -/

/-- No other ready group of the core's active set issued less recently in the A-stream. -/
def turnA (s : State) (gid : Nat) (g : Group) : Bool :=
  s.groups.all fun e => e.1 == gid || e.2.core != g.core || decide (g.lastA ≤ e.2.lastA) || !canIssue e.2 || !readyA s e.1 e.2

/-- No other ready group of the core's active set issued less recently in the C-stream. -/
def turnC (s : State) (gid : Nat) (g : Group) : Bool :=
  s.groups.all fun e => e.1 == gid || e.2.core != g.core || decide (g.lastC ≤ e.2.lastC) || !canIssueC e.2 || cIdle e.2
    || !readyC s e.1 e.2

/-- The streams that may issue and whose turn it is, each with the time it last issued. -/
def candidates (s : State) : List (Nat × Move) :=
  s.groups.flatMap fun e =>
    let g := e.2
    (if canIssue g && readyA s e.1 g && turnA s e.1 g then [(g.lastA, Move.a e.1)] else [])
      ++ (if canIssueC g && !cIdle g && readyC s e.1 g && turnC s e.1 g then [(g.lastC, Move.c e.1)] else [])

/-- The candidate that issued least recently. -/
def oldestMove : List (Nat × Move) → Option (Nat × Move)
  | [] => none
  | e :: rest =>
    match oldestMove rest with
    | none => some e
    | some b => if e.1 ≤ b.1 then some e else some b

/-- The next turn: the agenda's head, or, with an empty agenda, the stream that issued least recently one cycle on
(log 1). -/
def nextTurn (s : State) : Option Turn × List Turn :=
  match s.agenda with
  | t :: rest => (some t, rest)
  | [] => ((oldestMove (candidates s)).map fun e => { dt := cycles 1, move := e.2 }, [])

end Sys2Proof.Machine
end

