-- ==== Sys2Proof/Machine/Bramble.lean ====
section
/-! DEFINITION. The active set of a core (R46 to R49), waking (R52), and Bramble: forming, placing, evicting and restoring
spawned groups (R57 to R61, R67, R397). -/

namespace Sys2Proof.Machine

open Sys2Proof

/-! ### The active set (R46, R48, R49) -/

/-- A group has a place in its core's active set. A STOPPED group keeps the place it had (log 41). -/
def inSet (g : Group) : Bool :=
  !g.out && (g.st == .active || g.st == .handler || g.st == .blocked || g.st == .yielding || g.st == .stopped)

/-- A group waits to enter the active set: PENDING, or in a state that issues but without a place (log 41). -/
def awaitsSet (g : Group) : Bool :=
  g.st == .pending || (g.out && (g.st == .active || g.st == .handler || ((g.st == .blocked || g.st == .yielding) && !cIdle g)))

/-- The group of a list that entered its set first. -/
def eldest (gs : List (Nat × Group)) : Option (Nat × Group) :=
  gs.foldl (fun (b : Option (Nat × Group)) e => match b with
    | none => some e
    | some x => if e.2.setSince < x.2.setSince then some e else some x) none

/-- The groups of a core in some state. -/
def coreGroups (s : State) (c : Nat) (st : GState) : List (Nat × Group) :=
  s.groups.filter fun e => e.2.core = c ∧ e.2.st = st

/-- The ACTIVE groups of a core that a swap or promotion may displace (R52). -/
def activeSet (s : State) (c : Nat) : List (Nat × Group) := (coreGroups s c .active).filter fun e => inSet e.2

/-- The ready groups of the pending set. -/
def readyPending (s : State) (c : Nat) : List (Nat × Group) :=
  s.groups.filter fun e => e.2.core = c ∧ awaitsSet e.2 = true ∧ ready s e.1 e.2 = true

/-- Groups in the active set. -/
def setSize (s : State) (c : Nat) : Nat := (s.groups.filter fun e => e.2.core = c ∧ inSet e.2 = true).length

/-- Move a group into the active set. -/
def enterSet (s : State) (gid : Nat) : State :=
  modGrp s gid fun g => { g with st := if g.st = .pending then .active else g.st, out := false, obuf := [], setSince := s.now }

/-- Move a group out of the active set; its operand buffer is given up (R50). -/
def leaveSet (s : State) (gid : Nat) : State :=
  modGrp s gid fun g => { g with st := .pending, setSince := s.now, obuf := [] }

/-- ACTIVE_SET_FILL (R48). -/
def execActiveSetFill (core : Nat) (s : State) : Res :=
  if 8 ≤ setSize s core then .next s
  else
    match eldest (readyPending s core) with
    | some (gid, _) => .next (enterSet s gid)
    | none => .next s

/-- An LQ slot has been outstanding for more than 512 cycles, or awaits remote data (R48): one of a load, or of a fetching
atomic still in SAQ or on its way. -/
def slotLong (s : State) (gid : Nat) (g : Group) (num : Nat) : Bool :=
  (g.loads.any fun l =>
    decide (l.first ≤ num) && decide (num < l.first + loadEntries l.kind)
      && (decide (l.at_ + cycles 512 < s.now) || (remoteWords l.acc l.lanes).any fun w => (SMap.find? l.data w).isNone))
  || (g.saq.any fun e =>
    e.rv && decide (e.resv ≤ num) && decide (num < e.resv + e.size / 4)
      && (decide (e.at_ + cycles 512 < s.now) || (lanesOf e.mask).any (isRemoteLane e)))
  || s.fabric.reqs.any fun e =>
    decide (e.2.g = gid) && e.2.op == 4 && e.2.line.rv && !e.2.sync && !e.2.held && decide (e.2.resv ≤ num)
      && decide (num < e.2.resv + (if e.2.line.at64 then 2 else 1))

/-- The C-stream's next instruction waits on an LQ slot that has waited long (R48). -/
def waitsLong (s : State) (gid : Nat) (g : Group) : Bool :=
  match nextC s g with
  | none => false
  | some (x, i) =>
    let n := lqNeed (cFields i).ty.toNat (operands i) 0
    ((x.lq.take n).zipIdx.any fun e => e.1.st != .complete && slotLong s gid g (g.resv - slip s g + e.2))

/-- ACTIVE_SWAP (R48): a group whose C-stream waits long and whose A-stream cannot issue gives its place to the oldest ready
group of the pending set. -/
def execActiveSwap (core : Nat) (s : State) : Res :=
  match (activeSet s core).find? fun e => waitsLong s e.1 e.2 && !readyA s e.1 e.2, eldest (readyPending s core) with
  | some (out, _), some (in_, _) => .next (enterSet (leaveSet s out) in_)
  | _, _ => .next s

/-- PENDING_PROMOTION (R49). -/
def execPendingPromotion (core : Nat) (s : State) : Res :=
  if s.now < (coreOf s core).lastPromotion + cycles 4096 then .next s
  else
    let s1 := modCore s core fun k => { k with lastPromotion := s.now }
    let waited := (readyPending s core).filter fun e => e.2.setSince + cycles 4096 ≤ s.now
    match eldest waited, eldest (activeSet s core) with
    | some (in_, _), some (out, _) => .next (enterSet (leaveSet s1 out) in_)
    | _, _ => .next s1

/-! ### Waking (R52) -/

/-- A BLOCKED group becomes PENDING. -/
def wakeUp (s : State) (gid : Nat) : State :=
  modGrp s gid fun g => { g with st := .pending, woken := true, obuf := [], setSince := s.now }

/-- GROUP_WAKE (R52): the wake condition of a BLOCKED group is met. -/
def execGroupWake (gid : Nat) (s : State) : Res :=
  match grp? s gid with
  | none => .next s
  | some g =>
    if g.st ≠ .blocked then .next s
    else
      let met : Option State := match g.wake with
        | some (.bwait _ _ _ _) => if g.woken then some s else none
        | some .mwait => if g.woken || !(match g.mon with | some (_, false) => true | _ => false) then some s else none
        | some (.deq q) => wakeDeq s gid g q
        | some .join => if spawns s g = 0 then some s else none
        | some .xpop => if g.xq.isEmpty then none else some s
        | some .lda => if g.ldaDone then some s else none
        | _ => none
      match met with
      | some s1 => .next (wakeUp s1 gid)
      | none => .next s

/-! ### Forming (R57, R58) -/

/-- A team that is STOPPED or being saved: Bramble launches nothing for it (R58). The spec does not say from when a team counts
as being saved: here from the moment a yield request of one of its groups is pending (log 44). -/
def teamHeld (s : State) (k t : Nat) : Bool :=
  let gs := teamGroups s k t
  (gs.any fun e => e.2.stop.isSome || e.2.yreq) || gs.all (fun e => e.2.st == .saved)
    || !((team? s k t).map (·.placed)).getD false

/-- Replace a forming entry of a die. -/
def modForming (s : State) (d e : Nat) (f : Forming → Forming) : State :=
  modDie s d fun x => { x with forming := SMap.modify x.forming e f }

/-- Launch an entry: it takes its place in launch order. -/
def launchEntry (s : State) (d e : Nat) : State := modForming s d e fun f => { f with launched := some s.now }

/-- The cycle of a time. -/
def cycleOf (t : Nat) : Nat := t / cycles 1

/-- Entry `a`, launched at `m`, comes before entry `b`, launched at `n`: by the cycle of the launch, then by opening, whose
order the entries' numbers give (R58, R397). -/
def launchedBefore (a m b n : Nat) : Bool := decide (cycleOf m < cycleOf n) || (cycleOf m == cycleOf n && decide (a < b))

/-- The open entries of a die. -/
def openEntries (s : State) (d : Nat) : List (Nat × Forming) := (dieSt s d).forming.filter fun e => e.2.launched.isNone

/-- The entry that opened first among those whose team may launch. -/
def firstOpened (s : State) (d : Nat) : Option Nat :=
  (((openEntries s d).filter fun e => !teamHeld s e.2.kern e.2.team).foldl
    (fun (b : Option (Nat × Forming)) e => match b with
      | none => some e
      | some x => if e.2.opened < x.2.opened then some e else some x) none).map (·.1)

/-- Open an entry with one record. -/
def openEntry (s : State) (d kn t : Nat) (target : Word) (i : Nat) : State :=
  let n := newSerial s
  modDie n.2 d fun x => { x with
    forming := SMap.put x.forming n.1 { kern := kn, team := t, target := target, records := [i], opened := s.now } }

/-- Add a record to an entry, which launches when it is full. -/
def joinEntry (s : State) (d e i : Nat) (f : Forming) : State :=
  let s1 := modForming s d e fun f => { f with records := f.records ++ [i] }
  if f.records.length + 1 = 32 ∧ teamHeld s f.kern f.team = false then launchEntry s1 d e else s1

/-- A record that Bramble has received leaves the queue, in state 2. -/
def received (s : State) (d cn i : Nat) : State :=
  modDie (ctxPut s cn (recAddr s cn i + 25) 1 2) d fun x => { x with waiting := x.waiting.tail }

/-- SPAWN_RECORD_ARRIVAL (R57). -/
def execSpawnRecordArrival (die : Nat) (s : State) : Res :=
  match (dieSt s die).waiting with
  | [] => .next s
  | (cn, i) :: _ =>
    let kn := recRead s cn i 0 8
    let t := recRead s cn i 12 4
    let target := BitVec.ofNat 64 (recRead s cn i 16 8)
    match (openEntries s die).find? fun e => e.2.kern = kn ∧ e.2.team = t ∧ e.2.target = target ∧ e.2.records.length < 32 with
    | some (e, f) => .next (joinEntry (received s die cn i) die e i f)
    | none =>
      if (openEntries s die).length < 64 then .next (openEntry (received s die cn i) die kn t target i)
      else
        match firstOpened s die with
        | some e => .next (openEntry (received (launchEntry s die e) die cn i) die kn t target i)
        | none => .next s

/-- An entry that may launch: open, and of a team neither stopped nor being saved. -/
def mayLaunch (s : State) (d e : Nat) : Option Forming :=
  (SMap.find? (dieSt s d).forming e).filter fun f => f.launched.isNone && !teamHeld s f.kern f.team

/-- FORMING_TIMEOUT (R58): 2,048 cycles since the first record; an entry that filled while its team was held launches too. -/
def execFormingTimeout (die e : Nat) (s : State) : Res :=
  match mayLaunch s die e with
  | none => .next s
  | some f =>
    if f.opened + cycles 2048 ≤ s.now ∨ f.records.length = 32 then .next (launchEntry s die e) else .next s

/-- FORMING_JOIN_STALL_LAUNCH (R58): a group of the team waits in JOIN, and no group of the core is ready. -/
def execFormingJoinStallLaunch (die e : Nat) (s : State) : Res :=
  match mayLaunch s die e with
  | none => .next s
  | some f =>
    let core := ((team? s f.kern f.team).map (·.core)).getD 0
    let waits := (teamGroups s f.kern f.team).any fun x => x.2.st == .blocked && decide (x.2.wake = some .join)
    if waits && !((slotHolders s core).any fun x => ready s x.1 x.2) then .next (launchEntry s die e) else .next s

/-! ### Placing a formed group (R59, R397) -/

/-- Records in (origin handle, lane) order. -/
def sortRecs (s : State) (cn : Nat) (rs : List Nat) : List Nat :=
  let key (i : Nat) : Nat := 32 * recRead s cn i 8 4 + recRead s cn i 24 1
  rs.foldl (fun acc i => waitingOf.ins key i acc) []

/-- Load one lane of a formed group from its record; the s-words come from lane 0's. -/
def formLane (s : State) (k : Kernel) (cn : Nat) (g : Group) (e : Nat × Nat) : Group :=
  loadRegs g e.2 (e.2 == 0) (carried (spEntry k (recRead s cn e.1 28 2))) (recRead s cn e.1 64 128)

/-- The index that the group of a handle reports (R19). -/
def originIndex (s : State) (kn t handle : Nat) : Nat :=
  ((List.find? (fun x : Nat × Group => x.2.kern = kn ∧ x.2.team = t ∧ x.2.handle = handle) s.groups).map (·.2.index)).getD 0

/-- Form a group of an entry's records at a slot and a group-table entry. -/
def formGroup (s : State) (d e : Nat) (f : Forming) (k : Kernel) (x : Team) (slot entry : Nat) : State :=
  let cn := k.ctx
  let rs := sortRecs s cn f.records
  let n := rs.length
  let m := maskOf (List.range n)
  let r0 := rs.headD 0
  let g0 : Group :=
    { ctx := cn, entry := entry, kern := f.kern, team := f.team, handle := 16 + x.serial
      index := originIndex s f.kern f.team (recRead s cn r0 8 4), spawned := true, core := x.core, slot := slot
      pc := f.target, em := m, present := m, recs := rs, fvec := BitVec.ofNat 32 k.hdr.fvec, setSince := s.now }
  let help := (lanesOf (helpers m)).map fun l => (rs.getD (4 * (l / 4)) r0, l)
  let g := (rs.zipIdx ++ help).foldl (formLane s k cn) g0
  let s1 := rs.foldl (fun s i => ctxPut s cn (recAddr s cn i + 25) 1 3) (setGrp s (gidAt cn entry) g)
  let s2 := modDie s1 d fun y => { y with forming := SMap.erase y.forming e }
  modTeam (freshEntry s2 g) f.kern f.team fun y => { y with serial := y.serial + 1 }

/-- An evicted or slotless group of a core that could be restored now (R61, R67). -/
def restorable (s : State) (g : Group) : Bool :=
  g.st == .saved && ((team? s g.kern g.team).map (·.placed)).getD false && !teamHeld s g.kern g.team
    && (!g.evict || spawns s g == 0)

/-- FORMED_GROUP_PLACE (R58, R59): a launched entry takes a free slot and group-table entry, after earlier launches and
behind groups to be restored; it does so after the cycle of its launch, so that the entries launched in one cycle are ordered
among themselves (R397). -/
def execFormedGroupPlace (die e : Nat) (s : State) : Res :=
  match SMap.find? (dieSt s die).forming e with
  | none => .next s
  | some f =>
    match f.launched, kern? s f.kern, team? s f.kern f.team with
    | some n, some k, some x =>
      let core (g : Forming) : Option Nat := (team? s g.kern g.team).map (·.core)
      let earlier := (dieSt s die).forming.any fun y =>
        core y.2 = some x.core && !teamHeld s y.2.kern y.2.team
          && match y.2.launched with | some m => launchedBefore y.1 m e n | none => false
      let ahead := s.groups.any fun y => decide (y.2.core = x.core) && restorable s y.2
      if teamHeld s f.kern f.team || earlier || ahead || decide (cycleOf s.now ≤ cycleOf n) then .next s
      else
        match (freeSlots s x.core).head?, freeEntry s k.ctx with
        | some slot, some entry => .next (formGroup s die e f k x slot entry)
        | _, _ => .next s
    | _, _, _ => .next s

/-! ### Eviction (R61) -/

/-- The spawned groups of a team blocked at JOIN, longest first, whose record the pool has room for. -/
def victim (s : State) (k : Kernel) (kn t : Nat) : Option (Nat × Group) :=
  let gs := (teamGroups s kn t).filter fun e =>
    e.2.spawned && e.2.st == .blocked && decide (e.2.wake = some .join)
      && (poolPlace (ctxOf s k.ctx) (inUnits (recSize k e.2))).isSome
  gs.foldl (fun (b : Option (Nat × Group)) e => match b with
    | none => some e
    | some x => if e.2.blockedAt < x.2.blockedAt then some e else some x) none

/-- SPAWNED_GROUP_EVICT (R61): a launched entry waits for a slot; the group blocked longest starts its cut. -/
def execSpawnedGroupEvict (die e : Nat) (s : State) : Res :=
  match SMap.find? (dieSt s die).forming e with
  | none => .next s
  | some f =>
    match f.launched, kern? s f.kern, team? s f.kern f.team with
    | some _, some k, some x =>
      let busy := (teamGroups s f.kern f.team).any fun y => y.2.st == .yielding && y.2.evict
      if busy || teamHeld s f.kern f.team || !(freeSlots s x.core).isEmpty then .next s
      else
        match victim s k f.kern f.team with
        | none => .next s
        | some (gid, g) =>
          match poolTake s k.ctx (recSize k g) with
          | none => .next s
          | some (off, s1) =>
            .next (setGrp s1 gid { g with st := .yielding, evict := true, saveAt := off, bqMark := g.bq.length })
    | _, _, _ => .next s

/-- EVICTED_GROUP_RESTORE (R61, R67): a saved group of a placed team takes a free slot, lower handles first. A
record that cannot be read makes the context FAULTED (R173). -/
def execEvictedGroupRestore (gid : Nat) (s : State) : Res :=
  match grp? s gid with
  | none => .next s
  | some g =>
    match kern? s g.kern, (freeSlots s g.core).head? with
    | some k, some slot =>
      let lower := (teamGroups s g.kern g.team).any fun e =>
        restorable s e.2 && !e.2.evict && !g.evict && decide (e.2.handle < g.handle)
      if !restorable s g || lower then .next s
      else if g.evict then
        let c := ctxOf s g.ctx
        if badRun s (c.savePool + g.saveAt) (recSize k g) then
          .next (if c.state = .faulted then s else setCState s g.ctx .faulted 2)
        else
        let bs := ctxBytes s g.ctx (c.savePool + g.saveAt) (recSize k g)
        let r := loadRecord s k { g with slot := slot } bs
        .next (freeSave (setGrp r.1 gid r.2) g.ctx g.saveAt)
      else
        .next (setGrp s gid { g with slot := slot, st := if g.whole then .parked else .pending, whole := false, setSince := s.now })
    | _, _ => .next s

end Sys2Proof.Machine
end

