-- ==== Sys2Proof/Machine/Fabric.lean ====
section
/-! DEFINITION. The fabric: packets of the coalescer and their answers (R192, R195 to R204), exports (R194), and the
die-to-die links (R186 to R191). -/

namespace Sys2Proof.Machine

open Sys2Proof

/-! ### Line requests -/

/-- The fabric address of an offset in a package (R132). -/
def fabricAddr (pkg off : Nat) : Nat := 2 ^ 55 + 2 ^ 43 * pkg + off

def setReq (s : State) (n : Nat) (r : RReq) : State :=
  { s with fabric := { s.fabric with reqs := SMap.put s.fabric.reqs n r } }

/-- Packets none of whose requests is outstanding any more are forgotten (R204). -/
def pruneSent (m : SMap Sent) (reqs : SMap RReq) : SMap Sent :=
  m.filter fun e => e.2.reqs.any fun n => (SMap.find? reqs n).isSome

/-- A line request is answered: its tag is free (R198). -/
def dropReq (s : State) (n : Nat) : State :=
  let rs := SMap.erase s.fabric.reqs n
  { s with fabric := { s.fabric with reqs := rs, sent := pruneSent s.fabric.sent rs } }

/-- Bytes of an atomic line request's words. -/
def lineWidth (l : LineReq) : Nat := if l.at64 then 8 else 4

/-- The first byte a line request accesses, as an offset in its line. -/
def firstByte (op : Nat) (l : LineReq) : Nat :=
  let low := ((List.range 128).find? fun i => l.mask.getLsbD i).getD 0
  match op with
  | 1 => 8 * low
  | 3 => low
  | _ => ((l.lanes.head?.map fun x => x.offset).getD 0)

/-- The byte after the last one a line request accesses. -/
def lastByte (op : Nat) (l : LineReq) : Nat :=
  let high := (List.range 128).foldl (fun m i => if l.mask.getLsbD i then i + 1 else m) 0
  match op with
  | 1 => 8 * high
  | 3 => high
  | _ => l.lanes.foldl (fun m x => Nat.max m (x.offset + lineWidth l)) 0

/-! ### Failing line requests (R199, R201, R202) -/

/-- Add returned words to the loads with a stamp, in flight or held by a fault. -/
def addWords (g : Group) (stamp : Nat) (ws : List (Nat × Word)) : Group :=
  let up (r : LoadReq) : LoadReq :=
    if r.stamp = stamp then { r with data := ws.foldl (fun m e => SMap.put m e.1 e.2) r.data } else r
  let upHeld (h : Held) : Held :=
    match h.kind with
    | .load r => { h with kind := .load (up r) }
    | _ => h
  { g with loads := g.loads.map up, held := g.held.map upHeld, afaults := g.afaults.map fun e => (e.1, e.2.map upHeld) }

/-- The lanes of a load that a failed line request leaves without data take a fault of the slot; the others go on, and lanes
that are no longer present receive zero (R292). -/
def failRead (s : State) (r : RReq) (code why : Nat) : State :=
  match grp? s r.g with
  | none => s
  | some g =>
    match g.loads.find? fun x => x.stamp = r.stamp with
    | none => s
    | some l =>
      let hit := l.lanes &&& r.lanes
      let lost := hit &&& g.present
      let s1 := zeroGone (dropLanes s r.g l.stamp hit) r.g l (hit &&& ~~~g.present)
      if lost = 0 then s1
      else
        let a := SMap.get l.acc {} ((lanesOf lost).headD 0)
        let s2 := if code = 0x0E then
            modEntries s1 r.g l.first (fun _ e => { e with poisoned := e.poisoned ||| lost }) (loadEntries l.kind) else s1
        raiseSlot s2 r.g l (slotFault l code lost a (hitOff (fabricAddr r.dst (128 * r.line.line) / 128) 0 a.parts) why)

/-- A line request fails: the fault of the slot for a read or a fetching atomic, that of a store for the rest. -/
def failReq (s : State) (n : Nat) (code why : Nat) : State :=
  match SMap.find? s.fabric.reqs n with
  | none => s
  | some r =>
    if r.sync then modGrp (dropReq s n) r.g fun g => { g with rbad := some (r.addr.toNat, code, why) }
    else if r.op = 1 then failRead (dropReq s n) r code why
    else if r.op = 4 ∧ r.line.rv = true then
      let k := lineWidth r.line / 4
      let s1 := setReq s n { r with held := true, sent := false, retryAt := none, refusedAt := none, tries := 0 }
      let s2 := { s1 with fabric := { s1.fabric with sent := pruneSent s1.fabric.sent (SMap.erase s1.fabric.reqs n) } }
      let s3 := if code = 0x0E then modEntries s2 r.g r.resv (fun _ e => { e with poisoned := e.poisoned ||| r.lanes }) k else s2
      raiseAsync (holdEntries s3 r.g r.resv k) r.g
        { code := code, pc := r.pc, w3 := r.addr, w4 := r.addr, w5 := r.lanes, w7 := BitVec.ofNat 64 why, inslot := true
          slot := some r.resv }
        (some { kind := .remote [n], issue := r.issue, first := r.resv, entries := k, done := true })
    else
      raiseAsync (dropReq s n) r.g (lateStore r.pc r.addr r.addr r.lanes code why) none

/-! ### Sending (R196, R200, R202) -/

/-- Requests of two kinds are kept in order at one line: stores and atomics. -/
def isUpdate (r : RReq) : Bool := r.op == 3 || r.op == 4

/-- A request may leave: nothing of the same core to its line that R200 and R202 put before it is unanswered, and for a
read, no earlier access or fence of its group that R216 and R218 put before it; and the link it takes is not RETRAINING
(R186). -/
def sendable (s : State) (e : Nat × RReq) : Bool :=
  let r := e.2
  !r.held && !r.sent && !linkWaits s (coreDie r.core) (fabricAddr r.dst (128 * r.line.line)) &&
    (if isUpdate r then
      !((coreReqs s r.core).any fun x => decide (x.1 < e.1) && isUpdate x.2 && decide (x.2.dst = r.dst)
        && decide (x.2.line.line = r.line.line))
    else
      match grp? s r.g with
      | none => true
      | some g =>
        accessOk g r.stamp false
          && !(s.fabric.reqs.any fun x => decide (x.2.g = r.g) && decide (x.2.stamp < r.stamp) && isUpdate x.2
            && decide (x.2.dst = r.dst) && decide (x.2.line.line = r.line.line))
          && !(s.fabric.reqs.any fun x => decide (x.2.g = r.g) && decide (x.2.stamp < r.stamp) && x.2.op == 1
            && decide (x.2.dst = r.dst) && decide (x.2.line.line = r.line.line) && x.2.line.mask &&& r.line.mask != 0)
          && !(g.saq.any fun x => decide (x.stamp < r.stamp) && (lanesOf x.mask).any fun l =>
            isRemoteLane x l && decide (SMap.get x.addr 0 l / 128 = fabricAddr r.dst (128 * r.line.line) / 128)))

/-- The requests of the open packet that request `n` belongs to: one core, destination, operation and source partition. -/
def openPacket (s : State) (core : Nat) (r : RReq) : List (Nat × RReq) :=
  (((coreReqs s core).take 4096).filter fun e =>
    decide (e.2.dst = r.dst) && decide (e.2.op = r.op) && decide (e.2.part = r.part) && sendable s e).take 16

/-- `k` consecutive tags from `t` on that no request of the core holds. -/
def tagsFree (s : State) (core t k : Nat) : Bool :=
  !((coreReqs s core).any fun e => e.2.sent && decide ((e.2.tag + 4096 - t) % 4096 < k))

/-- The tags of a packet of `k` requests: the first run that is free, from the core's next tag on. -/
def pickTags (s : State) (core k : Nat) : Option Nat :=
  let t0 := (coreOf s core).nextTag
  ((List.range 4096).map fun i => (t0 + i) % 4096).find? fun t => tagsFree s core t k

/-- The tag field of a request packet (R197). -/
def packetTag (core t : Nat) : Nat := 2 ^ 20 * coreDie core + 2 ^ 12 * (core % 192) + t

/-- The number of a line of a package, from which its port is chosen (R193). -/
def lineKeyOf (pkg line : Nat) : Nat := 2 ^ 36 * pkg + line

/-- A packet leaves the package on the port that its first line chooses among those of the route, if the ports are up (R193,
R406 step 7, log 11). `part` is the partition it is sent for; an answer is sent for none. -/
def leave (s : State) (p : Packet) (part : Option Nat) (idem : Bool) (seq line : Nat) : State :=
  let mask := match part with
    | some x => partRoute s x p.dst
    | none => routeMask s p.dst
  match (if s.fabric.portsUp then pickPort mask (Config.portHash (lineKeyOf p.dst line)) else none) with
  | none => s
  | some port =>
    { s with fabric := { s.fabric with out := s.fabric.out ++
        [{ src := s.fabric.pkgId, part := part, dst := p.dst, port := port, idem := idem, seq := seq, bytes := packetBytes p }] } }

/-- The line of a packet's first request. -/
def firstLine (p : Packet) : Nat := ((p.reqs.head?).map (·.line)).getD 0

/-- Send a packet for a partition for the first time, and hold it until its requests `ids` are answered (R192, R204). -/
def sendFirst (s : State) (p : Packet) (part : Nat) (ids : List Nat) : State :=
  let s1 := leave { s with serial := s.serial + 1 } p (some part) false s.serial (firstLine p)
  { s1 with fabric := { s1.fabric with
      sent := SMap.put s1.fabric.sent s.serial { pkt := p, part := part, seq := s.serial, reqs := ids, at_ := s.now } } }

/-- Send a packet of some requests with consecutive tags. -/
def sendPacket (s : State) (core t : Nat) (r : RReq) (ms : List (Nat × RReq)) : State :=
  let p : Packet := { op := r.op, src := s.fabric.pkgId, dst := r.dst, tag := packetTag core t
                      reqs := ms.map fun e => e.2.line, status := [], words := [] }
  let s1 := ms.zipIdx.foldl (fun s e =>
    setReq s e.1.1 { e.1.2 with tag := (t + e.2) % 4096, sent := true, began := s.now }) s
  sendFirst (modCore s1 core fun c => { c with nextTag := (t + ms.length) % 4096 }) p r.part (ms.map (·.1))

/-- COALESCER_PACKET_SEND (R196): the packet that holds request `n` leaves with 16 requests, or 32 cycles after its
first. Requests whose route has gone fail (R193). -/
def execCoalescerPacketSend (core n : Nat) (s : State) : Res :=
  match SMap.find? s.fabric.reqs n with
  | none => .next s
  | some r =>
    let ms := openPacket s core r
    match ms with
    | [] => .next s
    | e :: _ =>
      if r.core ≠ core ∨ (ms.length < 16 ∧ s.now < e.2.opened + cycles 32) then .next s
      else if partRoute s r.part r.dst = 0 then .next (failReq s e.1 0x0F 7)
      else
        match pickTags s core ms.length with
        | none => .next s
        | some t => .next (sendPacket s core t r ms)

/-! ### The target (R194, R195, R202, R203) -/

/-- A run of bytes lies wholly in a partition's HBM range or in its share of one die's bank store. -/
def inPartRange (p : Part) (base len : Nat) : Bool :=
  let hbm := decide (p.hbase ≤ base) && decide (base + len ≤ p.hbase + p.hlen) && isHbm base
  let d := dieOf base
  let lo := 0x10000000000 + 0x10000000 * d + 0x2000000 * (p.first.getD d 0xFF)
  let bank := isBank base && p.first.getD d 0xFF != 0xFF && decide (lo ≤ base) && decide (base + len ≤ lo + 0x2000000 * p.share.getD d 0)
  hbm || bank

/-- Fields of an export entry (R194). -/
def exBase (x : Export) : Nat := x.w0.toNat
def exLen (x : Export) : Nat := x.w1.toNat
def exSlot (x : Export) : Nat := bits x.w2.toNat 0 16
def exPerm (x : Export) : Nat := bits x.w2.toNat 16 8
def exPart (x : Export) : Nat := bits x.w2.toNat 24 8

/-- An export entry is valid (R194). -/
def exValid (s : State) (x : Export) : Bool :=
  (exPerm x).testBit 7 && bits (exPerm x) 3 4 == 0 && x.w3 == 0
    && exBase x % 4096 == 0 && exLen x % 4096 == 0 && exLen x != 0 && decide (exBase x < 2 ^ 43)
    && decide (exSlot x < 4096) && decide (exPart x < 64)
    && inPartRange (partOf s (exPart x)) (exBase x) (exLen x)

/-- The export that admits a request entry, with the permission bit it needs (R195). -/
def admitted (s : State) (src op : Nat) (l : LineReq) : Option Export :=
  let a := 128 * l.line + firstByte op l
  let need := if op = 1 then 0 else if op = 3 then 1 else 2
  match List.find? (fun (e : Nat × Export) => exValid s e.2 && decide (exBase e.2 ≤ a) && decide (a < exBase e.2 + exLen e.2)) s.fabric.exports with
  | none => none
  | some e =>
    if 128 * l.line + lastByte op l ≤ exBase e.2 + exLen e.2 ∧ (exPerm e.2).testBit need = true
        ∧ bits e.2.w2.toNat 32 16 ≤ src ∧ src ≤ bits e.2.w2.toNat 48 16 then some e.2 else none

/-- Perform the masked bytes of a store. -/
def storeBytes (s : State) (slot line : Nat) : List (Nat × Byte) → State
  | [] => s
  | (i, b) :: rest => storeBytes (homeWrite s slot (128 * line + i) [b]) slot line rest

/-- The bytes a mask selects, in ascending order. -/
def maskBytes (m : BitVec 128) : List Nat := (List.range 128).filter fun i => m.getLsbD i

/-- Perform the lanes of an atomic line request at the line's home, in ascending order, with the old values (R202). -/
def atomLanes (s : State) (slot : Nat) (l : LineReq) : List LaneReq → State × List Word
  | [] => (s, [])
  | x :: rest =>
    let w := lineWidth l
    let pa := 128 * l.line + x.offset
    let old := memNat s slot pa w
    let s1 := homeWrite s slot pa (natToBytes w (atomOp l.aop.toNat w old (x.operand.toNat % 2 ^ (8 * w))
      (x.compare.toNat % 2 ^ (8 * w))))
    let r := atomLanes s1 slot l rest
    (r.1, BitVec.ofNat 64 old :: r.2)

/-- What a request entry meets at its home: its status and the words it returns (R195, R197, R203). -/
def performEntry (s : State) (src op : Nat) (l : LineReq) : State × Nat × List Word :=
  match admitted s src op l with
  | none => (s, 1, [])
  | some x =>
    let pa := 128 * l.line
    let kind : Access := if op = 1 then .read else if op = 3 then .write else .atomic
    if (lockFault s 0 (.phys pa true) kind).isSome || ((isHbm pa || isBank pa) && cutOff s (dieOf pa)) then (s, 2, [])
    else if op = 1 then
      if badLine s pa then (s, 3, [])
      else (s, 0, ((List.range 16).filter fun i => l.mask.getLsbD i).map fun i =>
        BitVec.ofNat 64 (memNat s (exSlot x) (pa + 8 * i) 8))
    else if op = 3 then (storeBytes s (exSlot x) l.line ((maskBytes l.mask).zip l.bytes), 0, [])
    else if badLine s pa then (s, 3, [])
    else
      let r := atomLanes s (exSlot x) l l.lanes
      (r.1, 0, if l.rv then r.2 else [])

/-- Perform the entries of a packet in order. -/
def performEntries (s : State) (src op : Nat) : List LineReq → State × List Nat × List Word
  | [] => (s, [], [])
  | l :: rest =>
    let a := performEntry s src op l
    let b := performEntries a.1 src op rest
    (b.1, a.2.1 :: b.2.1, a.2.2 ++ b.2.2)

/-- Take a packet out of those on their way. -/
def takeNet (s : State) (n : Nat) : State := { s with fabric := { s.fabric with net := SMap.erase s.fabric.net n } }

/-- The operation code of the answer to a request. -/
def answerOp (op : Nat) : Nat := if op = 1 then 2 else if op = 3 then 7 else 5

/-- Answer a request packet. -/
def reply (s : State) (p : Packet) (op : Nat) (st : List Nat) (ws : List Word) : State :=
  leave { s with serial := s.serial + 1 }
    { op := op, src := s.fabric.pkgId, dst := p.src, tag := p.tag, reqs := [], status := st, words := ws } none false s.serial
    (firstLine p)

/-- REMOTE_REQUEST_ARRIVAL (R195): perform, refuse or put off each entry of a request packet, and answer; with its receive
buffers full the target puts off the whole packet (R203). -/
def execRemoteRequestArrival (n : Nat) (s : State) : Res :=
  match SMap.find? s.fabric.net n with
  | none => .next s
  | some p =>
    if !isRequest p.op || p.reqs.any fun l => enterHeld s (128 * l.line) then .next s
    else if s.fabric.rxFull then .next (reply (takeNet s n) p 6 (p.reqs.map fun _ => 2) [])
    else
      let r := performEntries (takeNet s n) p.src p.op p.reqs
      .next (reply r.1 p (answerOp p.op) r.2.1 r.2.2)

/-! ### Answers (R198 to R203) -/

/-- The outstanding request that an answer's `j`-th entry names (R197). -/
def answered (s : State) (p : Packet) (j : Nat) : Option (Nat × RReq) :=
  let core := 192 * bits p.tag 20 2 + bits p.tag 12 8
  List.find? (fun (e : Nat × RReq) =>
    e.2.sent && e.2.retryAt.isNone && decide (e.2.core = core) && decide (e.2.tag = (p.tag + j) % 4096)
      && decide (e.2.dst = p.src)) s.fabric.reqs

/-- A refusal to be tried again: after 1 µs, then twice as long each time, up to 64 µs (R203). -/
def putOff (s : State) (n : Nat) (r : RReq) : State :=
  setReq s n { r with
    retryAt := some (s.now + 17000 * Nat.min 64 (2 ^ r.tries))
    refusedAt := some (r.refusedAt.getD s.now)
    tries := r.tries + 1 }

/-- Words that a line request with status 0 is answered with. -/
def lineWords (op : Nat) (l : LineReq) : Nat :=
  if op = 1 then ((List.range 16).filter fun i => l.mask.getLsbD i).length
  else if op = 4 ∧ l.rv = true then l.lanes.length else 0

/-- Words of an answered request with status 0. -/
def wordCount (r : RReq) : Nat := lineWords r.op r.line

/-- Fill the lanes of a fetching atomic. -/
def fillAtom (s : State) (r : RReq) : List (LaneReq × Word) → State
  | [] => s
  | (x, v) :: rest => fillAtom (fillLane s r.g r.resv x.lane (atomWords (lineWidth r.line) v.toNat) false) r rest

/-- A request has been performed; its words go where they were asked for. -/
def finishReq (s : State) (n : Nat) (r : RReq) (ws : List Word) : State :=
  let s1 := dropReq s n
  if r.sync then modGrp s1 r.g fun g => { g with rval := SMap.put g.rval r.addr.toNat (ws.headD 0) }
  else if r.op = 1 then
    let at_ := fabricAddr r.dst (128 * r.line.line) / 8
    let keys := ((List.range 16).filter fun i => r.line.mask.getLsbD i).map fun i => at_ + i
    modGrp s1 r.g fun g => addWords g r.stamp (keys.zip ws)
  else if r.line.rv then fillAtom s1 r (r.line.lanes.zip ws)
  else s1

/-- Words that an answer carries for an entry whose tag has been freed: those of the request it was sent for (R198). -/
def staleWords (s : State) (p : Packet) (j : Nat) : Nat :=
  match List.find? (fun (e : Nat × Sent) => answerOp e.2.pkt.op == p.op && decide (e.2.pkt.dst = p.src)
      && decide (e.2.pkt.tag = p.tag) && decide (e.2.pkt.reqs.length = p.status.length)) s.fabric.sent with
  | none => 0
  | some (_, x) =>
    match x.pkt.reqs[j]? with
    | none => 0
    | some l => lineWords x.pkt.op l

/-- One entry of an answer; one whose tag is free already is discarded with its words (R198). -/
def takeStatus (s : State) (p : Packet) (j st : Nat) (ws : List Word) : State × List Word :=
  match answered s p j with
  | none => (s, if st = 0 then ws.drop (staleWords s p j) else ws)
  | some (n, r) =>
    if st = 2 then (putOff s n r, ws)
    else if st = 0 then (finishReq s n r (ws.take (wordCount r)), ws.drop (wordCount r))
    else if st = 3 then (failReq s n 0x0E 0, ws)
    else (failReq s n 0x0F 1, ws)

/-- The entries of an answer in order. -/
def takeStatuses (s : State) (p : Packet) : List (Nat × Nat) → List Word → State
  | [], _ => s
  | (j, st) :: rest, ws =>
    let r := takeStatus s p j st ws
    takeStatuses r.1 p rest r.2

/-- An answer of one operation code, or a retry-later for a request of the operation it answers; an answer for a tag already
freed is discarded (R198). -/
def answer (op reqOp n : Nat) (s : State) : State :=
  match SMap.find? s.fabric.net n with
  | none => s
  | some p =>
    let mine : Bool := p.op == op || (p.op == 6 && ((answered s p 0).map fun e => e.2.op) == some reqOp)
    if mine then
      takeStatuses (takeNet s n) p ((p.status.zipIdx).map fun e => (e.2, e.1)) p.words
    else s

/-- REMOTE_READ_RESPONSE (R198, R199). -/
def execRemoteReadResponse (n : Nat) (s : State) : Res := .next (answer 2 1 n s)

/-- STORE_ACKNOWLEDGEMENT (R200, R201). -/
def execStoreAcknowledgement (n : Nat) (s : State) : Res := .next (answer 7 3 n s)

/-- ATOMIC_RESPONSE (R202). -/
def execAtomicResponse (n : Nat) (s : State) : Res := .next (answer 5 4 n s)

/-- RETRY_LATER_RESEND (R203): the refused entry is sent again alone, with its tag. -/
def execRetryLaterResend (n : Nat) (s : State) : Res :=
  match SMap.find? s.fabric.reqs n with
  | none => .next s
  | some r =>
    match r.retryAt with
    | none => .next s
    | some t =>
      if s.now < t then .next s
      else
        let p : Packet := { op := r.op, src := s.fabric.pkgId, dst := r.dst, tag := packetTag r.core r.tag
                            reqs := [r.line], status := [], words := [] }
        .next (sendFirst (setReq s n { r with retryAt := none }) p r.part [n])

/-- TRANSPORT_TIMEOUT_RESEND (R192, R204): an unacknowledged packet is sent again as it was, a small read idempotent and any
other under its sequence number. -/
def execTransportTimeoutResend (n : Nat) (s : State) : Res :=
  match SMap.find? s.fabric.sent n with
  | none => .next s
  | some x =>
    .next (leave { s with fabric := { s.fabric with sent := SMap.put s.fabric.sent n { x with tries := x.tries + 1, at_ := s.now } } }
      x.pkt (some x.part) (x.pkt.op == 1) x.seq (firstLine x.pkt))

/-! ### Links (R187 to R191) -/

/-- Working lanes of a link. -/
def linkN (l : Link) : Nat := popc 16 l.lanes.toNat

/-- MINLANES as the link reads it (R191). -/
def minLanes (l : Link) : Nat := if l.minLanes = 0 ∨ 16 < l.minLanes.toNat then 16 else l.minLanes.toNat

def linkUp (l : Link) : Bool := l.state == .up || l.state == .degraded

/-- Code of a link state (R191). -/
def lstateCode : LState → Nat
  | .down => 0
  | .training => 1
  | .up => 2
  | .degraded => 3
  | .retraining => 4
  | .failed => 5

/-- LSTAT (R191). -/
def lstat (l : Link) : Nat :=
  2 ^ 32 * (l.naks % 65536) + 2 ^ 16 * l.lanes.toNat + 2 ^ 8 * lstateCode l.state + linkN l

/-- Raise an interrupt. -/
def interrupt (s : State) (who : Requester) (i : Irq) : State := { s with irqs := s.irqs ++ [(who, i)] }

/-- LINK_POWER_UP (R190): the DOWN links of a powered die train. -/
def execLinkPowerUp (die : Nat) (s : State) : Res :=
  if 4 ≤ die ∨ !(dieSt s die).powered then .next s
  else .next ((List.range 4).foldl (fun s i => modLink s (4 * die + i) fun l =>
    if l.state = .down then { l with state := .training, tries := 0 } else l) s)

/-- A failed link's unacknowledged flits are sent first on the next link of its die that is not FAILED (R186, R190). -/
def moveFlits (s : State) (n : Nat) : State :=
  let next := ([1, 2, 3].map fun i => 4 * (n / 4) + (n + i) % 4).find? fun m => decide ((linkOf s m).state ≠ .failed)
  match next with
  | none => s
  | some m =>
    let x := linkOf s n
    let give (a b : LinkEnd) : LinkEnd := { b with owed := b.owed ++ a.owed ++ a.replay }
    let s1 := modLink s m fun l => { l with die := give x.die l.die, switch := give x.switch l.switch }
    modLink s1 n fun l => { l with die := { l.die with replay := [], owed := [] }, switch := { l.switch with replay := [], owed := [] } }

/-- The end of a link's attempt to train with some lanes passing. -/
def trained (l : Link) (pass : BitVec 16) : Link :=
  let ok := pass &&& ~~~l.dropped
  let again := l.state == .retraining
  let n := popc 16 ok.toNat
  if n = 0 then
    if 2 ≤ l.tries then { l with state := .failed, tries := 0, lanes := 0 } else { l with tries := l.tries + 1 }
  else
    { l with
      state := if minLanes l ≤ n then .up else .degraded
      lanes := ok
      tries := 0
      dropped := if again then ~~~ok else l.dropped }

/-- LINK_TRAINING_END (R190). -/
def execLinkTrainingEnd (l : Nat) (pass : BitVec 16) (s : State) : Res :=
  let x := linkOf s l
  if 16 ≤ l ∨ ¬ (x.state = .training ∨ x.state = .retraining) then .next s
  else
    let y := trained x pass
    let s1 := modLink s l fun _ => y
    let s2 := if y.state = .degraded then interrupt s1 .hc (.link l) else s1
    .next (if y.state = .failed then moveFlits s2 l else s2)

/-- Begin retraining; the replay buffers are kept, and are replayed before any new flit. -/
def retrain (l : Link) : Link :=
  let quiet (e : LinkEnd) : LinkEnd :=
    { e with nakTimes := [], replay := e.replay.map (fun f => { f with replays := 0 }), again := e.replay.map (·.seq) }
  { l with state := .retraining, tries := 0, die := quiet l.die, switch := quiet l.switch }

/-- Eight NAKs within 1 µs, or a flit replayed 4 times. -/
def linkErrors (now : Nat) (e : LinkEnd) : Bool :=
  decide (8 ≤ (e.nakTimes.filter fun t => now ≤ t + 17000).length) || e.replay.any fun f => decide (4 ≤ f.replays)

/-- LINK_ERROR_RETRAIN (R190). -/
def execLinkErrorRetrain (l : Nat) (s : State) : Res :=
  let x := linkOf s l
  if linkUp x && (linkErrors s.now x.die || linkErrors s.now x.switch) then .next (modLink s l retrain) else .next s

/-- A write of LCTL (R191): only Imqua's takes effect. -/
def lctlWrite (s : State) (who : Requester) (l : Nat) (v : Word) : State :=
  if who ≠ .imqua ∨ 16 ≤ l then s
  else
    let s1 := modLink s l fun x => { x with minLanes := v.truncate 5 }
    if v.getLsbD 63 ∧ linkUp (linkOf s1 l) = true then modLink s1 l retrain else s1

/-- LCTL_RETRAIN (R191). -/
def execLctlRetrain (who : Requester) (l : Nat) (v : Word) (s : State) : Res := .next (lctlWrite s who l v)

/-- One bit of the CRC-64 of ECMA-182, most significant bit first. -/
def crcBit (c : BitVec 64) (b : Bool) : BitVec 64 :=
  if c.getLsbD 63 != b then (c <<< 1) ^^^ 0x42F0E1EBA9EA3693 else c <<< 1

/-- The CRC of bytes. -/
def crc64 (bs : List Byte) : BitVec 64 :=
  bs.foldl (fun c b => [7, 6, 5, 4, 3, 2, 1, 0].foldl (fun c i => crcBit c (b.getLsbD i)) c) 0

/-- The header of a flit (R187). -/
def flitHeader (f : BitVec 2048) : Nat := (f.extractLsb' 0 64).toNat

/-- A flit that its receiver keeps (R187). -/
def flitGood (f : BitVec 2048) : Bool :=
  decide (crc64 ((List.range 248).map (flitByte f)) = f.extractLsb' 1984 64)
    && decide (bits (flitHeader f) 24 3 ≤ 2) && decide (bits (flitHeader f) 30 34 = 0)

/-- The flits of a replay buffer that an ACK does not cover (R189). -/
def unackedFlits (fs : List Flit) (ack : Nat) : List Flit :=
  if fs.any fun f => f.seq = ack then (fs.dropWhile fun f => f.seq ≠ ack).drop 1 else fs

/-- SEQ, KIND and CLASS of a header. -/
def hSeq (h : Nat) : Nat := bits h 0 12
def hKind (h : Nat) : Nat := bits h 24 3
def hClass (h : Nat) : Nat := bits h 27 3

/-- The receiver's half of a good flit at one end: ACK, NAK, and a payload accepted in SEQ order (R189). -/
def endTakes (now : Nat) (e : LinkEnd) (h : Nat) (pay : List Byte) : LinkEnd :=
  let kept := unackedFlits e.replay (bits h 12 12)
  let e1 := { e with replay := kept, again := e.again.filter fun n => kept.any fun f => f.seq = n }
  match hKind h with
  | 2 => { e1 with replay := kept.map (fun f => { f with replays := f.replays + 1 }), again := kept.map (·.seq), nakTimes := now :: e.nakTimes }
  | 1 => if hSeq h = e.rxSeq then { e1 with rxSeq := (e.rxSeq + 1) % 4096, got := e.got ++ [(hClass h, pay)] } else e1
  | _ => e1

/-- The sender's half of a flit: a payload sent for the first time is held for replay, one replayed has had its turn, and a NAK
is no longer owed. -/
def endSent (e : LinkEnd) (h : Nat) (pay : List Byte) : LinkEnd :=
  match hKind h with
  | 2 => { e with nakDue := false }
  | 1 =>
    match e.again with
    | _ :: rest => { e with again := rest }
    | [] => { e with
        txSeq := (e.txSeq + 1) % 4096, owed := e.owed.drop 1
        replay := e.replay ++ [{ seq := hSeq h, cls := hClass h, bytes := pay }] }
  | _ => e

/-- The other end has a receive credit for a payload of a class (R187). -/
def creditLeft (e : LinkEnd) (cls : Nat) : Bool := decide ((e.got.filter fun x => x.1 = cls).length ≤ Config.linkCredits cls)

/-- A flit that an end can send: idle; a NAK that it owes; the flit next in turn of those to be replayed; else a new payload,
the flits of a failed link first, while fewer than 512 await an ACK and the other end has a credit for its class (R187, R189,
R190). -/
def canSendFlit (from_ to_ : LinkEnd) (h : Nat) (pay : List Byte) : Bool :=
  match hKind h with
  | 0 => true
  | 2 => from_.nakDue
  | _ =>
    match from_.again with
    | n :: _ => from_.replay.any fun f => decide (f.seq = n) && decide (hSeq h = n) && decide (hClass h = f.cls) && decide (pay = f.bytes)
    | [] => decide (hSeq h = from_.txSeq) && decide (from_.replay.length < 512) && creditLeft to_ (hClass h)
        && (match from_.owed with | f :: _ => decide (f.bytes = pay) && decide (f.cls = hClass h) | [] => true)

/-- The payload of a flit. -/
def flitPay (f : BitVec 2048) : List Byte := (List.range 240).map fun i => flitByte f (8 + i)

/-- FLIT_RECEIVE (R187 to R189): a flit that one end of a link has sent reaches the compute die's end, or the switch die's, as
what arrives on the lanes. A flit that arrives damaged is discarded, and a NAK is owed for it. -/
def execFlitReceive (l : Nat) (toDie : Bool) (flit : WireFlit) (s : State) : Res :=
  let x := linkOf s l
  let to_ := if toDie then x.die else x.switch
  let from_ := if toDie then x.switch else x.die
  let put (a b : LinkEnd) (n : Nat) : State :=
    modLink s l fun y => { y with die := if toDie then a else b, switch := if toDie then b else a, naks := n }
  if 16 ≤ l ∨ linkUp x = false ∨ flitGood flit.sent = false ∨ canSendFlit from_ to_ (flitHeader flit.sent) (flitPay flit.sent) = false then .next s
  else
    let after := endSent from_ (flitHeader flit.sent) (flitPay flit.sent)
    let got := unstripe (linkN x) (workingStreams x.lanes flit.streams)
    let h := flitHeader got
    if flitGood got = false then .next (put { to_ with nakDue := true } after x.naks)
    else .next (put (endTakes s.now to_ h (flitPay got)) after (if hKind h = 2 then (x.naks + 1) % 65536 else x.naks))

/-- A die takes the oldest payload of a class from its end of a link: the sender has its credit back (R187). -/
def linkTake (s : State) (l : Nat) (toDie : Bool) (cls : Nat) : State :=
  let take (e : LinkEnd) : LinkEnd :=
    { e with got := (e.got.takeWhile fun x => x.1 ≠ cls) ++ (e.got.dropWhile fun x => x.1 ≠ cls).drop 1 }
  modLink s l fun y => if toDie then { y with die := take y.die } else { y with switch := take y.switch }

end Sys2Proof.Machine
end

