-- ==== Sys2Proof/Machine/Paging.lean ====
section
/-! DEFINITION. Walks that install translations (R131, R139, R140), remote fences (R142 to R145) and page migration (R155 to
R158). -/

namespace Sys2Proof.Machine

open Sys2Proof

/-! ### Ownership (R17, R74, R155, R174) -/

/-- A requester owns a context that exists. -/
def owns (s : State) (who : Requester) (cn : Nat) : Bool :=
  match SMap.find? s.ctxs cn with
  | some c => decide (c.owner = who) && decide (c.state ≠ .destroyed)
  | none => false

/-- A requester owns a partition (R17). -/
def hosts (p : Part) (who : Requester) : Bool :=
  match who with
  | .host => p.hosting == 1 || p.hosting == 3
  | .hc => p.hosting == 2 || p.hosting == 3
  | .imqua => false

/-! ### Walks -/

/-- PAGE_WALK_COMPLETE (R131): a walk of a die finishes and installs its entry, or faults. -/
def execPageWalkComplete (die ctx : Nat) (va : Word) (kind : Access) (s : State) : Res :=
  match SMap.find? s.ctxs ctx with
  | none => .next s
  | some c =>
    if c.state = .destroyed then .next s
    else
      let m := (dieSt s die).walks
      match walk s m ctx va.toNat kind with
      | (s1, .error _) => .next s1
      | (s1, .ok e) => .next (modDie s1 die (walkDone e (walkPath s m ctx va.toNat)))

/-! ### Invalidation (R145) -/

/-- What a fence sees of an entry of the page-walk caches: the addresses it covers, and its G bit. -/
def walkCover (e : WalkEnt) : TlbEnt :=
  { ctx := e.ctx, va := e.va, size := walkSpan e.fmt e.level, pa := 0, r := false, w := false, x := false, d := false
    glob := !e.fmt && e.word.testBit 5, direct := false, fmt := none }

/-- Drop the entries of every core's and die's TLB and of the page-walk caches that a test selects. -/
def dropTlb (s : State) (p : TlbEnt → Bool) : State :=
  { s with
    cores := s.cores.map fun e => (e.1, { e.2 with tlb := e.2.tlb.filter fun x => !p x })
    dies := s.dies.map fun e => (e.1, { e.2 with
      tlb := e.2.tlb.filter fun x => !p x
      walks := e.2.walks.filter fun x => !p (walkCover x) }) }

/-- An entry of a partition that a fence of some kind covers (R145). -/
def covered (s : State) (part kind va len asid : Nat) (e : TlbEnt) : Bool :=
  let c := ctxOf s e.ctx
  let near := len == 0 || (decide (e.va < va + len) && decide (va < e.va + e.size))
  let mine := c.asid == asid || asid == 0xFFFFFFFF
  c.part == part && (kind == 3 || (near && (mine || (kind == 1 && e.glob))))

/-- The accesses under way of a partition's groups: each group, with its present place in program order. -/
def underWay (s : State) (part : Nat) : List (Nat × Nat) :=
  (s.groups.filter fun e => (ctxOf s e.2.ctx).part = part).map fun e => (e.1, e.2.seq)

/-- A drain of a tile that a group had issued before a place is still to be performed: its pages were translated at issue
(R134). -/
def drainOut (s : State) (w : Nat × Nat) : Bool :=
  s.engines.any fun e =>
    match e.2.kind, e.2.for_ with
    | .mdrain _ _ _ _, .group x _ => x == w.1 && decide (e.2.stamp < w.2)
    | _, _ => false

/-- A group's accesses before a place have finished (R145); one held pending by a fault is not waited for. -/
def finished (s : State) (w : Nat × Nat) : Bool :=
  !drainOut s w && (ownUpdates s w.1).isEmpty &&
    match grp? s w.1 with
    | none => true
    | some g =>
      g.loads.all (fun l => decide (w.2 ≤ l.stamp)) && g.saq.all (fun e => decide (w.2 ≤ e.stamp))
        && g.mops.all (fun o => match o.kind with | .mdrainWindow _ _ => decide (w.2 ≤ o.stamp) | _ => true)
        && !(s.fabric.reqs.any fun e => decide (e.2.g = w.1) && decide (e.2.stamp < w.2) && !e.2.held)

/-- Nothing of a partition's ended groups is on its way to another package, and every write of the package is performed at
system scope. -/
def settledPart (s : State) (part : Nat) : Bool :=
  !(s.fabric.reqs.any fun e => decide (e.2.g = 0) && decide ((ctxOf s e.2.ctx).part = part) && !e.2.held)
    && (List.range 4).all fun d => (dieSt s d).fwd.isEmpty

/-! ### Remote fences (R142 to R145) -/

/-- The proxy hart that a partition presents to a requester. -/
def proxyOf (p : Part) (who : Requester) : Proxy :=
  match who with
  | .host => p.up
  | _ => p.hc

/-- The fence mailbox's request (R143); `bad` says that it is malformed. -/
def readFence (s : State) (who : Requester) (at_ : Nat) : FenceReq :=
  let f (o n : Nat) : Nat := memNat s 0 (at_ + o) n
  let asid := f 32 4
  let zero := f 10 6 == 0 && f 36 4 == 0 && f 48 16 == 0 && (asid == 0xFFFFFFFF || asid < 65536)
  { who := who, seq := BitVec.ofNat 64 (f 0 8), kind := f 8 1, va := BitVec.ofNat 64 (f 16 8), len := BitVec.ofNat 64 (f 24 8)
    asid := asid, bad := !(decide (1 ≤ f 8 1) && decide (f 8 1 ≤ 3) && zero) }

/-- PROXY_FENCE_INTERRUPT (R144): a request not yet done is begun, its entries invalidated. Only a requester that the partition
presents a proxy hart to has one (R142). -/
def execProxyFenceInterrupt (part : Nat) (who : Requester) (s : State) : Res :=
  let p := partOf s part
  let at_ := (proxyOf p who).mailbox
  if hosts p who = false ∨ p.fencing.any (fun r => r.who = who) then .next s
  else
    let r := readFence s who at_
    if memNat s 0 (at_ + 40) 8 = r.seq.toNat then .next s
    else
      let s1 := if r.bad then s else dropTlb s (covered s part r.kind r.va.toNat r.len.toNat r.asid)
      let r' := { r with wait := if r.bad then [] else underWay s part }
      .next { s1 with parts := SMap.put s1.parts part { p with fencing := p.fencing ++ [r'] } }

/-- What a fence writes as result and done: of a mailbox changed since the request was read, free values (R144, log 3). -/
def fenceAnswer (s : State) (who : Requester) (at_ : Nat) (r : FenceReq) : State × Byte × Word :=
  if readFence s who at_ = { r with wait := [] } then (s, if r.bad then 1 else 0, r.seq)
  else ({ s with free := s.free + 1 }, Config.freeByte s.free, Config.freeWord s.free)

/-- REMOTE_FENCE_DONE (R145): once the accesses have finished, stores at system scope, result and done are written. -/
def execRemoteFenceDone (part : Nat) (who : Requester) (s0 : State) : Res :=
  let p := partOf s0 part
  match p.fencing.find? fun r => r.who = who with
  | none => .next s0
  | some r =>
    let s := flushAll s0
    if !r.wait.all (finished s) || !settledPart s part then .next s
    else
      let at_ := (proxyOf p who).mailbox
      let a := fenceAnswer s who at_ r
      let s1 := homeWrite a.1 0 (at_ + 9) [a.2.1]
      let s2 := homeWrite s1 0 (at_ + 40) (natToBytes 8 a.2.2.toNat)
      .next { s2 with parts := SMap.put s2.parts part { p with fencing := p.fencing.filter fun x => x.who ≠ who } }

/-! ### Migration (R155 to R157) -/

/-- Bytes of a SIZE code; 0 for the reserved code. -/
def migrBytes (size : Nat) : Nat :=
  match size with
  | 0 => 4096
  | 1 => 65536
  | 2 => 2097152
  | _ => 0

/-- The old physical address of a page that a leaf of exactly the slot's size maps. -/
def migrSource (s : State) (m : Migr) : Option Nat :=
  let c := ctxOf s m.ctx
  let va := m.va.toNat
  if bits va 56 8 ≠ 0 ∧ bits va 56 8 ≠ 255 then none
  else
    match sv57 s c [] m.ctx va 4 c.root with
    | .error _ => none
    | .ok lf => if lf.size = migrBytes m.size then (devicePA s c lf.base).toOption else none

/-- A locked line lies in a range. -/
def anyLocked (s : State) (pa n : Nat) : Bool :=
  (tablesOf (lockPlace pa)).any fun t =>
    (dieSt s t).locks.any fun e => decide (e.2.first ≤ (pa + n - 1) / 128) && decide (pa / 128 ≤ e.2.last)

/-- The lines of a range leave every L1, and every die's forwards of them, for their home. -/
def evictEverywhere (s : State) (pa n : Nat) : State :=
  let inside (l : Nat) : Bool := decide (pa / 128 ≤ l) && decide (l ≤ (pa + n - 1) / 128)
  let s1 := (s.cores.flatMap fun e => (e.2.l1.filter fun l => inside l.1).map fun l => (e.1, l.1)).foldl
    (fun s x => evictLine s x.1 x.2) s
  (List.range 4).foldl (fun s d => forwardLines s d inside) s1

/-- Lock both ranges and begin to copy, or wait while a table is full; a range locked already makes it STATE 3 (R156). -/
def migrLock (s : State) (n : Nat) (m : Migr) : State :=
  let z := migrBytes m.rsize
  let rs : List LockRange := [⟨m.rva.toNat, lockPlace m.src, m.src, z, true⟩, ⟨m.rva.toNat, lockPlace m.to_, m.to_, z, true⟩]
  if anyLocked s m.src z || anyLocked s m.to_ z then modMigr s n fun _ => { m with waiting := false, state := 3 }
  else
    match lockAll s 0 (.migration n) rs with
    | none => modMigr s n fun _ => { m with waiting := true }
    | some s1 =>
      let c := ctxOf s1 m.rctx
      let s2 := dropTlb s1 (covered s1 c.part 1 m.rva.toNat z c.asid)
      modMigr (evictEverywhere (evictEverywhere s2 m.src z) m.to_ z) n fun _ =>
        { m with waiting := false, state := 1, wait := underWay s c.part }

/-- GO (R156). -/
def migrGo (s : State) (n : Nat) : State :=
  let m := migrOf s n
  match (if m.size = 3 then none else migrSource s m) with
  | none => modMigr s n fun m => { m with state := 3 }
  | some src =>
    if !isHbm (m.dst + migrBytes m.size - 1) then modMigr s n fun m => { m with state := 3 }
    else migrLock s n { m with src := src, to_ := m.dst, rctx := m.ctx, rsize := m.size, rva := m.va }

/-- Lines of a range that a die is still to forward to their home. -/
def onWay (s : State) (pa n : Nat) : Bool :=
  (List.range 4).any fun d => (dieSt s d).fwd.any fun f => decide (pa / 128 ≤ f.line) && decide (f.line ≤ (pa + n - 1) / 128)

/-- ABORT (R156): the locks go, and what was written at the destination is undefined. -/
def migrAbort (s : State) (n : Nat) : State :=
  let m := migrOf s n
  if m.state = 1 ∨ m.state = 2 then
    let z := migrBytes m.rsize
    let s1 := unlock s (.migration n)
    let s2 := homeWrite s1 (slotOf s1 m.rctx) m.to_ ((List.range z).map fun i => Config.freeByte (s.free + i))
    modMigr { s2 with free := s.free + z } n fun m => { m with state := 0, wait := [] }
  else modMigr s n fun m => { m with waiting := false }

/-- REL (R156). -/
def migrRelease (s : State) (n : Nat) : State :=
  if (migrOf s n).state = 2 then modMigr (unlock s (.migration n)) n fun m => { m with state := 0, wait := [] } else s

/-- MIGRATION_COPY_COMPLETE (R156): a slot waiting for lock entries tries again; a copy whose page's accesses have finished
ends. What the caches hold of the page goes home first, and a line that cannot be read, or a range outside the partition's
HBM (R162), makes the copy fail (log 42). -/
def execMigrationCopyComplete (n : Nat) (ok : Bool) (s0 : State) : Res :=
  let m := migrOf s0 n
  if m.waiting then .next (migrLock s0 n m)
  else if m.state ≠ 1 ∨ m.wait.all (finished s0) = false then .next s0
  else
    let z := migrBytes m.rsize
    let s := evictEverywhere (evictEverywhere s0 m.src z) m.to_ z
    if onWay s m.src z || onWay s m.to_ z then .next s
    else
      let sl := slotOf s m.rctx
      let good := ok && !badRun s m.src z && inStruct s m.rctx m.src z && inStruct s m.rctx m.to_ z
      let s1 := if good then homeWrite s sl m.to_ (memBytes s sl m.src z) else unlock s (.migration n)
      let s2 := modMigr s1 n fun m => { m with state := if good then 2 else 3, wait := [] }
      .next (arriveAt s2 m.rctx m.bar 1
        { bits := if good then 0 else stCpyf, failures := if good then 0 else 1, member := 0xFFFE })

/-- What a write of MCTL does to the slot's CTX and SIZE (R155): they take the written values, the context being one that the
requester owns, or in STATE 0 the 0 that frees the slot. -/
def mctlFields (s : State) (who : Requester) (n : Nat) (v : Word) : State :=
  let m := migrOf s n
  let cn := bits v.toNat 36 12
  let free := cn == 0 && m.state == 0 && !m.waiting
  modMigr s n fun m => { m with
    ctx := if free || (cn != 0 && owns s who cn) then cn else m.ctx
    size := bits v.toNat 34 2 }

/-- A write of MCTL by a requester (R155, R156). -/
def mctlWrite (s : State) (who : Requester) (n : Nat) (v : Word) : State :=
  let m := migrOf s n
  let cn := bits v.toNat 36 12
  let mine := if m.ctx = 0 then decide (cn ≠ 0) && owns s who cn else owns s who m.ctx
  if 64 ≤ n ∨ mine = false then s
  else
    let s1 := mctlFields s who n v
    let m1 := migrOf s1 n
    if v.getLsbD 63 && m1.state == 0 && !m1.waiting && m1.ctx != 0 then migrGo s1 n
    else if v.getLsbD 62 && m1.state == 2 then migrRelease s1 n
    else if v.getLsbD 61 then migrAbort s1 n
    else s1

/-- MCTL_CLAIM (R155): a write that names a context claims a free slot. -/
def execMctlClaim (who : Requester) (m : Nat) (v : Word) (s : State) : Res :=
  if (migrOf s m).ctx = 0 ∧ bits v.toNat 36 12 ≠ 0 then .next (mctlWrite s who m v) else .next s

/-- MCTL_FREE (R155): a write of CTX 0 in STATE 0 frees the slot. -/
def execMctlFree (who : Requester) (m : Nat) (v : Word) (s : State) : Res :=
  if (migrOf s m).ctx ≠ 0 ∧ bits v.toNat 36 12 = 0 then .next (mctlWrite s who m v) else .next s

/-- MCTL_GO (R156). -/
def execMctlGo (who : Requester) (m : Nat) (v : Word) (s : State) : Res :=
  if v.getLsbD 63 then .next (mctlWrite s who m v) else .next s

/-- MCTL_REL (R156). -/
def execMctlRel (who : Requester) (m : Nat) (v : Word) (s : State) : Res :=
  if v.getLsbD 62 then .next (mctlWrite s who m v) else .next s

/-- MCTL_ABORT (R156). -/
def execMctlAbort (who : Requester) (m : Nat) (v : Word) (s : State) : Res :=
  if v.getLsbD 61 then .next (mctlWrite s who m v) else .next s

end Sys2Proof.Machine
end

