-- ==== Sys2Proof/Machine/Damask.lean ====
section
/-! DEFINITION. Damask (R372 to R394): plans, windows and instances, what a round sends and delivers, how it ends or fails,
and the scalar, control, waiting and signalling instructions of Odnar. -/

namespace Sys2Proof.Machine

open Sys2Proof

/-! ### Plans, windows and instances -/

def plan? (s : State) (h : Nat) : Option Plan := SMap.find? s.damask.plans h
def inst? (s : State) (n : Nat) : Option Inst := SMap.find? s.damask.insts n
def modPlan (s : State) (h : Nat) (f : Plan → Plan) : State :=
  { s with damask := { s.damask with plans := SMap.modify s.damask.plans h f } }
def modInst (s : State) (n : Nat) (f : Inst → Inst) : State :=
  { s with damask := { s.damask with insts := SMap.modify s.damask.insts n f } }
def modWin (s : State) (w : Nat) (f : Win → Win) : State :=
  { s with damask := { s.damask with wins := SMap.modify s.damask.wins w f } }

/-- The window of a plan's index, with its number. -/
def planWin (s : State) (p : Plan) (idx : Nat) : Option (Nat × Win) :=
  (p.wins[idx]?).bind fun w => (SMap.find? s.damask.wins w).map fun x => (w, x)

/-- The plan of a member of a communicator in this package (R375: one for a communicator and rank). -/
def memberPlan (s : State) (comm : BitVec 32) (rank : Nat) : Option (Nat × Plan) :=
  List.find? (fun (e : Nat × Plan) => decide (e.2.comm = comm) && decide (e.2.rank = rank)) s.damask.plans

/-- The instance that runs a plan's round. -/
def runningInst (s : State) (h : Nat) : Option (Nat × Inst) :=
  List.find? (fun (e : Nat × Inst) => decide (e.2.plan = h)) s.damask.insts

/-- A window's contribution area is closed (R378). -/
def winClosed (w : Win) : Bool := decide (w.desc.closers ≤ w.closes)

/-! ### Registers of an instance (R383) -/

def gReg (x : Inst) (i : BitVec 4) : Word := if i = 0 then 0 else SMap.get x.g 0 i.toNat
def wg (x : Inst) (i : BitVec 4) (v : Word) : Inst := if i = 0 then x else { x with g := SMap.set x.g 0 i.toNat v }
def cReg (x : Inst) (i : Nat) : BitVec 32 := SMap.get x.c 0 i

/-- The window index and the tag in an immediate. -/
def immWin (imm : BitVec 40) : Nat := imm.toNat % 16
def immTag (imm : BitVec 40) : BitVec 16 := imm.extractLsb' 4 16

/-- Go on to the next word. -/
def oAdvance (x : Inst) : Inst := { x with pc := x.pc + 1, timed := none }

/-- Branch by a number of words. -/
def oBranch (x : Inst) (off : Int) : Inst := { x with pc := ((x.pc : Int) + off).toNat, timed := none }

/-- Merge bits into the round status, with a member where they are failures (R99). -/
def mergeRound (x : Inst) (b : BitVec 12) (member : Nat) : Inst :=
  { x with status := mergeStatus x.status { bits := b, failures := if b &&& failMask = 0 then 0 else 1, member := member } }

/-! ### Chunks (R384, R386) -/

/-- Bytes of chunk `j` of a window (R384 CHUNK f 1). -/
def chunkLen (p : Plan) (w : Win) (j : Nat) : Nat := Nat.min p.chunk (w.desc.length - j * p.chunk)

/-- Elements of chunk `j`. -/
def chunkElems (p : Plan) (w : Win) (j : Nat) : Nat := chunkLen p w j / storeSize w.desc

def isReduce (w : Win) : Bool := w.desc.kind == 2

/-! ### Memory of the member's context -/

/-- The lock of an engine command or a migration covers a line (R224, R157). The locks of window rounds keep threads away
from what Damask itself delivers (R225), and turn none of its accesses away (log 29). -/
def lockedFor (s : State) (pa : Nat) (kind : Access) : Bool :=
  (locksAt s 0 (.phys pa true)).any fun e =>
    (match e.2.by_ with | .window _ _ => false | _ => true) && (e.2.dst || kind != .read)

/-- The physical pieces of a run of a context's memory that Damask accesses, or the failure where it meets a translation or
range fault, `true` where it is that the run lies on a die that is cut off (FABRIC reason 6; R190, R380, R394). -/
def damPieces (s : State) (p : Plan) (va : Nat) (kind : Access) : List (Nat × Nat) → State × Except Bool (List (Nat × Nat × Nat))
  | [] => (s, .ok [])
  | (o, k) :: rest =>
    match translatePkg s p.ctx ((va + o) % 2 ^ 64) kind with
    | (s1, .error _) => (s1, .error false)
    | (s1, .ok t) =>
      let lines := (List.range ((t.pa % 128 + k + 127) / 128)).map fun i => 128 * (t.pa / 128 + i)
      if (placeFault s1 p.ctx t.pa).isSome || !(isHbm t.pa || isBank t.pa || (isHostMem t.pa && !s1.fabric.hostReset))
          || lines.any (fun l => lockedFor s1 l kind) then (s1, .error false)
      else if !isHostMem t.pa && cutOff s1 (dieOf t.pa) then (s1, .error true)
      else
        let r := damPieces s1 p va kind rest
        (r.1, r.2.map fun xs => (o, t.pa, k) :: xs)

/-- Read bytes of the context's memory. -/
def damRead (s : State) (p : Plan) (va n : Nat) : State × Except Bool (List Byte) :=
  let r := damPieces s p va .read (cutAll [va] n)
  (r.1, r.2.map fun xs => xs.flatMap fun e => memBytes r.1 (slotOf r.1 p.ctx) e.2.1 e.2.2)

/-- Write bytes of the context's memory, all or none. -/
def damWrite (s : State) (p : Plan) (va : Nat) (bs : List Byte) : Option State × State :=
  let r := damPieces s p va .write (cutAll [va] bs.length)
  (r.2.toOption.map fun xs => xs.foldl (fun s e => homeWrite s (slotOf s p.ctx) e.2.1 ((bs.drop e.1).take e.2.2)) r.1, r.1)

/-! ### Messages, credits and notices (R386, R390, R394) -/

/-- The package of a rank. -/
def rankPkg (p : Plan) (r : Nat) : Nat := ((p.locs[r]?).map (·.1)).getD 0

/-- A rank lies on this package. -/
def rankHere (s : State) (p : Plan) (r : Nat) : Bool := decide (rankPkg p r = s.fabric.pkgId)

/-- What the port of a plan's traffic to a peer is chosen from: communicator and peer (R392). -/
def peerKey (p : Plan) (peer : Nat) : Nat := 2 ^ 48 + 2 ^ 12 * p.comm.toNat + peer

/-- The port of a plan's set that its traffic to a peer uses (R392, log 11). -/
def peerPort (p : Plan) (peer : Nat) : Option Nat := pickPort p.ports (Config.portHash (peerKey p peer))

/-- Send a message: through the switch die to a member here, else onto the fabric, where its copy is kept (R204). -/
def postMsg (s : State) (p : Plan) (m : DMsg) : State :=
  if rankHere s p m.dest then putMsg s m
  else
    let x : OutMsg := { msg := m, at_ := s.now, port := peerPort p m.dest }
    { s with serial := s.serial + 1, fabric := { s.fabric with outMsgs := SMap.put s.fabric.outMsgs s.serial x } }

/-- Return a credit to the rank that sent a message (R390). -/
def returnCredit (s : State) (p : Plan) (src : Nat) : State :=
  let c : Credit := { comm := p.comm, from_ := p.rank, to_ := src }
  if rankHere s p src then putCredit s c
  else if s.fabric.portsUp then { s with fabric := { s.fabric with outCredits := s.fabric.outCredits ++ [c] } }
  else s

/-- Send a failure notice to every other rank (R394). -/
def postNotices (s : State) (p : Plan) (seq member : Nat) : State :=
  ((List.range p.nranks).filter fun r => r ≠ p.rank).foldl (fun s r =>
    let d : DNotice := { comm := p.comm, seq := seq, dest := r, member := member }
    if rankHere s p r then putNote s d
    else if s.fabric.portsUp then { s with fabric := { s.fabric with outNotes := s.fabric.outNotes ++ [d] } }
    else s) s

/-- Remove the first message that a test selects. -/
def dropFirst (f : DMsg → Bool) : List DMsg → List DMsg
  | [] => []
  | m :: rest => if f m then rest else m :: dropFirst f rest

/-- The held message with a key (R386): from a rank, with this round's seq, a chunk and a tag. -/
def findMsg (p : Plan) (seq : Nat) (src chunk : Nat) (tag : BitVec 16) : Option DMsg :=
  p.bufs.find? fun m => decide (m.seq = seq) && decide (m.source = src) && decide (m.chunk = chunk) && decide (m.tag = tag)

/-- A held message has been used: its buffer is free and its credit goes back. -/
def useMsg (s : State) (h : Nat) (p : Plan) (m : DMsg) : State :=
  returnCredit (modPlan s h fun p => { p with bufs := dropFirst (fun x => decide (x = m)) p.bufs }) p m.source

/-! ### The end of a round (R382, R388, R394) -/

/-- What a member does at the end of a round: the messages of its seq that are still held are discarded with their credits
returned, the instance is free, and a graph node completes. -/
def endRound (s : State) (n : Nat) (x : Inst) : State :=
  let s1 := match plan? s x.plan with
    | none => s
    | some p => (p.bufs.filter fun (m : DMsg) => decide (m.seq = x.seq)).foldl (fun s m => useMsg s x.plan p m) s
  let s2 := { s1 with damask := { s1.damask with
    insts := SMap.erase s1.damask.insts n
    paths := s1.damask.paths.filter fun e => e.2.1 ≠ n } }
  match x.node with
  | none => s2
  | some (g, i) =>
    let b := BitVec.ofNat 12 x.status
    let st : Status := { bits := b, failures := if b &&& failMask = 0 then 0 else 1, member := 0xFFFE }
    { s2 with graphs := SMap.modify s2.graphs g fun y => { y with done := y.done ++ [(i, st)] } }

/-- ACKW of a window not yet acknowledged (R388): an arrival of 1 at bva carrying the round status, then the area is open
again. A barrier that fails its check receives nothing, and the destination's locks go at once. -/
def ackWin (s : State) (n : Nat) (x : Inst) (p : Plan) (idx : Nat) : State :=
  match planWin s p idx with
  | none => modInst s n fun x => { x with acked := idx :: x.acked }
  | some (w, win) =>
    let s1 := match barrierHome s p.ctx win.desc.bva with
      | (s1, .error _) => unlock s1 (.window w x.seq)
      | (s1, .ok l) => sendUpd s1 { home := l, core := 0, slot := slotOf s1 p.ctx, from_ := none
                                    op := .arrive 1 (statusOf x.status), win := some (w, x.seq) }
    let s2 := modWin s1 w fun y => { y with area := [], closes := 0, scales := [] }
    modInst s2 n fun x => { x with acked := idx :: x.acked }

/-- Acknowledge every window of the round that is not acknowledged, in ascending index. -/
def ackRest (s : State) (n : Nat) (p : Plan) : State :=
  (List.range p.wins.length).foldl (fun s i =>
    match inst? s n with
    | some x => if x.acked.contains i then s else ackWin s n x p i
    | none => s) s

/-- The round ends normally (END). -/
def finishRound (s : State) (n : Nat) (p : Plan) : State :=
  let s1 := ackRest s n p
  match inst? s1 n with
  | some x => endRound s1 n x
  | none => s1

/-- A round fails (R394): the cause is merged, every window left is acknowledged, the other members are told, and the round
ends. -/
def failRound (s : State) (n : Nat) (b : BitVec 12) (member : Nat) : State :=
  match inst? s n with
  | none => s
  | some x =>
    match plan? s x.plan with
    | none => s
    | some p => finishRound (postNotices (ackRest (modInst s n fun x => mergeRound x b member) n p) p x.seq member) n p

/-! ### Destination locks (R380, R381) -/

/-- Bytes of a destination element. -/
def destSize (d : WinDesc) : Nat :=
  match d.dest with
  | 1 => 4
  | 2 => 2
  | _ => 1

/-- Bytes of a window's destination range (R380). -/
def destLen (p : Plan) (d : WinDesc) : Nat :=
  match d.kind with
  | 2 => d.length * destSize d / storeSize d
  | 3 => p.nranks * d.length
  | _ => d.length

/-- The physical ranges of a destination, page by page; a page that does not translate registers nothing. -/
def destRanges (s : State) (cn va : Nat) : List (Nat × Nat) → State × List LockRange
  | [] => (s, [])
  | (o, k) :: rest =>
    let a := (va + o) % 2 ^ 64
    match translatePkg s cn a .write with
    | (s1, .error _) => destRanges s1 cn va rest
    | (s1, .ok t) =>
      let r := destRanges s1 cn va rest
      if (placeFault s1 cn t.pa).isSome || !(isHbm t.pa || isBank t.pa || isHostMem t.pa) then r
      else
        let x : LockRange := ⟨a, lockPlace t.pa, t.pa, k, true⟩
        match r.2 with
        | y :: ys => if x.place = y.place ∧ x.lo + x.n = y.lo then (r.1, { x with n := x.n + y.n } :: ys) else (r.1, x :: y :: ys)
        | [] => (r.1, [x])

/-- Register the destination locks of some windows for a round, or wait while a table is full. -/
def lockDests (s : State) (p : Plan) (seq : Nat) : List Nat → Option State
  | [] => some s
  | w :: rest =>
    match SMap.find? s.damask.wins w with
    | none => lockDests s p seq rest
    | some x =>
      let va := x.desc.dva.toNat
      let r := destRanges s p.ctx va (cutAll [va] (destLen p x.desc))
      (lockAll r.1 0 (.window w seq) r.2).bind fun s1 => lockDests s1 p seq rest

/-- The instance's destination locks, registered if they are not. -/
def registered (s : State) (n : Nat) (x : Inst) (p : Plan) : State :=
  if x.registered then s
  else
    match lockDests s p x.seq p.wins with
    | none => s
    | some s1 => modInst s1 n fun x => { x with registered := true }

/-! ### Executing an Odnar instruction -/

/-- A datapath is busy with a step of the instance: a step that has reached its end holds none (R392). -/
def onPath (s : State) (n : Nat) : Bool := s.damask.paths.any fun e => e.2.1 == n && decide (s.now < e.2.2)

/-- What every Odnar instruction shares: the instance that executes it, idle and with its round's locks registered. -/
def issueO (s : State) (body : Nat → Inst → Plan → State → State) : Res :=
  match s.cur with
  | .damask n =>
    match inst? s n with
    | none => .refused .noActor
    | some x =>
      match plan? s x.plan with
      | none => .refused .noActor
      | some p =>
        if onPath s n then .next s
        else
          let s1 := registered s n x p
          match inst? s1 n with
          | none => .next s1
          | some y => if y.registered then .next (body n y p s1) else .next s1
  | _ => .refused .noActor

/-- An instruction that only changes the instance. -/
def issueInst (s : State) (f : State → Plan → Inst → Inst) : Res :=
  issueO s fun n _ p s => modInst s n fun x => f s p x

/-! ### Scalar and control instructions (R384, R385) -/

/-- ODNAR_NOP (R384). -/
def execOdnarNop (_o : OFields) (s : State) : Res := issueInst s fun _ _ x => oAdvance x

/-- The value that SETG writes. -/
def setgValue (s : State) (p : Plan) (x : Inst) (o : OFields) : Word :=
  match o.f.toNat with
  | 0 => o.imm.signExtend 64
  | 1 => BitVec.ofNat 64 p.rank
  | 2 => BitVec.ofNat 64 p.nranks
  | 3 => x.arg
  | 4 => p.sig
  | 5 => BitVec.ofNat 64 x.seq
  | 6 => BitVec.ofNat 64 (ftime s)
  | 7 => BitVec.ofNat 64 p.chunk
  | 8 => BitVec.ofNat 64 (((planWin s p (immWin o.imm)).map fun w => w.2.desc.length).getD 0)
  | f => (cReg x (f - 9)).zeroExtend 64

/-- SETG (R384). -/
def execSetg (o : OFields) (s : State) : Res := issueInst s fun s p x => oAdvance (wg x o.d (setgValue s p x o))

/-- The operation of an ADDG. -/
def addgOp (f : Nat) (a b : Word) : Word :=
  match f with
  | 0 => a + b
  | 1 => a - b
  | 2 => a * b
  | 3 => a &&& b
  | 4 => a ||| b
  | 5 => a ^^^ b
  | 6 => if a < b then a else b
  | _ => if a < b then b else a

/-- ADDG (R384). -/
def execAddg (o : OFields) (s : State) : Res :=
  issueInst s fun _ _ x =>
    oAdvance (wg x o.d (addgOp o.f.toNat (gReg x o.a) (gReg x o.b) + o.imm.signExtend 64))

/-- The peer "none" (R385). -/
def noPeer : Word := BitVec.allOnes 64

/-- Child `j` of a rank in the heap of arity `q`. -/
def heapChild (n rank q j : Nat) : Option Nat :=
  if j < q ∧ rank * q + 1 + j < n then some (rank * q + 1 + j) else none

/-- The children of a rank in ascending order. -/
def heapChildren (n rank q : Nat) : List Nat := (List.range q).filterMap (heapChild n rank q)

/-- The parent of a rank. -/
def heapParent (rank q : Nat) : Option Nat := if rank = 0 then none else some ((rank - 1) / q)

def peerWord (o : Option Nat) : Word := (o.map (BitVec.ofNat 64)).getD noPeer

/-- The peer that PEER gives (R385). -/
def peerOf (p : Plan) (f : Nat) (a : Word) (imm : BitVec 40) : Word :=
  let q := imm.toNat % 256
  match f with
  | 0 => BitVec.ofInt 64 (((p.rank : Int) + a.toInt + imm.toInt) % (p.nranks : Int))
  | 1 =>
    let r := BitVec.ofNat 64 p.rank ^^^ (a + imm.signExtend 64)
    if p.nranks ≤ r.toNat then noPeer else r
  | 2 => peerWord (heapParent p.rank q)
  | 3 => peerWord (heapChild p.nranks p.rank q a.toNat)
  | _ => BitVec.ofNat 64 (heapChildren p.nranks p.rank q).length

/-- PEER (R385). -/
def execPeer (o : OFields) (s : State) : Res :=
  issueInst s fun _ p x => oAdvance (wg x o.d (peerOf p o.f.toNat (gReg x o.a) o.imm))

/-- The value that CHUNK gives (R384). -/
def chunkValue (p : Plan) (w : Win) (f : Nat) (j : Nat) : Nat :=
  match f with
  | 0 => (w.desc.length + p.chunk - 1) / p.chunk
  | 1 => chunkLen p w j
  | _ => Nat.min (j * p.chunk) w.desc.length

/-- CHUNK (R384). -/
def execChunk (o : OFields) (s : State) : Res :=
  issueInst s fun s p x =>
    match planWin s p (immWin o.imm) with
    | none => oAdvance x
    | some (_, w) => oAdvance (wg x o.d (BitVec.ofNat 64 (chunkValue p w o.f.toNat (gReg x o.a).toNat)))

/-- LOOP (R384). -/
def execLoop (o : OFields) (s : State) : Res :=
  issueInst s fun _ _ x =>
    let n := o.d.toNat % 4
    let v : BitVec 32 := (gReg x o.a + (o.imm.extractLsb' 20 20).signExtend 64).truncate 32
    let y := { x with c := SMap.set x.c 0 n v }
    if v = 0 then oBranch y (o.imm.extractLsb' 0 20).toInt else oAdvance y

/-- ENDL (R384). -/
def execEndl (o : OFields) (s : State) : Res :=
  issueInst s fun _ _ x =>
    let n := o.d.toNat % 4
    let v := cReg x n
    if v = 0 then oAdvance x
    else
      let y := { x with c := SMap.set x.c 0 n (v - 1) }
      if v - 1 = 0 then oAdvance y else oBranch y (o.imm.extractLsb' 0 20).toInt

/-- The condition of a BRG. -/
def brgHolds (f : Nat) (a b : Word) : Bool :=
  match f with
  | 0 => a == b
  | 1 => a != b
  | 2 => decide (a < b)
  | 3 => !decide (a < b)
  | 4 => a.slt b
  | 5 => !a.slt b
  | _ => true

/-- BRG (R384). -/
def execBrg (o : OFields) (s : State) : Res :=
  issueInst s fun _ _ x =>
    if brgHolds o.f.toNat (gReg x o.a) (gReg x o.b) then oBranch x o.imm.toInt else oAdvance x

/-- On each datapath that has served the class, the instance served last is now this one; one that has served none goes on
taking the lowest-numbered first (R405). -/
def servedLast (m : SMap Nat) (cls n : Nat) : SMap Nat := m.map fun e => if e.1 % 4 = cls then (e.1, n) else e

/-- YIELDC (R384, R392): the instance goes to the back of its class's round robin. -/
def execYieldc (_o : OFields) (s : State) : Res :=
  issueO s fun n _ p s =>
    let s1 := modInst s n oAdvance
    { s1 with damask := { s1.damask with served := servedLast s1.damask.served p.prio n } }

/-- ODNAR_END (R384). -/
def execOdnarEnd (_o : OFields) (s : State) : Res := issueO s fun n _ p s => finishRound s n p

/-! ### Waiting and signalling (R388) -/

/-- WAIT_WIN (R388). -/
def execWaitWin (o : OFields) (s : State) : Res :=
  issueInst s fun s p x =>
    match planWin s p (immWin o.imm) with
    | none => oAdvance x
    | some (_, w) => if winClosed w then oAdvance x else x

/-- WAIT_SIG (R388). -/
def execWaitSig (o : OFields) (s : State) : Res :=
  issueInst s fun _ p x => if p.sig ≠ gReg x o.a then oAdvance x else x

/-- WAIT_TIME (R388). -/
def execWaitTime (o : OFields) (s : State) : Res :=
  issueInst s fun s _ x =>
    if (gReg x o.a).toNat ≤ ftime s then oAdvance x else { x with timed := some (gReg x o.a) }

/-- An instruction at a barrier that R93 refuses: PROTO and FPART with this member's rank (R388). -/
def badBarrier (p : Plan) (x : Inst) : Inst := oAdvance (mergeRound x (stProto ||| stFpart) p.rank)

/-- WAIT_BAR (R388). -/
def execWaitBar (o : OFields) (s : State) : Res :=
  issueO s fun n x p s =>
    match barrierHome s p.ctx (gReg x o.a) with
    | (s1, .error _) => modInst s1 n (badBarrier p)
    | (s1, .ok l) =>
      if barPh (barRead s1 0 (slotOf s1 p.ctx) l).ctl ≠ o.imm.getLsbD 0 then modInst s1 n oAdvance else s1

/-- Send an update to the barrier that an instruction names. -/
def signalAt (s : State) (n : Nat) (p : Plan) (va : Word) (op : BarOp) : State :=
  match barrierHome s p.ctx va with
  | (s1, .error _) => modInst s1 n (badBarrier p)
  | (s1, .ok l) =>
    modInst (sendUpd s1 { home := l, core := 0, slot := slotOf s1 p.ctx, from_ := none, op := op }) n oAdvance

/-- SIGNAL (R388): deliveries and COPY.store are performed when they are made, so the arrival comes after them. -/
def execSignal (o : OFields) (s : State) : Res :=
  issueO s fun n x p s => signalAt s n p (gReg x o.a) (.arrive (o.imm.toNat % 65536) {})

/-- SIGNAL_SUB (R388). -/
def execSignalSub (o : OFields) (s : State) : Res :=
  issueO s fun n x p s => signalAt s n p (gReg x o.a) (.complete ((gReg x o.b).toNat % 2 ^ 32) {})

/-- BSET (R388). -/
def execBset (o : OFields) (s : State) : Res :=
  issueInst s fun _ _ x => oAdvance (mergeRound x (o.imm.truncate 12) ((gReg x o.a).toNat % 65536))

/-- ACKW (R388). -/
def execAckw (o : OFields) (s : State) : Res :=
  issueO s fun n x p s =>
    let i := immWin o.imm
    modInst (if x.acked.contains i then s else ackWin s n x p i) n oAdvance

/-! ### Timed steps (R391) -/

/-- The estimated clock offset of a package against this one, in ns. -/
def clockOffset (s : State) (pkg : Nat) : Nat := if pkg = s.fabric.pkgId then 0 else SMap.get s.fabric.offsets 0 pkg

/-- The lowest rank whose package's clock is too far off. -/
def skewedRank (s : State) (p : Plan) : Option Nat :=
  (List.range p.nranks).find? fun r => decide (p.slotNs < clockOffset s (rankPkg p r))

/-- TSTART (R391). -/
def execTstart (o : OFields) (s : State) : Res :=
  issueO s fun n x p s =>
    match x.timed with
    | some t => if t.toNat ≤ ftime s then modInst s n fun x => oAdvance (wg x o.d 0) else s
    | none =>
      let t := gReg x o.a
      match skewedRank s p with
      | some r => failRound s n stSkew r
      | none =>
        if t.toNat < ftime s then modInst s n fun x => oAdvance (wg (mergeRound x stLate 0) o.d 1)
        else if t.toNat = ftime s then modInst s n fun x => oAdvance (wg x o.d 0)
        else modInst s n fun x => { x with timed := some t }

/-- FABRIC_TIME_REACHED (R388, R391): the time an instance waits for has come. -/
def execFabricTimeReached (n : Nat) (s : State) : Res :=
  match inst? s n with
  | none => .next s
  | some x =>
    match x.timed with
    | none => .next s
    | some t =>
      if ftime s < t.toNat then .next s
      else
        match fetchO s n with
        | some (.tstart o) => .next (modInst s n fun x => oAdvance (wg x o.d 0))
        | some (.waitTime _) => .next (modInst s n oAdvance)
        | _ => .next s

end Sys2Proof.Machine
end

