-- ==== Sys2Proof/Machine/Chunk.lean ====
section
/-! DEFINITION. The data steps of Odnar (R386, R387, R389): their forms, when they are ready, what they do, and the datapaths
that serve them (R392). A step takes effect when it begins and holds its datapath until it ends. -/

namespace Sys2Proof.Machine

open Sys2Proof

/-! ### acc, contributions and forms (R381, R386, R389) -/

/-- A fresh undefined byte or word for each of `n` items. -/
def freeBytes (s : State) (n : Nat) : List (BitVec 32) :=
  (List.range n).map fun i => (Config.freeByte (s.free + i)).zeroExtend 32

/-- acc as FP32 elements; where it holds bytes, their values as elements are undefined (log 3). -/
def accF32 (s : State) (x : Inst) (e : Nat) : State × List (Option (BitVec 32)) :=
  if x.accRaw then
    ({ s with free := s.free + e }, (List.range e).map fun i => some ((Config.freeWord (s.free + i)).truncate 32))
  else (s, (List.range e).map fun k => SMap.find? x.acc k)

/-- acc as bytes; a byte it does not hold is undefined (log 3). -/
def accBytes (s : State) (x : Inst) (n : Nat) : State × List (BitVec 32) :=
  ({ s with free := s.free + n },
    (freeBytes s n).zipIdx.map fun b => if x.accRaw then (SMap.find? x.acc b.2).getD b.1 else b.1)

/-- Set acc to elements, or to bytes. -/
def setAcc (x : Inst) (raw : Bool) (items : List (Option (BitVec 32))) : Inst :=
  { x with accRaw := raw, acc := items.zipIdx.foldl (fun m e => match e.1 with | some v => SMap.put m e.2 v | none => m) [] }

/-- The FP32 elements of a chunk of a REDUCE window's area (R378). -/
def areaElems (p : Plan) (w : Win) (j : Nat) : List (BitVec 32) :=
  (List.range (chunkElems p w j)).map fun k => SMap.get w.area 0x80000000 (j * p.chunk / storeSize w.desc + k)

/-- The bytes of a chunk of another window's area. -/
def areaBytes (p : Plan) (w : Win) (j : Nat) : List (BitVec 32) :=
  (List.range (chunkLen p w j)).map fun k => SMap.get w.area 0 (j * p.chunk + k)

/-- A magnitude and whether any value is a NaN or an infinity (R387). -/
def magnitude (xs : List (BitVec 32)) : Nat × Bool :=
  xs.foldl (fun m v =>
    match f32val v.toNat with
    | .num _ _ _ => (Nat.max m.1 (v.toNat % 2 ^ 31), m.2)
    | _ => (m.1, true)) (0, false)

/-- The scale that a magnitude gives at the root (R387). -/
def rootScale (m : Nat) (nf : Bool) : BitVec 8 :=
  if nf then 0xFF
  else
    match (f32val m).expo with
    | none => 0
    | some e => BitVec.ofNat 8 (scaleByte (e - 8))

/-- The scale of a chunk: as SCALEX set it in this round, or by the root rule from the chunk itself (R389). -/
def chunkScale (p : Plan) (w : Win) (j : Nat) : BitVec 8 :=
  match SMap.find? w.scales j with
  | some x => x
  | none => rootScale (magnitude (areaElems p w j)).1 (magnitude (areaElems p w j)).2

/-- An element of a wire record (R389). -/
def wireElem (x : BitVec 8) (v : BitVec 32) : BitVec 32 :=
  if x = 0xFF then 0
  else BitVec.ofNat 32 (fmtE4M3.enc .rne true ((f32val v.toNat).scale (127 - (x.toNat : Int))))

/-- The element that a byte of a wire record decodes to (R240, R250, R389). -/
def unwireElem (x : BitVec 8) (b : BitVec 32) : BitVec 32 :=
  BitVec.ofNat 32 (fmtF32.enc .rne false (decodeMX x.toNat (b.toNat % 256) 1))

/-- The wire record of a chunk of this member's contribution: its scale byte, then its elements. -/
def wireRecord (p : Plan) (w : Win) (j : Nat) : List (BitVec 32) :=
  let x := chunkScale p w j
  x.zeroExtend 32 :: (areaElems p w j).map (wireElem x)

/-- The elements of a wire record. -/
def unwire (items : List (Option (BitVec 32))) : List (Option (BitVec 32)) :=
  match items with
  | some x :: rest => rest.map fun b => b.map (unwireElem (x.truncate 8))
  | _ => []

/-- This member's contribution of a chunk as it would reach a peer: the form and items of SEND.own. -/
def ownItems (p : Plan) (w : Win) (j : Nat) : DForm × List (Option (BitVec 32)) :=
  if !isReduce w then (.raw, (areaBytes p w j).map some)
  else if w.desc.wire = 1 then (.wire, (wireRecord p w j).map some)
  else (.fp32, (areaElems p w j).map some)

/-- The FP32 elements of a message, where its form has them. -/
def msgElems (form : DForm) (items : List (Option (BitVec 32))) : Option (List (Option (BitVec 32))) :=
  match form with
  | .wire => some (unwire items)
  | .fp32 => some items
  | _ => none

/-! ### Delivery (R380) -/

/-- The bytes of an element at a destination; an empty one is delivered as -0. -/
def destBytes (d : WinDesc) (v : Option (BitVec 32)) : List Byte :=
  let x := f32val (v.getD 0x80000000).toNat
  match d.dest with
  | 1 => natToBytes 4 (fmtF32.enc .rne false x)
  | 2 => natToBytes 2 (fmtBf16.enc .rne false x)
  | _ => natToBytes 1 (fmtE4M3.enc .rne true x)

/-- Where a chunk that a rank contributed lies at the destination. -/
def destAt (p : Plan) (w : Win) (origin j : Nat) : Nat :=
  let base := w.desc.dva.toNat
  match w.desc.kind with
  | 2 => base + j * p.chunk / storeSize w.desc * destSize w.desc
  | 3 => base + origin * w.desc.length + j * p.chunk
  | _ => base + j * p.chunk

/-- Write bytes into the member's memory; a fault fails the round (R394). -/
def putBytes (s : State) (n : Nat) (p : Plan) (va : Nat) (bs : List Byte) : State :=
  match damWrite s p va bs with
  | (some s1, _) => s1
  | (none, s1) => failRound s1 n stFpart p.rank

def itemByte (v : BitVec 32) : Byte := v.truncate 8

/-- Deliver a chunk's elements or bytes. -/
def deliverElems (s : State) (n : Nat) (p : Plan) (w : Win) (j : Nat) (xs : List (Option (BitVec 32))) : State :=
  let e := chunkElems p w j
  putBytes s n p (destAt p w p.rank j) (((List.range e).map fun k => (xs[k]?).getD none).flatMap (destBytes w.desc))

def deliverBytes (s : State) (n : Nat) (p : Plan) (w : Win) (origin j : Nat) (xs : List (BitVec 32)) : State :=
  putBytes s n p (destAt p w origin j) ((xs.take (chunkLen p w j)).map itemByte)

/-- A step whose message form cannot serve it (R386). -/
def wrongForm (s : State) (n : Nat) (p : Plan) : State := failRound s n (stProto ||| stFpart) p.rank

/-- Deliver a message. -/
def deliverMsg (s : State) (n : Nat) (p : Plan) (w : Win) (m : DMsg) : State :=
  if isReduce w then
    match msgElems m.form m.items with
    | some xs => deliverElems s n p w m.chunk xs
    | none => wrongForm s n p
  else if m.form = .raw then deliverBytes s n p w m.origin m.chunk (m.items.filterMap id)
  else wrongForm s n p

/-! ### Readiness (R386, R392) -/

/-- A message of `n` bytes may be sent to a peer: it is a rank of the plan, a credit toward it is left, and the retransmit
store has room for it (R204). -/
def canSend (s : State) (p : Plan) (peer : Word) (n : Nat) : Bool :=
  decide (peer.toNat < p.nranks) && decide (SMap.get p.used 0 peer.toNat < p.nbuf)
    && decide (retransmit s + n ≤ 2 ^ 26)

/-- The message that an instruction with these fields names. -/
def namedMsg (p : Plan) (x : Inst) (o : OFields) : Option DMsg :=
  findMsg p x.seq (gReg x o.a).toNat (gReg x o.b).toNat (immTag o.imm)

/-- The actions of a SCALEX, one step each (R387). -/
inductive ScaleAct where
  | recvChild (c : Nat)
  | sendUp (r : Nat)
  | recvDown (r : Nat)
  | sendDown (c : Nat)
  deriving DecidableEq, Repr

def scaleActs (p : Plan) (q : Nat) : List ScaleAct :=
  let cs := heapChildren p.nranks p.rank q
  let up := match heapParent p.rank q with
    | some r => [.sendUp r, .recvDown r]
    | none => []
  cs.map .recvChild ++ up ++ cs.map .sendDown

def scaleArity (imm : BitVec 40) : Nat := (imm.extractLsb' 20 8).toNat

/-- The message that a receiving action of a SCALEX waits for. -/
def scaleMsg (p : Plan) (x : Inst) (o : OFields) (src : Nat) : Option DMsg :=
  findMsg p x.seq src (gReg x o.a).toNat (immTag o.imm)

/-- The window index and chunk that a data instruction names. -/
def stepChunk (x : Inst) (i : Instr) : Nat × Nat :=
  match i with
  | .copyLoad o => (immWin o.imm, (gReg x o.a).toNat)
  | .copyStore o => (immWin o.imm, (gReg x o.a).toNat)
  | .scalex o => (immWin o.imm, (gReg x o.a).toNat)
  | .sendAcc o => (immWin o.imm, (gReg x o.b).toNat)
  | .sendOwn o => (immWin o.imm, (gReg x o.b).toNat)
  | .sendMem o => (immWin o.imm, (gReg x o.b).toNat)
  | .recvAcc o => (immWin o.imm, (gReg x o.b).toNat)
  | .recvDest o => (immWin o.imm, (gReg x o.b).toNat)
  | .rrs o => (immWin o.imm, (gReg x o.b).toNat)
  | .copyOwn o => (immWin o.imm, (gReg x o.b).toNat)
  | .copyDest o => (immWin o.imm, (gReg x o.b).toNat)
  | .combine o => (immWin o.imm, (gReg x o.b).toNat)
  | .forward o => (immWin o.imm, (gReg x o.b).toNat)
  | _ => (0, 0)

/-- Bytes of a chunk in acc and in the contribution area: FP32 elements, or the bytes as stored. -/
def heldBytes (p : Plan) (w : Win) (j : Nat) : Nat := if isReduce w then 4 * chunkElems p w j else chunkLen p w j

/-- Bytes of this member's contribution of a chunk as SEND.own sends it. -/
def ownBytes (p : Plan) (w : Win) (j : Nat) : Nat :=
  if isReduce w && w.desc.wire == 1 then 1 + chunkElems p w j else heldBytes p w j

/-- Bytes of a chunk at the destination. -/
def deliveredBytes (p : Plan) (w : Win) (j : Nat) : Nat :=
  if isReduce w then destSize w.desc * chunkElems p w j else chunkLen p w j

/-- Bytes of the message that an instruction names. -/
def namedBytes (p : Plan) (x : Inst) (o : OFields) : Nat := ((namedMsg p x o).map msgBytes).getD 0

/-- Bytes of the message that a data instruction sends. -/
def sendBytes (s : State) (p : Plan) (x : Inst) (i : Instr) : Nat :=
  let c := stepChunk x i
  match planWin s p c.1 with
  | none => 0
  | some (_, w) =>
    match i with
    | .sendAcc _ => heldBytes p w c.2
    | .sendOwn _ => ownBytes p w c.2
    | .sendMem _ => chunkLen p w c.2
    | .rrs _ => heldBytes p w c.2
    | .forward o => namedBytes p x o
    | _ => 0

/-- Bytes of a scale message: a magnitude and its flag, or a scale. -/
def scaleBytes : Nat := 8

def actReady (s : State) (p : Plan) (x : Inst) (o : OFields) : ScaleAct → Bool
  | .recvChild c => (scaleMsg p x o c).isSome
  | .recvDown r => (scaleMsg p x o r).isSome
  | .sendUp r => canSend s p (BitVec.ofNat 64 r) scaleBytes
  | .sendDown c => canSend s p (BitVec.ofNat 64 c) scaleBytes

/-- A data instruction's step is ready; none for another instruction. -/
def stepReady (s : State) (p : Plan) (x : Inst) (i : Instr) : Option Bool :=
  let fits (peer : Word) : Bool := canSend s p peer (sendBytes s p x i)
  match i with
  | .sendAcc o => some (fits (gReg x o.a))
  | .sendOwn o => some (fits (gReg x o.a))
  | .sendMem o => some (fits (gReg x o.a))
  | .recvAcc o => some (namedMsg p x o).isSome
  | .recvDest o => some (namedMsg p x o).isSome
  | .rrs o => some ((namedMsg p x o).isSome && fits (gReg x o.d))
  | .copyOwn _ => some true
  | .copyDest _ => some true
  | .copyLoad _ => some true
  | .copyStore _ => some true
  | .combine o => some (namedMsg p x o).isSome
  | .forward o => some ((namedMsg p x o).isSome && fits (gReg x o.d))
  | .scalex o =>
    match (scaleActs p (scaleArity o.imm))[x.scale]? with
    | some a => some (actReady s p x o a)
    | none => some true
  | _ => none

/-- The larger of the bytes that a step reads and the bytes that it writes, in messages, memory, area, destination and acc
(R392); COMBINE reads acc where it adds to it, and that is not counted beside the message (log 4). -/
def stepBytes (p : Plan) (x : Inst) (w : Win) (j : Nat) (i : Instr) : Nat :=
  match i with
  | .sendMem _ => chunkLen p w j
  | .recvAcc o => Nat.max (namedBytes p x o) (heldBytes p w j)
  | .recvDest o => Nat.max (namedBytes p x o) (deliveredBytes p w j)
  | .rrs o => Nat.max (namedBytes p x o) (heldBytes p w j)
  | .copyLoad _ => Nat.max (chunkLen p w j) (heldBytes p w j)
  | .copyStore _ => Nat.max (heldBytes p w j) (chunkLen p w j)
  | .combine o => Nat.max (namedBytes p x o) (heldBytes p w j)
  | .forward o => Nat.max (namedBytes p x o) (if o.f = 1 then deliveredBytes p w j else 0)
  | .scalex _ => if x.scale = 0 then Nat.max scaleBytes (heldBytes p w j) else scaleBytes
  | _ => heldBytes p w j

/-- Ticks for which a step holds its datapath: one ns for each 256 bytes begun (R392, log 4). -/
def stepTicks (s : State) (p : Plan) (x : Inst) (i : Instr) : Nat :=
  let c := stepChunk x i
  let b := match planWin s p c.1 with
    | none => 0
    | some (_, w) => stepBytes p x w c.2 i
  17 * ((b + 255) / 256)

/-! ### What the steps do (R386) -/

/-- Send a message. A peer's package that the plan had no route to at PLAN_LOAD fails the round (FABRIC reason 7, R394); a later
route change does not (R392). -/
def sendTo (s : State) (n : Nat) (x : Inst) (p : Plan) (peer : Nat) (m : DMsg) : State :=
  if !rankHere s p peer && !p.reach.contains (rankPkg p peer) then failRound s n stFpart peer
  else
    let s1 := modPlan s x.plan fun p => { p with used := SMap.set p.used 0 peer (SMap.get p.used 0 peer + 1) }
    modInst (postMsg s1 p m) n oAdvance

/-- The message of a SEND. -/
def freshMsg (x : Inst) (p : Plan) (o : OFields) (peer j : Nat) (form : DForm) (items : List (Option (BitVec 32))) : DMsg :=
  { comm := p.comm, seq := x.seq, source := p.rank, dest := peer, chunk := j, tag := immTag o.imm, origin := p.rank
    window := immWin o.imm, form := form, items := items }

/-- The window of an instruction's immediate; an instruction whose plan lacks it only goes on (PLAN_LOAD refuses such a
plan). -/
def onWindow (s : State) (n : Nat) (p : Plan) (imm : BitVec 40) (f : Nat → Win → State) : State :=
  match planWin s p (immWin imm) with
  | none => modInst s n oAdvance
  | some (w, x) => f w x

/-- Send acc to a rank. -/
def sendAccTo (s : State) (n : Nat) (x : Inst) (p : Plan) (w : Win) (o : OFields) (peer j : Nat) : State :=
  if isReduce w then
    let r := accF32 s x (chunkElems p w j)
    sendTo r.1 n x p peer (freshMsg x p o peer j .fp32 r.2)
  else
    let r := accBytes s x (chunkLen p w j)
    sendTo r.1 n x p peer (freshMsg x p o peer j .raw (r.2.map some))

/-- SEND.acc. -/
def runSendAcc (o : OFields) (n : Nat) (x : Inst) (p : Plan) (s : State) : State :=
  onWindow s n p o.imm fun _ w => sendAccTo s n x p w o (gReg x o.a).toNat (gReg x o.b).toNat

/-- SEND.own. -/
def runSendOwn (o : OFields) (n : Nat) (x : Inst) (p : Plan) (s : State) : State :=
  onWindow s n p o.imm fun _ w =>
    let j := (gReg x o.b).toNat
    let peer := (gReg x o.a).toNat
    sendTo s n x p peer (freshMsg x p o peer j (ownItems p w j).1 (ownItems p w j).2)

def byteItems (bs : List Byte) : List (Option (BitVec 32)) := bs.map fun b => some (b.zeroExtend 32)

/-- SEND.mem: a source on a die that is cut off fails the send (FABRIC reason 6), any other fault the member (R394). -/
def runSendMem (o : OFields) (n : Nat) (x : Inst) (p : Plan) (s : State) : State :=
  onWindow s n p o.imm fun _ w =>
    let j := (gReg x o.b).toNat
    let peer := (gReg x o.a).toNat
    match damRead s p (gReg x o.d).toNat (chunkLen p w j) with
    | (s1, .error cut) => failRound s1 n stFpart (if cut then peer else p.rank)
    | (s1, .ok bs) => sendTo s1 n x p peer (freshMsg x p o peer j .raw (byteItems bs))

/-- RECV.acc. -/
def runRecvAcc (o : OFields) (n : Nat) (x : Inst) (p : Plan) (s : State) : State :=
  onWindow s n p o.imm fun _ w =>
    match namedMsg p x o with
    | none => s
    | some m =>
      let s1 := useMsg s x.plan p m
      if isReduce w then
        match msgElems m.form m.items with
        | some xs => modInst s1 n fun x => oAdvance (setAcc x false xs)
        | none => wrongForm s1 n p
      else if m.form = .raw then modInst s1 n fun x => oAdvance (setAcc x true m.items)
      else wrongForm s1 n p

/-- RECV.dest. -/
def runRecvDest (o : OFields) (n : Nat) (x : Inst) (p : Plan) (s : State) : State :=
  onWindow s n p o.imm fun _ w =>
    match namedMsg p x o with
    | none => s
    | some m => modInst (deliverMsg (useMsg s x.plan p m) n p w m) n oAdvance

/-- Combine elements into acc; an empty operand leaves the other as it is (R249, R250). -/
def combineItem (a b : Option (BitVec 32)) : Option (BitVec 32) :=
  match a, b with
  | some u, some v => some (BitVec.ofNat 32 (f32AddRne u.toNat v.toNat))
  | some u, none => some u
  | none, y => y

/-- acc after a COMBINE of `e` elements. -/
def combined (x : Inst) (accs : List (Option (BitVec 32))) (xs : List (Option (BitVec 32))) (e : Nat) : Inst :=
  let kept := if x.accRaw then [] else x.acc
  { x with accRaw := false, acc := (List.range e).foldl (fun m k =>
      match combineItem ((accs[k]?).getD none) ((xs[k]?).getD none) with
      | some v => SMap.put m k v
      | none => m) kept }

/-- COMBINE, and what follows it. -/
def combineThen (o : OFields) (n : Nat) (x : Inst) (p : Plan) (s : State) (k : State → Inst → Win → State) : State :=
  onWindow s n p o.imm fun _ w =>
    match namedMsg p x o with
    | none => s
    | some m =>
      let s1 := useMsg s x.plan p m
      match (if isReduce w then msgElems m.form m.items else none) with
      | none => wrongForm s1 n p
      | some xs =>
        let e := chunkElems p w (gReg x o.b).toNat
        let r := accF32 s1 x e
        let y := combined x r.2 xs e
        k (modInst r.1 n fun _ => y) y w

/-- COMBINE. -/
def runCombine (o : OFields) (n : Nat) (x : Inst) (p : Plan) (s : State) : State :=
  combineThen o n x p s fun s _ _ => modInst s n oAdvance

/-- RRS: COMBINE from g[a], then SEND.acc to g[d]. -/
def runRrs (o : OFields) (n : Nat) (x : Inst) (p : Plan) (s : State) : State :=
  combineThen o n x p s fun s y w => sendAccTo s n y p w o (gReg x o.d).toNat (gReg x o.b).toNat

/-- COPY.own. -/
def runCopyOwn (o : OFields) (n : Nat) (x : Inst) (p : Plan) (s : State) : State :=
  onWindow s n p o.imm fun _ w =>
    let own := ownItems p w (gReg x o.b).toNat
    match msgElems own.1 own.2 with
    | some xs => modInst s n fun x => oAdvance (setAcc x false xs)
    | none => modInst s n fun x => oAdvance (setAcc x true own.2)

/-- COPY.dest. -/
def runCopyDest (o : OFields) (n : Nat) (x : Inst) (p : Plan) (s : State) : State :=
  onWindow s n p o.imm fun _ w =>
    let j := (gReg x o.b).toNat
    if isReduce w then
      let r := accF32 s x (chunkElems p w j)
      modInst (deliverElems r.1 n p w j r.2) n oAdvance
    else
      let r := accBytes s x (chunkLen p w j)
      modInst (deliverBytes r.1 n p w p.rank j r.2) n oAdvance

/-- Store-type elements as FP32, and back. -/
def fromStore (d : WinDesc) (bs : List Byte) (k : Nat) : BitVec 32 :=
  let z := storeSize d
  let v := bytesToNat ((bs.drop (k * z)).take z)
  BitVec.ofNat 32 (if z = 2 then v * 65536 else v)

def toStore (d : WinDesc) (v : Option (BitVec 32)) : List Byte :=
  let x := (v.getD 0x80000000).toNat
  if storeSize d = 2 then natToBytes 2 (fmtBf16.enc .rne false (f32val x)) else natToBytes 4 x

/-- COPY.load. -/
def runCopyLoad (o : OFields) (n : Nat) (x : Inst) (p : Plan) (s : State) : State :=
  onWindow s n p o.imm fun _ w =>
    let j := (gReg x o.a).toNat
    match damRead s p (gReg x o.b).toNat (chunkLen p w j) with
    | (s1, .error _) => failRound s1 n stFpart p.rank
    | (s1, .ok bs) =>
      let items := if isReduce w then (List.range (chunkElems p w j)).map fun k => some (fromStore w.desc bs k) else byteItems bs
      modInst s1 n fun x => oAdvance (setAcc x (!isReduce w) items)

/-- COPY.store. -/
def runCopyStore (o : OFields) (n : Nat) (x : Inst) (p : Plan) (s : State) : State :=
  onWindow s n p o.imm fun _ w =>
    let j := (gReg x o.a).toNat
    if isReduce w then
      let r := accF32 s x (chunkElems p w j)
      modInst (putBytes r.1 n p (gReg x o.b).toNat (r.2.flatMap (toStore w.desc))) n oAdvance
    else
      let r := accBytes s x (chunkLen p w j)
      modInst (putBytes r.1 n p (gReg x o.b).toNat (r.2.map itemByte)) n oAdvance

/-- FORWARD, with or without .dlv: the message goes on with this rank as its source. -/
def runForward (o : OFields) (n : Nat) (x : Inst) (p : Plan) (s : State) : State :=
  onWindow s n p o.imm fun _ w =>
    match namedMsg p x o with
    | none => s
    | some m =>
      let peer := (gReg x o.d).toNat
      let s1 := useMsg s x.plan p m
      let s2 := if o.f = 1 then deliverMsg s1 n p w m else s1
      match inst? s2 n with
      | none => s2
      | some y => sendTo s2 n y p peer { m with source := p.rank, dest := peer }

/-! ### SCALEX (R387) -/

/-- The magnitude of the member's own chunk; a window that holds bytes gives an undefined one (log 3). -/
def ownMagnitude (s : State) (p : Plan) (w : Win) (j : Nat) : State × Nat × Bool :=
  if isReduce w then (s, magnitude (areaElems p w j))
  else ({ s with free := s.free + 1 }, (Config.freeWord s.free).toNat % 2 ^ 31, false)

/-- The scale that this member sends down or keeps. -/
def agreedScale (p : Plan) (x : Inst) : BitVec 8 := if p.rank = 0 then rootScale x.scaleMax x.scaleNf else x.scaleX

/-- One step's action: the state, and the instance's account after it; none where the round has failed. -/
def scaleStep (s : State) (n : Nat) (x : Inst) (p : Plan) (o : OFields) (a : ScaleAct) : State × Option Inst :=
  let j := (gReg x o.a).toNat
  let take (src : Nat) (f : DMsg → Inst) : State × Option Inst :=
    match scaleMsg p x o src with
    | none => (s, some x)
    | some m =>
      let s1 := useMsg s x.plan p m
      if m.form = .scale then (s1, some (f m)) else (wrongForm s1 n p, none)
  let item (m : DMsg) (i : Nat) : BitVec 32 := ((m.items[i]?).getD none).getD 0
  let send (peer : Nat) (items : List (BitVec 32)) : State × Option Inst :=
    let s1 := sendTo s n x p peer (freshMsg x p o peer j .scale (items.map some))
    (s1, if (inst? s1 n).isSome then some x else none)
  match a with
  | .recvChild c => take c fun m =>
      { x with scaleMax := Nat.max x.scaleMax (item m 0).toNat, scaleNf := x.scaleNf || (item m 1).getLsbD 0 }
  | .recvDown r => take r fun m => { x with scaleX := (item m 0).truncate 8 }
  | .sendUp r => send r [BitVec.ofNat 32 x.scaleMax, if x.scaleNf then 1 else 0]
  | .sendDown c => send c [(agreedScale p x).zeroExtend 32]

/-- SCALEX: one step of it. -/
def runScalex (o : OFields) (n : Nat) (x : Inst) (p : Plan) (s : State) : State :=
  onWindow s n p o.imm fun w win =>
    let j := (gReg x o.a).toNat
    let acts := scaleActs p (scaleArity o.imm)
    let r := if x.scale = 0 then ownMagnitude s p win j else (s, x.scaleMax, x.scaleNf)
    let x1 : Inst := { x with scaleMax := r.2.1, scaleNf := r.2.2 }
    let r2 : State × Option Inst := match acts[x.scale]? with
      | some a => scaleStep r.1 n x1 p o a
      | none => (r.1, some x1)
    match r2.2 with
    | none => r2.1
    | some y =>
      if y.scale + 1 < acts.length then modInst r2.1 n fun _ => { y with scale := y.scale + 1 }
      else
        let s3 := modWin r2.1 w fun z => { z with scales := SMap.put z.scales j (agreedScale p y) }
        modInst s3 n fun _ => oAdvance { y with scale := 0 }

/-! ### Datapaths (R392) -/

/-- What a data instruction's step does. -/
def stepRun (i : Instr) (n : Nat) (x : Inst) (p : Plan) (s : State) : State :=
  match i with
  | .sendAcc o => runSendAcc o n x p s
  | .sendOwn o => runSendOwn o n x p s
  | .sendMem o => runSendMem o n x p s
  | .recvAcc o => runRecvAcc o n x p s
  | .recvDest o => runRecvDest o n x p s
  | .rrs o => runRrs o n x p s
  | .copyOwn o => runCopyOwn o n x p s
  | .copyDest o => runCopyDest o n x p s
  | .copyLoad o => runCopyLoad o n x p s
  | .copyStore o => runCopyStore o n x p s
  | .combine o => runCombine o n x p s
  | .forward o => runForward o n x p s
  | .scalex o => runScalex o n x p s
  | _ => s

/-- An instance with its plan, where it is idle, registered and stands at a ready data step. -/
def readyStep (s : State) (n : Nat) : Option (Inst × Plan × Instr) :=
  match inst? s n with
  | none => none
  | some x =>
    match plan? s x.plan, fetchO s n with
    | some p, some i => if x.registered && !onPath s n && stepReady s p x i == some true then some (x, p, i) else none
    | _, _ => none

/-- The instances of a class with a ready step, in ascending number. -/
def readyOf (s : State) (cls : Nat) : List Nat :=
  (s.damask.insts.map (·.1)).filter fun n =>
    match readyStep s n with
    | some (_, p, _) => p.prio == cls
    | none => false

/-- The instance that a datapath takes next: of the highest class with a ready step, the lowest-numbered after the one it last
served in that class, wrapping (R392). -/
def chosen (s : State) (d : Nat) : Option Nat :=
  [3, 2, 1, 0].findSome? fun cls =>
    let ns := readyOf s cls
    let next := match SMap.find? s.damask.served (4 * d + cls) with
      | some last => ns.find? fun n => decide (last < n)
      | none => none
    match next with
    | some n => some n
    | none => ns.head?

/-- Begin a step on a datapath. -/
def beginStep (s : State) (d n : Nat) (x : Inst) (p : Plan) (i : Instr) (run : Nat → Inst → Plan → State → State) : State :=
  let s1 := { s with damask := { s.damask with
    paths := SMap.put s.damask.paths d (n, s.now + stepTicks s p x i)
    served := SMap.put s.damask.served (4 * d + p.prio) n } }
  run n x p s1

/-- The lowest datapath that serves no step, one whose step has reached its end among them (R405). -/
def freePath (s : State) : Option Nat :=
  SMap.lowestFree (s.damask.paths.filter fun e => decide (s.now < e.2.2)) 0 8

/-- The step of a data instruction begins when it is ready, a datapath is free and that datapath would take it. -/
def chunkStep (i : Instr) (run : Nat → Inst → Plan → State → State) (s : State) : Res :=
  issueO s fun n x p s =>
    match freePath s with
    | none => s
    | some d =>
      if stepReady s p x i = some true ∧ (chosen s d = some n ∨ chosen s d = none) then beginStep s d n x p i run else s

/-- SEND_ACC (R386). -/
def execSendAcc (o : OFields) (s : State) : Res := chunkStep (.sendAcc o) (runSendAcc o) s

/-- SEND_OWN (R386, R389). -/
def execSendOwn (o : OFields) (s : State) : Res := chunkStep (.sendOwn o) (runSendOwn o) s

/-- SEND_MEM (R386). -/
def execSendMem (o : OFields) (s : State) : Res := chunkStep (.sendMem o) (runSendMem o) s

/-- RECV_ACC (R386, R389). -/
def execRecvAcc (o : OFields) (s : State) : Res := chunkStep (.recvAcc o) (runRecvAcc o) s

/-- RECV_DEST (R380, R386). -/
def execRecvDest (o : OFields) (s : State) : Res := chunkStep (.recvDest o) (runRecvDest o) s

/-- RRS (R386). -/
def execRrs (o : OFields) (s : State) : Res := chunkStep (.rrs o) (runRrs o) s

/-- COPY_OWN (R386, R389). -/
def execCopyOwn (o : OFields) (s : State) : Res := chunkStep (.copyOwn o) (runCopyOwn o) s

/-- COPY_DEST (R380, R386). -/
def execCopyDest (o : OFields) (s : State) : Res := chunkStep (.copyDest o) (runCopyDest o) s

/-- COPY_LOAD (R386). -/
def execCopyLoad (o : OFields) (s : State) : Res := chunkStep (.copyLoad o) (runCopyLoad o) s

/-- COPY_STORE (R386). -/
def execCopyStore (o : OFields) (s : State) : Res := chunkStep (.copyStore o) (runCopyStore o) s

/-- MATCH (R386): never waits. -/
def execMatch (o : OFields) (s : State) : Res :=
  issueInst s fun _ p x => oAdvance (wg x o.d (if (namedMsg p x o).isSome then 1 else 0))

/-- COMBINE (R386). -/
def execCombine (o : OFields) (s : State) : Res := chunkStep (.combine o) (runCombine o) s

/-- FORWARD (R386). -/
def execForward (o : OFields) (s : State) : Res := chunkStep (.forward o) (runForward o) s

/-- SCALEX (R387). -/
def execScalex (o : OFields) (s : State) : Res := chunkStep (.scalex o) (runScalex o) s

/-- DATAPATH_STEP_COMPLETE (R392): the datapath is free, and the lowest-numbered of those that are takes the next ready step
(R405). -/
def execDatapathStepComplete (d : Nat) (s : State) : Res :=
  match SMap.find? s.damask.paths d with
  | none => .next s
  | some (_, t) =>
    if s.now < t then .next s
    else
      let s1 := { s with damask := { s.damask with paths := SMap.erase s.damask.paths d } }
      let e := (freePath s1).getD d
      match chosen s1 e with
      | none => .next s1
      | some n =>
        match readyStep s1 n with
        | none => .next s1
        | some (x, p, i) => .next (beginStep s1 e n x p i (stepRun i))

end Sys2Proof.Machine
end

