-- ==== Sys2Proof/Machine/Round.lean ====
section
/-! DEFINITION. Rounds of Damask: how they start (R354, R381), what arrives for them (R378, R390, R394, R396), their limit, and
the transport's timeout of requests and messages (R203). -/

namespace Sys2Proof.Machine

open Sys2Proof

/-! ### Messages reaching a member (R390) -/

/-- A message is discarded and its credit goes back. -/
def discardMsg (s : State) (p : Plan) (m : DMsg) : State := returnCredit s p m.source

/-- A message of the seq of the round that runs: held, or discarded as a duplicate or as one sender too many. -/
def admitMsg (s : State) (h n : Nat) (m : DMsg) : State :=
  match plan? s h, inst? s n with
  | some p, some x =>
    if x.keys.contains (m.source, m.chunk, m.tag) then modInst (discardMsg s p m) n fun x => mergeRound x stDup 0
    else if !x.senders.contains m.source && decide (p.fanin ≤ x.senders.length) then
      modInst (discardMsg s p m) n fun x => mergeRound x stFpart m.source
    else
      let s1 := modInst s n fun x => { x with
        keys := (m.source, m.chunk, m.tag) :: x.keys
        senders := if x.senders.contains m.source then x.senders else m.source :: x.senders }
      modPlan s1 h fun p => { p with bufs := p.bufs ++ [m] }
  | _, _ => s

/-- A message reaches its member: held for a later round, taken into the round that runs, or discarded. -/
def takeMsg (s : State) (m : DMsg) : State :=
  match memberPlan s m.comm m.dest with
  | none => s
  | some (h, p) =>
    if p.seq < m.seq then modPlan s h fun p => { p with bufs := p.bufs ++ [m] }
    else
      match runningInst s h with
      | none => discardMsg s p m
      | some (n, x) =>
        if m.seq = x.seq then admitMsg s h n m
        else modInst (discardMsg s p m) n fun x => mergeRound x stDup 0

/-- DAMASK_MESSAGE_ARRIVAL (R390). -/
def execDamaskMessageArrival (n : Nat) (s : State) : Res :=
  match SMap.find? s.fabric.msgs n with
  | none => .next s
  | some m => .next (takeMsg { s with fabric := { s.fabric with msgs := SMap.erase s.fabric.msgs n } } m)

/-! ### The start of a round (R381) -/

/-- A round of a plan starts: a free instance, the next seq, the destination locks, and the messages already held for it. -/
def startRound (s : State) (h n : Nat) (p : Plan) (arg : Word) (node : Option (Nat × Nat)) : State :=
  let seq := p.seq + 1
  let waiting := p.bufs.filter fun (m : DMsg) => decide (m.seq = seq)
  let x : Inst := { plan := h, seq := seq, arg := arg, began := s.now, node := node }
  let s1 := modPlan s h fun p => { p with seq := seq, bufs := p.bufs.filter fun (m : DMsg) => decide (m.seq ≠ seq) }
  let s2 := { s1 with damask := { s1.damask with insts := SMap.put s1.damask.insts n x } }
  waiting.foldl (fun s m => admitMsg s h n m) (registered s2 n x p)

/-- Start a round of a plan for a context: the answers of GSTART (R354). -/
def tryStart (s : State) (cn h : Nat) (arg : Word) (node : Option (Nat × Nat)) : State × Nat :=
  match plan? s h with
  | none => (s, 1)
  | some p =>
    if p.ctx ≠ cn then (s, 1)
    else if (runningInst s h).isSome then (s, 2)
    else
      match SMap.lowestFree s.damask.insts 0 64 with
      | none => (s, 3)
      | some n => (startRound s h n p arg node, 0)

/-- GSTART (R354). -/
def execGstart (d a b : BitVec 6) (s : State) : Res :=
  issueA (.gstart d a b) s fun gid g s =>
    releaseThen s gid d fun s _ =>
      let h := (rs g a).toNat
      if 2 ^ 32 ≤ h then (s, 1) else tryStart s g.ctx h (rs g b) none

/-- GSIG (R354). -/
def execGsig (d a b : BitVec 6) (s : State) : Res :=
  issueA (.gsig d a b) s fun gid g s =>
    releaseThen s gid d fun s _ =>
      let h := (rs g a).toNat
      match plan? s h with
      | none => (s, 1)
      | some p =>
        if p.ctx ≠ g.ctx then (s, 1)
        else if (runningInst s h).isNone then (s, 2)
        else (modPlan s h fun p => { p with sig := rs g b }, 0)

/-! ### Credits and notices (R390, R394) -/

/-- The oldest message on its way to a rank, which its credit acknowledges (log 27). -/
def oldestOut (s : State) (comm : BitVec 32) (dest : Nat) : Option Nat :=
  (List.find? (fun (e : Nat × OutMsg) => decide (e.2.msg.comm = comm) && decide (e.2.msg.dest = dest)) s.fabric.outMsgs).map (·.1)

/-- CREDIT_RETURN (R390). -/
def execCreditReturn (n : Nat) (s : State) : Res :=
  match SMap.find? s.fabric.credits n with
  | none => .next s
  | some c =>
    let s1 := { s with fabric := { s.fabric with credits := SMap.erase s.fabric.credits n } }
    match memberPlan s1 c.comm c.to_ with
    | none => .next s1
    | some (h, p) =>
      let s2 := modPlan s1 h fun p => { p with used := SMap.set p.used 0 c.from_ (SMap.get p.used 0 c.from_ - 1) }
      if rankHere s2 p c.from_ then .next s2
      else
        match oldestOut s2 c.comm c.from_ with
        | none => .next s2
        | some k => .next { s2 with fabric := { s2.fabric with outMsgs := SMap.erase s2.fabric.outMsgs k } }

/-- Every window of a round is acknowledged. -/
def allAcked (p : Plan) (x : Inst) : Bool := (List.range p.wins.length).all fun i => x.acked.contains i

/-- FAILURE_NOTICE_ARRIVAL (R394): FPART with the failing member, once, while the round runs and is not all acknowledged. -/
def execFailureNoticeArrival (n : Nat) (s : State) : Res :=
  match SMap.find? s.fabric.notes n with
  | none => .next s
  | some d =>
    let s1 := { s with fabric := { s.fabric with notes := SMap.erase s.fabric.notes n } }
    match memberPlan s1 d.comm d.dest with
    | none => .next s1
    | some (h, p) =>
      match runningInst s1 h with
      | none => .next s1
      | some (i, x) =>
        if x.seq ≠ d.seq ∨ x.noticed.contains d.member = true ∨ allAcked p x = true then .next s1
        else .next (modInst s1 i fun x => { mergeRound x stFpart d.member with noticed := d.member :: x.noticed })

/-! ### The round limit (R394) -/

/-- The rank that an instance waits for, where it stands at an instruction that waits for one. -/
def awaited (p : Plan) (x : Inst) (i : Instr) : Option Nat :=
  let first (o : OFields) : Option Nat := if (namedMsg p x o).isNone then some (gReg x o.a).toNat else none
  match i with
  | .sendAcc o => some (gReg x o.a).toNat
  | .sendOwn o => some (gReg x o.a).toNat
  | .sendMem o => some (gReg x o.a).toNat
  | .recvAcc o => first o
  | .recvDest o => first o
  | .combine o => first o
  | .rrs o => some ((first o).getD (gReg x o.d).toNat)
  | .forward o => some ((first o).getD (gReg x o.d).toNat)
  | .scalex o =>
    match (scaleActs p (scaleArity o.imm))[x.scale]? with
    | some (.recvChild c) => some c
    | some (.recvDown r) => some r
    | some (.sendUp r) => some r
    | some (.sendDown c) => some c
    | none => none
  | _ => none

/-- The failing member of a round that has passed its limit. -/
def lateMember (s : State) (n : Nat) (p : Plan) (x : Inst) : Nat :=
  match fetchO s n with
  | none => p.rank
  | some i =>
    match (if stepReady s p x i = some false then awaited p x i else none) with
    | some r => if r < p.nranks then r else p.rank
    | none => p.rank

/-- ROUND_LIMIT_EXPIRY (R394): a step under way completes first (R396). -/
def execRoundLimitExpiry (n : Nat) (s : State) : Res :=
  match inst? s n with
  | none => .next s
  | some x =>
    match plan? s x.plan with
    | none => .next s
    | some p =>
      if onPath s n ∨ s.now < x.began + 17000 * p.limit then .next s
      else .next (failRound s n stFpart (lateMember s n p x))

/-! ### Window stores (R378) -/

/-- An earlier store of the same core must be applied first: one to the same window, and for a close every window store
that left before it, the data of its own ST among them (R378). -/
def storeBehind (s : State) (n : Nat) (w : WinStore) : Bool :=
  s.fabric.stores.any fun e =>
    decide (e.1 < n) && decide (e.2.core = w.core)
      && (decide (e.2.window = w.window) || (w.closes != 0 && (decide (e.2.pair ≠ w.pair) || !e.2.items.isEmpty)))

/-- Add one element to a REDUCE area. -/
def addElem (d : WinDesc) (m : SMap (BitVec 32)) (i v : Nat) : SMap (BitVec 32) :=
  let x := if storeSize d = 2 then v * 65536 else v
  SMap.set m 0x80000000 i (BitVec.ofNat 32 (f32AddRne (SMap.get m 0x80000000 i).toNat x))

/-- Apply a store's elements, `k` of them, each the `z` bytes that follow one another. -/
def addElems (d : WinDesc) (m : SMap (BitVec 32)) (items : List (Nat × BitVec 8)) (z : Nat) : Nat → SMap (BitVec 32)
  | 0 => m
  | k + 1 =>
    match items with
    | [] => m
    | e :: _ => addElems d (addElem d m (e.1 / z) (bytesToNat ((items.take z).map (·.2)))) (items.drop z) z k

/-- A window's area after the data of a store. -/
def applyItems (w : Win) (items : List (Nat × BitVec 8)) : SMap (BitVec 32) :=
  if isReduce w then addElems w.desc w.area items (storeSize w.desc) items.length
  else items.foldl (fun m e => SMap.set m 0 e.1 (e.2.zeroExtend 32)) w.area

/-- WINDOW_STORE_ARRIVAL (R378): a store at a closed area waits; closes beyond those that close it count later. -/
def execWindowStoreArrival (n : Nat) (s : State) : Res :=
  match SMap.find? s.fabric.stores n with
  | none => .next s
  | some st =>
    let gone := { s with fabric := { s.fabric with stores := SMap.erase s.fabric.stores n } }
    match SMap.find? s.damask.wins st.window with
    | none => .next gone
    | some w =>
      if w.plan ≠ st.plan then .next gone
      else if winClosed w || storeBehind s n st then .next s
      else
        let take := Nat.min st.closes (w.desc.closers - w.closes)
        let rest := SMap.put s.fabric.stores n { st with items := [], closes := st.closes - take }
        let s1 := if take < st.closes then { s with fabric := { s.fabric with stores := rest } } else gone
        .next (modWin s1 st.window fun w => { w with area := applyItems w st.items, closes := w.closes + take })

/-! ### The transport gives up (R203) -/

/-- A message that the transport has not delivered: its round fails, if it still runs (R394). -/
def lostMsg (s : State) (m : DMsg) : State :=
  match memberPlan s m.comm m.source with
  | none => s
  | some (h, _) =>
    match runningInst s h with
    | none => s
    | some (i, x) => if x.seq = m.seq then failRound s i stFpart m.dest else s

/-- A message that is still not acknowledged 1 ms after its first transmission is lost (R203, R394). -/
def expireMsg (s : State) (n : Nat) : State :=
  match SMap.find? s.fabric.outMsgs n with
  | none => s
  | some x =>
    if s.now < x.at_ + 17000000 then s
    else lostMsg { s with fabric := { s.fabric with outMsgs := SMap.erase s.fabric.outMsgs n } } x.msg

/-- RETRY_LATER_EXPIRY (R203): an entry still refused 1 ms after its first refusal, one sent again and not answered
included. A message that its peer goes on refusing fails its round as one that is not delivered does (R394). -/
def execRetryLaterExpiry (n : Nat) (s : State) : Res :=
  match SMap.find? s.fabric.reqs n with
  | none => .next (expireMsg s n)
  | some r =>
    match r.refusedAt with
    | some t => if t + 17000000 ≤ s.now then .next (failReq s n 0x0F 2) else .next s
    | none => .next s

/-- TRANSPORT_TIMEOUT (R203): a request or message not delivered within 1 ms of its first transmission. -/
def execTransportTimeout (n : Nat) (s : State) : Res :=
  match SMap.find? s.fabric.reqs n with
  | some r =>
    if r.sent && r.refusedAt.isNone && decide (r.began + 17000000 ≤ s.now) then .next (failReq s n 0x0F 3) else .next s
  | none => .next (expireMsg s n)

end Sys2Proof.Machine
end

