-- ==== Sys2Proof/Machine/Graph.lean ====
section
/-! DEFINITION. Task graphs (R124 to R127): what Quince reads at start, how a node launches or fires, what its completion
subtracts, and the graph's own end. -/

namespace Sys2Proof.Machine

open Sys2Proof

/-! ### Reading a graph (R124) -/

/-- A 64-byte node without its successors, and where they stand: first index and number. -/
def nodeOf (bs : List Byte) : GNode × Nat × Nat :=
  let f := recField bs
  ({ kind := f 0 1, preds := f 2 2, target := BitVec.ofNat 64 (f 16 8), yes := f 24 2, no := f 26 2
     barrier := BitVec.ofNat 64 (f 56 8) }, f 8 4, f 4 2)

/-- A node within its limits, in a graph of `n` nodes. -/
def nodeOk (n : Nat) (bs : List Byte) : Bool :=
  let x := (nodeOf bs).1
  let ns := (nodeOf bs).2.2
  let branch := x.kind == 4 || x.kind == 5
  decide (1 ≤ x.kind ∧ x.kind ≤ 5) && zeroAt bs 1 1 && zeroAt bs 6 2 && zeroAt bs 12 4 && zeroAt bs 28 28
    && (x.kind != 5 || x.preds == 1)
    && (!branch || (ns == 0 && x.target.toNat % 8 == 0 && decide (x.yes < n) && (decide (x.no < n) || x.no == 0xFFFF)))

/-- Read one node with its successors: none where a read fails or the node is malformed. -/
def readNode (s : State) (cn va succ n i : Nat) : State × Option GNode :=
  match pkgRead s cn (va + 64 + 64 * i) 64 with
  | (s1, none) => (s1, none)
  | (s1, some bs) =>
    let x := nodeOf bs
    if !nodeOk n bs then (s1, none)
    else
      match pkgRead s1 cn (va + succ + 2 * x.2.1) (2 * x.2.2) with
      | (s2, none) => (s2, none)
      | (s2, some ws) =>
        let ss := (List.range x.2.2).map fun k => recField ws (2 * k) 2
        if ss.any fun k => decide (n ≤ k) then (s2, none) else (s2, some { x.1 with succs := ss })

def readNodes (s : State) (cn va succ n : Nat) : List Nat → State × Option (List GNode)
  | [] => (s, some [])
  | i :: rest =>
    match readNode s cn va succ n i with
    | (s1, none) => (s1, none)
    | (s1, some x) =>
      let r := readNodes s1 cn va succ n rest
      (r.1, r.2.map fun xs => x :: xs)

/-- Read a whole graph; none for a malformed one. -/
def readGraph (s : State) (cn : Nat) (va area : Word) : State × Option (List GNode) :=
  if va.toNat % 64 ≠ 0 ∨ area.toNat % 4 ≠ 0 then (s, none)
  else
    match pkgRead s cn va.toNat 64 with
    | (s1, none) => (s1, none)
    | (s1, some bs) =>
      let n := recField bs 2 2
      let succ := recField bs 4 4
      if recField bs 0 2 ≠ 1 ∨ n = 0 ∨ succ % 2 ≠ 0 ∨ zeroAt bs 8 56 = false then (s1, none)
      else readNodes s1 cn va.toNat succ n (List.range n)

/-! ### Counts in the state area (R124, R125) -/

/-- Write bytes of a context's memory for Quince; none where an address fails. -/
def pkgWrite (s : State) (cn va : Nat) (bs : List Byte) : State × Bool :=
  (cutAll [va] bs.length).foldl (fun (r : State × Bool) e =>
    if r.2 then
      match translatePkg r.1 cn ((va + e.1) % 2 ^ 64) .write with
      | (s1, .error _) => (s1, false)
      | (s1, .ok t) =>
        if (placeFault s1 cn t.pa).isSome || !(isHbm t.pa || isBank t.pa || (isHostMem t.pa && !s1.fabric.hostReset)) then
          (s1, false)
        else (homeWrite s1 (slotOf s1 cn) t.pa ((bs.drop e.1).take e.2), true)
    else r) (s, true)

/-- Set a node's count. -/
def setCount (s : State) (g : Graph) (i c : Nat) : State × Bool := pkgWrite s g.ctx (g.area.toNat + 4 * i) (natToBytes 4 c)

/-- A node's count. -/
def getCount (s : State) (g : Graph) (i : Nat) : State × Option Nat :=
  let r := pkgRead s g.ctx (g.area.toNat + 4 * i) 4
  (r.1, r.2.map bytesToNat)

def modGraph (s : State) (n : Nat) (f : Graph → Graph) : State := { s with graphs := SMap.modify s.graphs n f }

/-- The graph has failed: its own arrival will carry ABAND (R127). -/
def failGraph (s : State) (n : Nat) : State := modGraph s n fun g => { g with failed := true }

/-- The WAITING kernel of a node. -/
def waitingKernel (s : State) (n i : Nat) : Option Nat :=
  (List.find? (fun (e : Nat × Kernel) => e.2.state == .waiting && decide (e.2.origin = .node n i)) s.kernels).map (·.1)

/-- The kernel instances of a graph that never left WAITING go with the graph. -/
def dropWaiting (s : State) (n : Nat) : State :=
  { s with kernels := s.kernels.filter fun e => !(e.2.state == .waiting && (match e.2.origin with | .node m _ => m == n | _ => false)) }

/-- A graph ends: its record's arrival, with ABAND when it has failed (R127). -/
def endGraph (s : State) (n : Nat) (g : Graph) : State :=
  let s1 := dropWaiting { s with graphs := SMap.erase s.graphs n } n
  completeRecord s1 g.ctx (.record g.queue g.late) g.barrier 1
    { bits := if g.failed then stAband else 0, failures := if g.failed then 1 else 0, member := 0xFFFE }

/-- A graph completes when no launched node is unfinished and none is ready (R127). -/
def settleGraph (s : State) (n : Nat) : State :=
  match SMap.find? s.graphs n with
  | none => s
  | some g => if g.started && g.live.isEmpty && g.ready.isEmpty && g.done.isEmpty then endGraph s n g else s

/-! ### Launching (R125) -/

/-- A node reports a failure of its launch. -/
def nodeFails (s : State) (n i : Nat) : State :=
  modGraph s n fun g => { g with done := g.done ++ [(i, { bits := stAband, failures := 1, member := 0xFFFE })] }

/-- The launch record that a node names, when it has the kind that the node needs (R124). -/
def nodeRecord (s : State) (cn : Nat) (x : GNode) : State × Option (List Byte) :=
  match pkgRead s cn x.target.toNat 64 with
  | (s1, none) => (s1, none)
  | (s1, some bs) => (s1, if badRecord bs || recField bs 0 2 != (if x.kind = 1 then 1 else 4) then none else some bs)

/-- Launch a kernel, copy or collective node: its count is reloaded, and its work begins. -/
def launchNode (s : State) (n i : Nat) (g : Graph) (x : GNode) : State :=
  let s0 := (setCount (modGraph s n fun g => { g with live := g.live ++ [i] }) g i x.preds).1
  if x.kind = 3 then
    let r := tryStart s0 g.ctx (x.target.toNat % 2 ^ 32) 0 (some (n, i))
    if r.2 = 0 then r.1 else nodeFails r.1 n i
  else
    match nodeRecord s0 g.ctx x with
    | (s1, none) => nodeFails s1 n i
    | (s1, some bs) =>
      if x.kind = 1 then
        let s2 := match waitingKernel s1 n i with
          | some k => { s1 with kernels := SMap.erase s1.kernels k }
          | none => s1
        launchKernel s2 g.ctx g.prio (.node n i) 0 .ready bs
      else startCopy s1 g.ctx (recField bs 8 8) (recField bs 16 8) (recField bs 4 4) (.node n i) 0

/-- A node whose count has reached zero is ready; a kernel, copy or collective node launches at once, unless the context's
launches are stopped (R125, R173). -/
def nodeReady (s : State) (n i : Nat) : State :=
  match SMap.find? s.graphs n with
  | none => s
  | some g =>
    match g.nodes[i]? with
    | none => s
    | some x =>
      if x.kind ≤ 3 ∧ mayHand s g.ctx = true then launchNode s n i g x
      else modGraph s n fun g => { g with ready := g.ready ++ [i] }

/-- Subtract 1 from a node's count. -/
def subtractNode (s : State) (n i : Nat) : State :=
  match SMap.find? s.graphs n with
  | none => s
  | some g =>
    match getCount s g i with
    | (s1, none) => failGraph s1 n
    | (s1, some c) =>
      let c' := (c + 2 ^ 32 - 1) % 2 ^ 32
      match setCount s1 g i c' with
      | (s2, false) => failGraph s2 n
      | (s2, true) => if c' = 0 then nodeReady s2 n i else s2

/-- A kernel of a node that waits for its count (R118). -/
def waitKernel (s : State) (n i : Nat) (g : Graph) : State :=
  let m := newSerial s
  let k : Kernel := { ctx := g.ctx, state := .waiting, prio := g.prio, origin := .node n i, handed := s.now }
  { m.2 with kernels := SMap.put m.2.kernels m.1 k }

/-- GRAPH_START (R124, R125): a graph waits while its Quince holds 256 instances. -/
def execGraphStart (n : Nat) (s : State) : Res :=
  match SMap.find? s.graphs n with
  | none => .next s
  | some g =>
    if g.started ∨ mayHand s g.ctx = false ∨ 256 ≤ graphsAt s g.die then .next s
    else
      match readGraph s g.ctx g.va g.area with
      | (s1, none) => .next (endGraph s1 n { g with failed := true })
      | (s1, some nodes) =>
        match pkgWrite s1 g.ctx g.area.toNat (nodes.flatMap fun x => natToBytes 4 x.preds) with
        | (s2, false) => .next (endGraph s2 n { g with failed := true })
        | (s2, true) =>
          let g1 := { g with started := true, nodes := nodes }
          let ixs := (nodes.zipIdx).map fun e => (e.2, e.1)
          let s3 := { s2 with graphs := SMap.put s2.graphs n g1 }
          let s4 := (ixs.filter fun e => e.2.kind = 1 ∧ e.2.preds ≠ 0).foldl (fun s e => waitKernel s n e.1 g1) s3
          let s5 := (ixs.filter fun e => e.2.preds = 0).foldl (fun s e => nodeReady s n e.1) s4
          .next (settleGraph s5 n)

/-! ### Completion and firing (R125, R126) -/

/-- The arrival at a node's barrier; one that fails its check makes the graph fail (R124). -/
def nodeArrives (s : State) (n : Nat) (g : Graph) (x : GNode) (st : Status) : State :=
  if x.barrier = 0 then s
  else
    match barrierHome s g.ctx x.barrier with
    | (s1, .error _) => failGraph s1 n
    | (s1, .ok l) => sendUpd s1 { home := l, core := 0, slot := slotOf s1 g.ctx, from_ := none, op := .arrive 1 st }

/-- A node's work has ended: a release, its barrier's arrival, and the subtractions of a node that did not fail. -/
def nodeEnds (s : State) (n i : Nat) (g : Graph) (x : GNode) (st : Status) : State :=
  let drop (l : List Nat) : List Nat := l.erase i
  let s1 := modGraph (flushAll s) n fun g => { g with live := drop g.live, done := g.done.erase (i, st) }
  let s2 := nodeArrives s1 n g x { st with member := 0xFFFE }
  if st.bits &&& failMask = 0 then x.succs.foldl (fun s k => subtractNode s n k) s2 else failGraph s2 n

/-- A condition or while node fires (R126): at the next firing after 2^32 - 1 the graph ends with ABAND. Such a node counts as one
with no successor on a firing whose chosen node is 0xFFFF (log 45). -/
def nodeFires (s : State) (n i : Nat) (g : Graph) (x : GNode) : State :=
  let s1 := modGraph s n fun g => { g with ready := g.ready.erase i }
  let fired := SMap.get g.fires 0 i
  if x.kind = 5 ∧ 2 ^ 32 - 1 ≤ fired then endGraph s1 n { g with failed := true }
  else
    let s2 := (setCount (modGraph s1 n fun g => { g with fires := SMap.set g.fires 0 i (fired + 1) }) g i x.preds).1
    match pkgRead s2 g.ctx x.target.toNat 8 with
    | (s3, none) => failGraph s3 n
    | (s3, some bs) =>
      let to_ := if bytesToNat bs = 0 then x.no else x.yes
      if to_ = 0xFFFF then nodeArrives s3 n g x { member := 0xFFFE } else subtractNode s3 n to_

/-- GRAPH_NODE_COMPLETE (R125 to R127): a node whose work has ended completes, or a ready one launches or fires. -/
def execGraphNodeComplete (n node : Nat) (s : State) : Res :=
  match SMap.find? s.graphs n with
  | none => .next s
  | some g =>
    match g.nodes[node]? with
    | none => .next s
    | some x =>
      match g.done.find? fun e => e.1 = node with
      | some e => .next (settleGraph (nodeEnds s n node g x e.2) n)
      | none =>
        if g.ready.contains node = false ∨ mayHand s g.ctx = false then .next s
        else if x.kind ≤ 3 then .next (launchNode (modGraph s n fun g => { g with ready := g.ready.erase node }) n node g x)
        else .next (settleGraph (nodeFires s n node g x) n)

/-- Every graph of a context ends (R128). -/
def endGraphs (s : State) (cn : Nat) : State :=
  (s.graphs.filter fun e => e.2.ctx = cn).foldl (fun s e => endGraph s e.1 { e.2 with failed := true }) s

end Sys2Proof.Machine
end

