-- ==== Sys2Proof/Machine/Plan.lean ====
section
/-! DEFINITION. Plan images (R373, R374), what PLAN_LOAD checks and does (R375, R383, R384, R392), and PLAN_UNLOAD
(R376). -/

namespace Sys2Proof.Machine

open Sys2Proof

/-- The answer of a command: the state, its status (R166), and its results from byte 16 on. -/
structure Reply where
  s       : State
  status  : Nat
  results : List Byte := []
  deriving DecidableEq, Repr

/-- Status codes of R166. -/
def stOk : Nat := 0
def stMalformed : Nat := 1
def stRefused : Nat := 2
def stBusy : Nat := 3
def stNores : Nat := 4
def stUnknown : Nat := 5
def stInProgress : Nat := 6
def stNoVc : Nat := 7
def stAuthFail : Nat := 8

/-- A command answered with nothing changed. -/
def answered_ (s : State) (status : Nat) : Reply := { s := s, status := status }

/-- A command that succeeds. -/
def done_ (s : State) (results : List Byte) : Reply := { s := s, status := stOk, results := results }

/-! ### The program (R267, R383, R384) -/

/-- The window index that an Odnar instruction names. -/
def namesWin (i : Instr) : Option Nat :=
  match i with
  | .setg o => if o.f = 8 then some (immWin o.imm) else none
  | .chunk o => some (immWin o.imm)
  | .sendAcc o => some (immWin o.imm)
  | .sendOwn o => some (immWin o.imm)
  | .sendMem o => some (immWin o.imm)
  | .recvAcc o => some (immWin o.imm)
  | .recvDest o => some (immWin o.imm)
  | .rrs o => some (immWin o.imm)
  | .copyOwn o => some (immWin o.imm)
  | .copyDest o => some (immWin o.imm)
  | .copyLoad o => some (immWin o.imm)
  | .copyStore o => some (immWin o.imm)
  | .match_ o => some (immWin o.imm)
  | .combine o => some (immWin o.imm)
  | .forward o => some (immWin o.imm)
  | .scalex o => some (immWin o.imm)
  | .waitWin o => some (immWin o.imm)
  | .ackw o => some (immWin o.imm)
  | _ => none

/-- The offset in words of an instruction that can branch. -/
def branchOff (i : Instr) : Option Int :=
  match i with
  | .loop o => some (o.imm.extractLsb' 0 20).toInt
  | .endl o => some (o.imm.extractLsb' 0 20).toInt
  | .brg o => some o.imm.toInt
  | _ => none

/-- The instruction at word `k` of a program of `n` words passes the loader. -/
def wordOk (n nwin slotNs k : Nat) (w : Word) : Bool :=
  match decodeO w with
  | .error _ => false
  | .ok i =>
    oWf i
      && (match namesWin i with | some x => decide (x < nwin) | none => true)
      && (match branchOff i with | some o => decide (0 ≤ (k : Int) + o) && decide ((k : Int) + o < n) | none => true)
      && (match i with | .tstart _ => slotNs != 0 | _ => true)
      && (k + 1 != n || (match i with | .odnarEnd _ => true | .brg o => o.f == 6 | _ => false))

/-- A program that PLAN_LOAD accepts. -/
def programOk (nwin slotNs : Nat) (ws : List Word) : Bool := ws.zipIdx.all fun e => wordOk ws.length nwin slotNs e.2 e.1

/-! ### The image (R373, R374) -/

/-- A window descriptor. -/
def descOf (bs : List Byte) : WinDesc :=
  let f := recField bs
  { kind := f 0 1, store := f 1 1, wire := f 2 1, dest := f 3 1, closers := f 4 2, length := f 8 8
    dva := BitVec.ofNat 64 (f 16 8), bva := BitVec.ofNat 64 (f 24 8) }

/-- A descriptor within its limits, for chunks of `c` bytes. -/
def descOk (c : Nat) (bs : List Byte) : Bool :=
  let d := descOf bs
  decide (1 ≤ d.kind ∧ d.kind ≤ 3) && d.wire ≤ 1 && 1 ≤ d.closers && zeroAt bs 6 2 && zeroAt bs 32 32
    && d.length % 8 == 0 && decide (8 ≤ d.length ∧ d.length ≤ 0x0FFFFFF8) && d.dva.toNat % destSize d == 0
    && (if d.kind = 2 then (d.store == 1 || d.store == 2) && decide (1 ≤ d.dest ∧ d.dest ≤ 3) && decide (c * 4 / storeSize d ≤ 65536)
        else d.store == 0 && d.wire == 0 && d.dest == 0)

/-- The parts of an image: the plan as its header, location table and program give it, and its window descriptors. -/
structure PlanImage where
  plan  : Plan
  descs : List WinDesc
  deriving DecidableEq, Repr

/-- Parse an image of a context; none when any field is outside its limits. -/
def planImage (s : State) (cn : Nat) (bs : List Byte) : Option PlanImage :=
  let f := recField bs
  let nranks := f 2 2
  let rank := f 4 2
  let chunk := if f 12 4 = 0 then 4096 else f 12 4
  let limit := if f 20 4 = 0 then 1000000 else f 20 4
  let poff := f 24 4
  let plen := f 28 2
  let nwin := f 31 1
  let loff := f 32 4
  let woff := f 36 4
  let header := bs.length ≥ 64 && f 0 2 == 1 && decide (1 ≤ nranks ∧ nranks ≤ 4096) && decide (rank < nranks) && f 6 1 ≤ 3
    && decide (1 ≤ f 7 1 ∧ f 7 1 ≤ 64) && f 8 4 != 0 && chunk % 1024 == 0 && decide (chunk ≤ 65536) && limit ≤ 60000000
    && poff % 8 == 0 && decide (1 ≤ plen ∧ plen ≤ 4096) && decide (1 ≤ f 30 1 ∧ f 30 1 ≤ 64) && nwin ≤ 16 && loff % 8 == 0
    && woff % 64 == 0 && zeroAt bs 40 24
    && decide (poff + 8 * plen ≤ bs.length) && decide (loff + 8 * nranks ≤ bs.length) && decide (woff + 64 * nwin ≤ bs.length)
  if !header then none
  else
    let loc (r : Nat) : Nat := f (loff + 8 * r) 8
    let locsOk := (List.range nranks).all fun r => bits (loc r) 12 4 == 0 && bits (loc r) 28 36 == 0
    let mine := bits (loc rank) 0 12 == s.fabric.pkgId && bits (loc rank) 16 12 == cn
    let desc (i : Nat) : List Byte := (bs.drop (woff + 64 * i)).take 64
    let prog := (List.range plen).map fun k => BitVec.ofNat 64 (f (poff + 8 * k) 8)
    if locsOk && mine && (List.range nwin).all (fun i => descOk chunk (desc i)) && programOk nwin (f 16 4) prog then
      some {
        plan := { ctx := cn, comm := BitVec.ofNat 32 (f 8 4), rank := rank, nranks := nranks, prio := f 6 1, fanin := f 7 1
                  chunk := chunk, slotNs := f 16 4, limit := limit, nbuf := f 30 1, prog := prog
                  locs := (List.range nranks).map fun r => (bits (loc r) 0 12, bits (loc r) 16 12) }
        descs := (List.range nwin).map fun i => descOf (desc i) }
    else none

/-- The bytes of staging that a plan needs (R375). -/
def stagingNeed (x : PlanImage) : Nat :=
  let buf (d : WinDesc) : Nat := if d.kind = 2 then x.plan.chunk * 4 / storeSize d else x.plan.chunk
  let b := x.descs.foldl (fun m d => Nat.max m (buf d)) 0
  let areas := (x.descs.map fun d => if d.kind = 2 then d.length * 4 / storeSize d else d.length).foldl (· + ·) 0
  let scales := (x.descs.map fun d => if d.wire = 1 then (d.length + x.plan.chunk - 1) / x.plan.chunk else 0).foldl (· + ·) 0
  x.plan.fanin * x.plan.nbuf * (b + 64) + areas + scales

/-! ### Channels (R392) -/

/-- The packages of a plan's remote peers. -/
def remotePkgs (s : State) (p : Plan) : List Nat := (p.locs.map (·.1)).filter fun x => x ≠ s.fabric.pkgId

/-- The ports by which a plan reaches a package. -/
def portsTo (s : State) (p : Plan) (pkg : Nat) : BitVec 32 :=
  let e := SMap.get s.fabric.routes 0 pkg
  if e.getLsbD 63 then e.truncate 32 &&& (partOf s (ctxOf s p.ctx).part).ports else 0

/-- A plan's port set. -/
def planPorts (s : State) (p : Plan) : BitVec 32 := (remotePkgs s p).foldl (fun m x => m ||| portsTo s p x) 0

/-- The channel of a plan: 0 with no remote peer; the one its communicator holds on its ports, or the lowest free on all of
them; none where there is none, or the plan has no port at all. -/
def pickChannel (s : State) (p : Plan) : Option Nat :=
  if (remotePkgs s p).isEmpty then some 0
  else
    let ports := lanesOf (planPorts s p)
    let cs := s.damask.chans
    let all15 := (List.range 15).map (· + 1)
    let held := all15.find? fun c => ports.all fun q => cs.contains (q, c, p.comm)
    let free := all15.find? fun c => ports.all fun q => !cs.any fun e => e.1 == q && e.2.1 == c
    if ports.isEmpty then none
    else match held with
      | some c => some c
      | none => free

/-- The communicator holds a channel on every port of a plan. -/
def holdChannel (s : State) (p : Plan) (c : Nat) : List (Nat × Nat × BitVec 32) :=
  if c = 0 then s.damask.chans
  else (lanesOf (planPorts s p)).foldl (fun m q => if m.contains (q, c, p.comm) then m else (q, c, p.comm) :: m) s.damask.chans

/-! ### PLAN_LOAD and PLAN_UNLOAD (R375, R376) -/

/-- Zero bytes of a command (R165). -/
def zeroOp (cmd : List Byte) (at_ n : Nat) : Bool := zeroAt cmd at_ n

/-- The lowest free window numbers. -/
def openWins (s : State) (n : Nat) : List Nat :=
  ((List.range 4096).filter fun w => (SMap.find? s.damask.wins w).isNone).take n

/-- A run of HBM inside a context's partition. -/
def inHbm (s : State) (cn at_ n : Nat) : Bool :=
  let p := partOf s (ctxOf s cn).part
  decide (p.hbase ≤ at_) && decide (at_ + n ≤ p.hbase + p.hlen)

/-- The windows' completion barriers are 32-byte aligned and lie in HBM or a bank store (R93, R374, log 29). -/
def barsOk (s : State) (cn : Nat) : List WinDesc → State × Bool
  | [] => (s, true)
  | d :: rest =>
    match barrierHome s cn d.bva with
    | (s1, .error _) => (s1, false)
    | (s1, .ok _) => barsOk s1 cn rest

/-- Take a plan in. -/
def enterPlan (s : State) (x : PlanImage) (c staging : Nat) (ws : List Nat) : Reply :=
  let h := s.damask.nextHandle
  let reach := (remotePkgs s x.plan).filter fun k => portsTo s x.plan k ≠ 0
  let p : Plan := { x.plan with wins := ws, vc := c, ports := planPorts s x.plan, reach := reach, staging := staging }
  let wins := (ws.zip x.descs).zipIdx.foldl (fun m e => SMap.put m e.1.1 { plan := h, idx := e.2, desc := e.1.2 }) s.damask.wins
  done_ { s with damask := { s.damask with
      plans := SMap.put s.damask.plans h p, wins := wins, chans := holdChannel s p c, nextHandle := h + 1 } }
    (natToBytes 4 h ++ natToBytes 1 c ++ natToBytes 3 0
      ++ ((List.range 16).map fun i => (ws[i]?).getD 0xFFFF).flatMap (natToBytes 2))

/-- PLAN_LOAD for a context that the requester owns. -/
def planLoad (s : State) (cn : Nat) (cmd : List Byte) : Reply :=
  let img := recField cmd 24 8
  let len := recField cmd 32 4
  let stg := recField cmd 40 8
  let slen := recField cmd 48 8
  if !(zeroOp cmd 18 6 && zeroOp cmd 36 4 && zeroOp cmd 56 200 && img % 64 == 0 && inHbm s cn img len && stg % 4096 == 0
      && inHbm s cn stg slen) then answered_ s stMalformed
  else
    match planImage s cn (memBytes s (slotOf s cn) img len) with
    | none => answered_ s stMalformed
    | some x =>
      let b := barsOk s cn x.descs
      let s1 := b.1
      if !b.2 then answered_ s1 stMalformed
      else if (memberPlan s1 x.plan.comm x.plan.rank).isSome then answered_ s1 stRefused
      else
        let ws := openWins s1 x.descs.length
        if 256 ≤ s1.damask.plans.length ∨ ws.length < x.descs.length ∨ slen < stagingNeed x then answered_ s1 stNores
        else
          match pickChannel s1 x.plan with
          | none => answered_ s1 stNoVc
          | some c => enterPlan s1 x c stg ws

/-- Unload a plan: a round of it fails with ABAND, its windows, locks and handle are free, and its communicator's channels too
once no plan of it is left. -/
def unloadPlan (s : State) (h : Nat) : State :=
  match plan? s h with
  | none => s
  | some p =>
    let s1 := match runningInst s h with
      | some (n, _) => failRound s n stAband p.rank
      | none => s
    let locked := (s1.dies.flatMap fun e => e.2.locks.map (·.2.by_)).filter fun b =>
      match b with | .window w _ => p.wins.contains w | _ => false
    let s2 := locked.foldl unlock s1
    let mine (w : Nat × Nat) : Bool := p.wins.contains w.1
    let d := s2.damask
    let plans := SMap.erase d.plans h
    { s2 with
      homeQ := s2.homeQ.map fun u => { u with win := u.win.filter fun w => !mine w }
      damask := { d with
        plans := plans
        wins := d.wins.filter fun e => e.2.plan ≠ h
        chans := if plans.any fun e => decide (e.2.comm = p.comm) then d.chans else d.chans.filter fun e => e.2.2 ≠ p.comm } }

/-- Unload every plan of a context (R172). -/
def unloadPlans (s : State) (cn : Nat) : State :=
  ((s.damask.plans.filter fun e => e.2.ctx = cn).map (·.1)).foldl unloadPlan s

end Sys2Proof.Machine
end

