-- ==== Sys2Proof/Machine/Context.lean ====
section
/-! DEFINITION. The context control block (R174): saving (R175, R176), restoring (R181), killing and resuming (R70). -/

namespace Sys2Proof.Machine

open Sys2Proof

/-- Set LAST (R174). -/
def setLast (s : State) (cn v : Nat) : State := modCtx s cn fun c => { c with last := v }

/-- The kernels of a context. -/
def ctxKernels (s : State) (cn : Nat) : List (Nat × Kernel) := s.kernels.filter fun e => e.2.ctx = cn

/-- The teams of a context, with their kernels, in ascending (kernel, team). -/
def ctxTeams (s : State) (cn : Nat) : List (Nat × Team × Kernel) :=
  s.teams.filterMap fun e =>
    match kern? s (e.1 / 4294967296) with
    | some k => if k.ctx = cn then some (e.1, e.2, k) else none
    | none => none

/-- The groups of a context. -/
def ctxGroups (s : State) (cn : Nat) : List (Nat × Group) := s.groups.filter fun e => e.2.ctx = cn

/-- The largest of some numbers. -/
def maxOf (l : List Nat) : Nat := l.foldl Nat.max 0

/-- The sum of some numbers. -/
def sumOf (l : List Nat) : Nat := l.foldl (· + ·) 0

/-! ### SAVE (R175) -/

/-- The worst case of a save: the placed teams whose space is not reserved already. -/
def saveWorst (s : State) (cn : Nat) : Nat :=
  sumOf ((ctxTeams s cn).map fun e =>
    if e.2.1.placed ∧ e.2.1.reserved = 0 then teamWorst s (e.1 / 4294967296) (e.1 % 4294967296) e.2.2 else 0)

/-- SAVE: begin a save. -/
def beginSave (s : State) (cn : Nat) : State :=
  let c := ctxOf s cn
  if c.state ≠ .loaded ∧ c.state ≠ .running then setLast s cn 1
  else if (ctxGroups s cn).any fun e => e.2.stop.isSome then setLast s cn 2
  else if poolFree c < saveWorst s cn then setLast s cn 3
  else
    ((ctxTeams s cn).filter fun e => e.2.1.placed).foldl
      (fun s e => postYield s (e.1 / 4294967296) (e.1 % 4294967296)) (setCState s cn .quiescing 0)

/-! ### The image header (R176) -/

/-- The saved teams of one span. -/
def spanSaved (ts : List (Nat × Team × Kernel)) (e : Nat × Team × Kernel) : Nat :=
  (ts.filter fun x => x.1 / 4294967296 = e.1 / 4294967296 ∧ x.2.1.span = e.2.1.span).length

/-- Bytes of a team's record, from its head (R177). -/
def recBytes (s : State) (cn : Nat) (x : Team) : Nat := ctxRead s cn ((ctxOf s cn).savePool + x.saveAt + 56) 4

/-- The 256 bytes of the header. -/
def imageHeader (s : State) (cn : Nat) (ts : List (Nat × Team × Kernel)) : List Byte :=
  let c := ctxOf s cn
  let of (f : Kernel → Nat) : Nat := maxOf (ts.map fun e => f e.2.2)
  let size := Nat.max 256 (maxOf (ts.map fun e => e.2.1.saveAt + recBytes s cn e.2.1))
  padTo 256 (natToBytes 2 1 ++ natToBytes 2 cn ++ natToBytes 4 0 ++ natToBytes 8 size ++ natToBytes 4 ts.length
    ++ natToBytes 4 ((ts.head?.map fun e => e.2.1.saveAt).getD 0)
    ++ natToBytes 4 (of (·.scratch)) ++ natToBytes 2 (of (·.hdr.tiles)) ++ natToBytes 2 (of (·.hdr.bslots))
    ++ natToBytes 4 (maxOf (ts.map fun e => (teamGroups s (e.1 / 4294967296) (e.1 % 4294967296)).length))
    ++ natToBytes 4 c.spawnLog ++ natToBytes 4 (sumOf ((ctxGroups s cn).map fun e => gtRead s e.2 20 4))
    ++ natToBytes 4 (of (·.hdr.bank)) ++ natToBytes 4 (maxOf (ts.map (spanSaved ts))))

/-- Chain the team records: each one's `next` names the one after it. -/
def chainRecords (s : State) (cn : Nat) : List (Nat × Team × Kernel) → State
  | [] => s
  | e :: rest =>
    chainRecords (ctxPut s cn ((ctxOf s cn).savePool + e.2.1.saveAt + 40) 8 ((rest.head?.map fun x => x.2.1.saveAt).getD 0)) cn rest

/-- Everything a quiescing context still had under way is performed (R173). -/
def quiet (s : State) (cn : Nat) : Bool :=
  !((ctxTeams s cn).any fun e => e.2.1.placed)
    && !(s.engines.any fun e => e.2.ctx == cn)
    && !(s.fabric.reqs.any fun e => decide (e.2.ctx = cn) && !e.2.held)
    && !(s.homeQ.any fun u => match u.from_ with | some g => g / 1048576 == cn | none => false)

/-- CONTEXT_SAVE_COMPLETE (R173, R176): a quiescing context with nothing under way becomes SAVED, and the image header is
written. -/
def execContextSaveComplete (cn : Nat) (s : State) : Res :=
  match SMap.find? s.ctxs cn with
  | none => .next s
  | some c =>
    if c.state ≠ .quiescing ∨ quiet s cn = false then .next s
    else
      let ts := ctxTeams s cn
      let h := imageHeader s cn ts
      let s1 := ctxWrite (chainRecords s cn ts) cn c.savePool h
      .next (setCState (modCtx s1 cn fun c => { c with cisize := recField h 8 8, last := 0 }) cn .saved 0)

/-! ### The form of an image (R181) -/

/-- The offsets of the records of a chain of `n`, in order; none where the chain is not of exactly that length. -/
def chainOf (rd : Nat → Nat → Nat) (size : Nat) : Nat → Nat → Option (List Nat)
  | 0, off => if off = 0 then some [] else none
  | n + 1, off =>
    if off = 0 ∨ off % 4096 ≠ 0 ∨ size < off + 64 then none
    else (chainOf rd size n (rd (off + 40) 8)).map fun l => off :: l

/-- The handles and sizes of `n` group records from an offset on; none where one's kind or safe point is not its
kernel's. -/
def groupRecs (rd : Nat → Nat → Nat) (k : Kernel) : Nat → Nat → Option (List (Nat × Nat))
  | 0, _ => some []
  | n + 1, off =>
    let sp := rd (off + 4) 2
    let size : Option Nat := match rd (off + 6) 1 with
      | 1 => if sp < k.table.length then some (spSize (spEntry k sp)) else none
      | 2 => some (wholeSize k.hdr)
      | _ => none
    match size with
    | none => none
    | some z => (groupRecs rd k n (off + z)).map fun l => (rd off 4, z) :: l

/-- The key of the team that a record names, if the record is well formed and the team is saved. -/
def recTeam (s : State) (cn : Nat) (rd : Nat → Nat → Nat) (size off : Nat) : Option Nat :=
  let kn := rd off 8
  let t := rd (off + 16) 4
  match kern? s kn, team? s kn t with
  | some k, some x =>
    let ng := rd (off + 24) 2
    match groupRecs rd k ng (off + 64 + rd (off + 28) 4 + 32 * rd (off + 34) 2) with
    | none => none
    | some gs =>
      let total := 64 + rd (off + 28) 4 + 32 * rd (off + 34) 2 + sumOf (gs.map (·.2))
      if k.ctx = cn ∧ k.state = .suspended ∧ x.placed = false ∧ 1 ≤ ng ∧ rd (off + 56) 4 = total ∧ off + total ≤ size
 then some (teamKey kn t)
      else none
  | _, _ => none

/-- Runs of bytes no two of which overlap. -/
def apart : List (Nat × Nat) → Bool
  | [] => true
  | r :: rest => rest.all (fun e => decide (r.1 + r.2 ≤ e.1) || decide (e.1 + e.2 ≤ r.1)) && apart rest

/-- The records of a well-formed image of a context, as team key, offset and bytes. -/
def imageRecs (s : State) (cn : Nat) (rd : Nat → Nat → Nat) : Option (List (Nat × Nat × Nat)) :=
  let size := rd 8 8
  let n := rd 16 4
  if rd 0 2 ≠ 1 ∨ rd 2 2 ≠ cn ∨ size < 256 ∨ size / 4096 < n then none
  else
    match chainOf rd size n (rd 20 4) with
    | none => none
    | some offs =>
      match offs.mapM (recTeam s cn rd size) with
      | none => none
      | some keys =>
        let rs := offs.map fun o => (o, rd (o + 56) 4)
        if apart rs ∧ keys.Nodup then some (keys.zip rs) else none

/-! ### Capacity and RESTORE (R181) -/

/-- The kernel of a record. -/
def recKern (s : State) (r : Nat × Nat × Nat) : Kernel := teamKern s r.1

/-- The records of the span that a record belongs to. -/
def recSpan (s : State) (rs : List (Nat × Nat × Nat)) (r : Nat × Nat × Nat) : Nat :=
  let span (key : Nat) : Nat := ((SMap.find? s.teams key).map fun x => x.span).getD 0
  (rs.filter fun x => x.1 / 4294967296 = r.1 / 4294967296 ∧ span x.1 = span r.1).length

/-- The first capacity check that an image fails, 1 to 5. -/
def capacityFail (s : State) (cn : Nat) (rd : Nat → Nat → Nat) (rs : List (Nat × Nat × Nat)) : Option Nat :=
  let c := ctxOf s cn
  let dies : List Nat := [0, 1, 2, 3]
  if rs.any fun r => dies.all fun d => dieCapacity s (recKern s r) d == 0 then some 1
  else if rs.any fun r =>
    !dies.any fun d => decide (recSpan s rs r ≤ dieCapacity s (recKern s r) d)
      && decide ((recKern s r).hdr.bank ≤ shareBytes s (recKern s r) d) then some 2
  else if c.spawnLog < rd 36 1 then some 3
  else if c.quota < rd 40 4 then some 4
  else if c.saveLen < rd 8 8 then some 5
  else none

/-- An image may lie where the context could keep it: in its partition's HBM or bank-store share, or in host memory. -/
def imagePlace (s : State) (c : Context) (pa n : Nat) : Bool :=
  inPartRange (partOf s c.part) pa n || (isHostMem pa && isHostMem (pa + n - 1) && !s.fabric.hostReset)

/-- Take an image back: it is copied into the save pool, its teams are saved there, and the context is LOADED. -/
def takeImage (s : State) (cn : Nat) (at_ size : Nat) (rs : List (Nat × Nat × Nat)) : State :=
  let c := ctxOf s cn
  let s1 := if at_ = c.savePool then s else ctxWrite s cn c.savePool (memBytes s c.slot at_ size)
  let s2 := rs.foldl (fun s r => { s with teams := SMap.modify s.teams r.1 fun x => { x with saveAt := r.2.1, reserved := 0 } }) s1
  setCState (modCtx s2 cn fun c => { c with used := rs.map fun r => (r.2.1, inUnits r.2.2), last := 0 }) cn .loaded 0

/-- RESTORE. No more of an image is looked at than the save pool holds: a larger one fails its capacity check. -/
def restore (s : State) (cn : Nat) : State :=
  let c := ctxOf s cn
  let at_ := c.cimg.toNat
  let rd (o n : Nat) : Nat := memNat s c.slot (at_ + o) n
  if c.state ≠ .saved then setLast s cn 1
  else if at_ % 4096 ≠ 0 ∨ imagePlace s c at_ 256 = false then setLast s cn 4
  else if badRun s at_ 256 then setCState s cn .faulted 2
  else if imagePlace s c at_ (Nat.max 256 (Nat.min (rd 8 8) c.saveLen)) = false then setLast s cn 4
  else if badRun s at_ (Nat.min (rd 8 8) c.saveLen) then setCState s cn .faulted 2
  else
    match imageRecs s cn rd with
    | none => setLast s cn 4
    | some rs =>
      match capacityFail s cn rd rs with
      | some i => logEvent (setLast s cn 5) cn 3 0x11 cn (2 + 256 * i)
      | none => takeImage s cn at_ (rd 8 8) rs

/-! ### KILL and RESUME (R70, R174) -/

/-- Kill the kernels of a context that a test selects. -/
def killKernels (s : State) (cn reason : Nat) (p : Kernel → Bool) : State :=
  ((ctxKernels s cn).filter fun e => p e.2).foldl (fun s e => endKernel s e.1 .killed reason) s

/-- KILL: every live and READY kernel. -/
def killAll (s : State) (cn : Nat) : State :=
  setLast (killKernels s cn 6 fun k => isLive k || k.state == .ready) cn 0

/-- The groups of a STOPPED team: every group that a stop has reached stands stopped. -/
def stoppedTeam (s : State) (e : Nat × Group) : Bool :=
  (teamGroups s e.2.kern e.2.team).all fun x => x.2.stop.isNone || x.2.st == .stopped

/-- RESUME: every STOPPED team goes on; stop records still to be written are written first. -/
def resumeAll (s : State) (cn : Nat) : State :=
  let gs := ((ctxGroups s cn).filter fun e => e.2.stop.isSome && stoppedTeam s e).map (·.1)
  setLast (gs.foldl resumeGroup (gs.foldl writeStop s)) cn 0

/-! ### CCTL (R174) -/

/-- A write of CCTL: several of SAVE, RESTORE, KILL and RESUME at once set LAST 6. -/
def cctlWrite (s : State) (who : Requester) (cn : Nat) (v : Word) : State :=
  if !owns s who cn then s
  else
    match v.getLsbD 63, v.getLsbD 62, v.getLsbD 61, v.getLsbD 60 with
    | false, false, false, false => s
    | true, false, false, false => beginSave s cn
    | false, true, false, false => restore s cn
    | false, false, true, false => killAll s cn
    | false, false, false, true => resumeAll s cn
    | _, _, _, _ => setLast s cn 6

/-- CCTL_SAVE (R175). -/
def execCctlSave (who : Requester) (cn : Nat) (s : State) : Res := .next (cctlWrite s who cn 0x8000000000000000)

/-- CCTL_RESTORE (R181). -/
def execCctlRestore (who : Requester) (cn : Nat) (s : State) : Res := .next (cctlWrite s who cn 0x4000000000000000)

/-- CCTL_KILL (R174). -/
def execCctlKill (who : Requester) (cn : Nat) (s : State) : Res := .next (cctlWrite s who cn 0x2000000000000000)

/-- CCTL_RESUME (R70). -/
def execCctlResume (who : Requester) (cn : Nat) (s : State) : Res := .next (cctlWrite s who cn 0x1000000000000000)

end Sys2Proof.Machine
end

