-- ==== Sys2Proof/Machine/Partition.lean ====
section
/-! DEFINITION. Partitions (R162 to R164), and creating, keying and ending contexts (R170 to R172). -/

namespace Sys2Proof.Machine

open Sys2Proof

/-- Contexts of a partition that are not DESTROYED. -/
def partCtxs (s : State) (p : Nat) : List (Nat × Context) :=
  s.ctxs.filter fun e => e.2.part = p ∧ e.2.state ≠ .destroyed

/-- A context of the partition is RUNNING or QUIESCING (R163, R164). -/
def partBusy (s : State) (p : Nat) : Bool :=
  (partCtxs s p).any fun e => e.2.state == .running || e.2.state == .quiescing

/-! ### PART_SET (R163, R164) -/

/-- A proxy hart's three fields. -/
def proxyField (cmd : List Byte) (at_ : Nat) : Proxy :=
  { hart := recField cmd at_ 8, imsic := recField cmd (at_ + 8) 8, mailbox := recField cmd (at_ + 16) 8 }

/-- The cores of a die's mask that passed their start-up tests. -/
def grantable (s : State) (d : Nat) (m : BitVec 192) : BitVec 192 :=
  (List.range 192).foldl (fun (r : BitVec 192) i =>
    if m.getLsbD i && !(coreOf s (192 * d + i)).failed then r ||| BitVec.ofNat 192 (2 ^ i) else r) 0

/-- The partition that a command asks for; its shares are placed later. -/
def askedPart (s : State) (cmd : List Byte) : Part :=
  { hosting := recField cmd 17 1
    masks := (List.range 4).map fun d => grantable s d (BitVec.ofNat 192 (recField cmd (24 + 24 * d) 24))
    hbase := recField cmd 120 8
    hlen := recField cmd 128 8
    ports := BitVec.ofNat 32 (recField cmd 136 4)
    share := (List.range 4).map fun d => recField cmd (140 + d) 1
    up := proxyField cmd 144
    hc := proxyField cmd 168 }

/-- A fence mailbox is 64-byte aligned, in HBM or host memory (R142). -/
def mailboxOk (pa : Nat) : Bool := pa % 64 == 0 && (isHbm pa || isHostMem pa)

/-- Operands within their limits. -/
def partLimits (cmd : List Byte) : Bool :=
  let f := recField cmd
  let h := f 17 1
  let gib := 0x40000000
  decide (f 16 1 ≤ 63 ∧ h ≤ 3) && zeroAt cmd 18 6 && zeroAt cmd 192 64
    && f 120 8 % gib == 0 && f 128 8 % gib == 0 && (f 128 8 != 0 || h == 0) && decide (f 120 8 + f 128 8 ≤ 0x10000000000)
    && (List.range 4).all (fun d => decide (f (140 + d) 1 ≤ 8))
    && (if h == 1 || h == 3 then mailboxOk (f 160 8) else zeroAt cmd 144 24)
    && (if h == 2 || h == 3 then mailboxOk (f 184 8) else zeroAt cmd 168 24)

/-- Two partitions share a core, HBM or a port. -/
def partsOverlap (a b : Part) : Bool :=
  (List.range 4).any (fun d => a.masks.getD d 0 &&& b.masks.getD d 0 != 0)
    || (decide (a.hbase < b.hbase + b.hlen) && decide (b.hbase < a.hbase + a.hlen))
    || a.ports &&& b.ports != 0

/-- A core that the request takes away holds a team, or waits for a new split. -/
def losesCore (s : State) (old new : Part) : Bool :=
  (List.range 4).any fun d => (List.range 192).any fun i =>
    let c := 192 * d + i
    (old.masks.getD d 0).getLsbD i && !(new.masks.getD d 0).getLsbD i
      && (!(teamsAt s c).isEmpty || (coreOf s c).pendSplit.isSome)

/-- The request takes HBM, bank store or ports away. -/
def losesRange (old new : Part) : Bool :=
  (old.hlen != 0 && (decide (old.hbase < new.hbase) || decide (new.hbase + new.hlen < old.hbase + old.hlen)))
    || old.ports &&& ~~~new.ports != 0
    || (List.range 4).any fun d => decide (new.share.getD d 0 < old.share.getD d 0)

/-- Steps of a die's bank store that other partitions hold. -/
def stepsHeld (s : State) (p d : Nat) : List Nat :=
  (s.parts.filter fun e => e.1 ≠ p).flatMap fun e =>
    (List.range (e.2.share.getD d 0)).map fun i => e.2.first.getD d 0xFF + i

/-- A run of steps is free. -/
def runFree (held : List Nat) (at_ n : Nat) : Bool :=
  decide (at_ + n ≤ 8) && (List.range n).all fun i => !held.contains (at_ + i)

/-- Where the share of a die goes: its first step, or the status that refuses it. -/
def placeShare (s : State) (p : Nat) (old new : Part) (d : Nat) : Except Nat Nat :=
  let held := stepsHeld s p d
  let n := new.share.getD d 0
  let m := old.share.getD d 0
  let f := old.first.getD d 0xFF
  if n = 0 then .ok 0xFF
  else if m ≠ 0 ∧ (n ≤ m ∨ runFree held f n = true) then .ok f
  else
    match (List.range 8).find? fun i => runFree held i n with
    | none => .error stNores
    | some i => if m ≠ 0 ∧ partBusy s p = true then .error stBusy else .ok i

/-- PART_SET. -/
def partSet (s : State) (cmd : List Byte) : Reply :=
  let p := recField cmd 16 1
  let old := partOf s p
  let new := askedPart s cmd
  let dissolve := new.hosting = 0
  let inUse := !(partCtxs s p).isEmpty
  if !partLimits cmd then answered_ s stMalformed
  else if dissolve then
    if inUse then answered_ s stBusy
    else done_ { s with parts := SMap.erase s.parts p } (List.replicate 96 0 ++ List.replicate 4 0xFF)
  else if s.parts.any fun e => decide (e.1 ≠ p) && partsOverlap e.2 new then answered_ s stMalformed
  else if (inUse && decide (old.hosting ≠ new.hosting)) || losesCore s old new || (losesRange old new && partBusy s p) then
    answered_ s stBusy
  else
    match (List.range 4).mapM (placeShare s p old new) with
    | .error e => answered_ s e
    | .ok fs =>
      done_ { s with parts := SMap.put s.parts p { new with first := fs, fencing := old.fencing } }
        (new.masks.flatMap (fun m => natToBytes 24 m.toNat) ++ fs.flatMap (natToBytes 1))

/-! ### CTX_CREATE (R170) -/

/-- The context that a command asks for. -/
def askedCtx (who : Requester) (cmd : List Byte) : Context :=
  let f := recField cmd
  let fl := f 17 1
  { owner := who, part := f 16 1, conf := fl.testBit 0, debug := fl.testBit 1, keyed := fl.testBit 2, pamode := fl.testBit 3
    asid := f 18 2, root := f 24 8, fmroot := f 32 8, devbase := f 40 8, spawnRing := f 48 8, spawnLog := f 56 1
    pool := f 64 8, quota := f 72 4, savePool := f 80 8, saveLen := f 88 8, gtable := f 96 8, gcount := f 104 4
    stopArea := f 112 8, evlog := f 120 8, evcount := f 128 4, budget := f 136 8, prRing := f 144 8, prCount := f 152 4
    state := if fl.testBit 2 then .created else .loaded }

/-- A power of two within bounds. -/
def powerOf2 (n lo hi : Nat) : Bool := decide (lo ≤ n ∧ n ≤ hi) && popc 32 n == 1

/-- Operands within their limits. -/
def ctxLimits (who : Requester) (cmd : List Byte) : Bool :=
  let c := askedCtx who cmd
  let fl := recField cmd 17 1
  c.part ≤ 63 && fl < 16 && (!c.conf || c.keyed)
    && zeroAt cmd 20 4 && zeroAt cmd 57 7 && zeroAt cmd 76 4 && zeroAt cmd 108 4 && zeroAt cmd 132 4 && zeroAt cmd 156 100
    && c.root % 4096 == 0 && c.fmroot % 4096 == 0 && c.devbase % 0x100000000000 == 0 && (c.pamode || c.devbase == 0)
    && decide (20 ≤ c.spawnLog ∧ c.spawnLog ≤ 30) && c.spawnRing % 2 ^ c.spawnLog == 0
    && c.pool % 4096 == 0 && decide (c.quota ≤ 16777215) && c.savePool % 4096 == 0 && c.saveLen % 4096 == 0
    && decide (8192 ≤ c.saveLen) && c.gtable % 2048 == 0 && decide (16 ≤ c.gcount ∧ c.gcount ≤ 1048576)
    && c.stopArea % 128 == 0 && c.evlog % 32 == 0 && powerOf2 c.evcount 64 65536 && c.budget != 0
    && (if c.prCount = 0 then c.prRing == 0 else powerOf2 c.prCount 16 65536 && c.prRing != 0)
    && (decide (who ≠ .hc) || (c.prRing == 0 && c.prCount == 0))

/-- Every structure of the context lies in its partition's HBM. -/
def ctxRanges (s : State) (c : Context) : Bool :=
  let p := partOf s c.part
  let rs : List (Nat × Nat) := [(c.root, 4096), (c.fmroot, 4096), (c.spawnRing, 2 ^ c.spawnLog), (c.pool, chunkBytes * c.quota),
    (c.savePool, c.saveLen), (c.gtable, 2048 * c.gcount), (c.stopArea, 128 * c.gcount), (c.evlog, 32 * c.evcount),
    (c.prRing, 32 * c.prCount)]
  rs.all fun r => r.2 == 0 || (decide (p.hbase ≤ r.1) && decide (r.1 + r.2 ≤ p.hbase + p.hlen))

/-- A context number that may be given out: one that names no context, or a DESTROYED one (R172). -/
def numberFree (s : State) (n : Nat) : Bool :=
  match SMap.find? s.ctxs n with
  | none => true
  | some c => decide (c.state = .destroyed)

/-- CTX_CREATE. -/
def ctxCreate (s : State) (who : Requester) (cmd : List Byte) : Reply :=
  let c := askedCtx who cmd
  if 63 < c.part then answered_ s stMalformed
  else if !hosts (partOf s c.part) who then answered_ s stRefused
  else if !(ctxLimits who cmd && ctxRanges s c) then answered_ s stMalformed
  else
    match ((List.range 4095).map (· + 1)).find? (numberFree s) with
    | none => answered_ s stNores
    | some n => done_ (setCState { s with ctxs := SMap.put s.ctxs n c } n c.state 0) (natToBytes 2 n)

/-! ### KEY_SET (R171, R413) -/

/-- Bind a free slot to a context and load its key pair. -/
def bindSlot (s : State) (cn : Nat) (key : BitVec 512) : Reply :=
  match ((List.range 4095).map (· + 1)).find? fun n => !(s.ctxs.any fun e => decide (e.2.slot = n) && e.2.state != .destroyed) with
  | none => answered_ s stNores
  | some n =>
    let s1 := modCtx { s with keys := SMap.put s.keys n key } cn fun c => { c with slot := n }
    done_ (setCState s1 cn .loaded 0) (natToBytes 2 n)

/-- KEY_SET for a context that the requester owns. A session serves one KEY_SET of mode 2. -/
def keySet (s : State) (cn : Nat) (cmd : List Byte) : Reply :=
  let c := ctxOf s cn
  let mode := recField cmd 18 1
  if mode ≠ 1 ∧ mode ≠ 2 then answered_ s stMalformed
  else if (c.conf ∧ mode = 1) ∨ c.keyed = false ∨ c.state ≠ .created then answered_ s stRefused
  else if mode = 1 then bindSlot s cn (BitVec.ofNat 512 (recField cmd 24 64))
  else
    let s1 := modCtx s cn fun c => { c with session := none }
    match c.session with
    | none => answered_ s1 stAuthFail
    | some (key, iv) =>
      match gcmOpen key iv ((cmd.drop 24).take 96) with
      | none => answered_ s1 stAuthFail
      | some pair => bindSlot s1 cn pair

/-! ### CTX_DESTROY (R172) -/

/-- A kernel that has not ended. -/
def unended (k : Kernel) : Bool :=
  match k.state with
  | .retired => false
  | .faulted => false
  | .killed => false
  | _ => true

/-- Disable a context's queues: their records are discarded, and CTX becomes 0 (R81). -/
def discardQueues (s : State) (cn : Nat) : State :=
  { s with queues := s.queues.map fun e =>
      if e.2.ctx = cn then
        (e.1, { e.2 with en := false, pull := false, ctx := 0, res := [], spilled := 0, ringHead := 0, lateMarks := [] })
      else e }

/-- Close a context's page requests (R146). -/
def closeRequests (s : State) (cn : Nat) : State :=
  { s with dies := s.dies.map fun e => (e.1, { e.2 with preqs := e.2.preqs.filter fun r => r.2.ctx ≠ cn }) }

/-- A migration slot of a context, by its register or by the migration under way. -/
def slotOfCtx (cn : Nat) (m : Migr) : Bool :=
  m.ctx == cn || (m.rctx == cn && (m.state == 1 || m.state == 2 || m.waiting))

/-- Abort a context's migrations. -/
def abortMigrations (s : State) (cn : Nat) : State :=
  ((s.migr.filter fun e => slotOfCtx cn e.2).map (·.1)).foldl migrAbort s

/-- Free a context's migration slots (R155). -/
def freeMigrations (s : State) (cn : Nat) : State :=
  { s with migr := s.migr.map fun e => if e.2.ctx = cn then (e.1, { e.2 with ctx := 0, state := 0 }) else e }

/-- The engine commands and requests of a context that is destroyed go on without it: the context's number is free (R172), and
the portions they have left translate to nothing (log 42). -/
def orphan (s : State) (cn : Nat) : State :=
  { s with
    engines := s.engines.map fun e => if e.2.ctx = cn then (e.1, { e.2 with ctx := 0 }) else e
    fabric := { s.fabric with reqs := s.fabric.reqs.map fun e => if e.2.ctx = cn then (e.1, { e.2 with ctx := 0 }) else e } }

/-- What the caches hold under a slot goes home, and no copy under it stays. -/
def evictSlot (s : State) (slot : Nat) : State :=
  let s1 := (s.cores.flatMap fun e => (e.2.l1.filter fun l => l.2.slot = slot).map fun l => (e.1, l.1)).foldl
    (fun s x => evictLine s x.1 x.2) s
  let s2 := (List.range 4).foldl (fun s d =>
    forwardLines s d fun l => (dieSt s d).fwd.any fun f => f.line = l ∧ f.slot = slot) s1
  { s2 with dies := s2.dies.map fun e => (e.1, { e.2 with copies := e.2.copies.filter fun x => x.2.slot ≠ slot }) }

/-- A line held under a slot that is to be zeroed stays as ciphertext (R159). -/
def sealLine (s : State) (slot line : Nat) : State :=
  let c := xtsEncrypt (keyOf s slot) (128 * line) (rawLine s line)
  let s1 := setCells s (128 * line) (natToBytes 128 c.toNat)
  { s1 with lineKey := SMap.erase s1.lineKey line }

/-- Zero a key slot (R159, R172): lines written under it stay as ciphertext. -/
def zeroSlot (s : State) (slot : Nat) : State :=
  if slot = 0 then s
  else
    let s1 := evictSlot s slot
    let s2 := ((s1.lineKey.filter fun e => e.2 = slot).map (·.1)).foldl (fun s l => sealLine s slot l) s1
    { s2 with keys := SMap.erase s2.keys slot }

/-- CTX_DESTROY for a context that the requester owns. The log's last entry goes out before the slot is zeroed. -/
def ctxDestroy (s : State) (cn : Nat) : Reply :=
  let s1 := endGraphs (killKernels s cn 7 unended) cn
  let s2 := freeMigrations (abortMigrations (closeRequests (discardQueues s1 cn) cn) cn) cn
  let s3 := setCState (unloadPlans s2 cn) cn .destroyed 0
  let s4 := zeroSlot s3 (slotOf s3 cn)
  done_ (orphan (dropTlb s4 fun e => e.ctx == cn) cn) []

end Sys2Proof.Machine
end

