-- ==== Sys2Proof/Machine/Registers.lean ====
section
/-! DEFINITION. Writes of device registers: queue descriptors (R74, R84, R85), and by address the registers that have no row
of their own (R8, R155, R174, R191, R193, R194). -/

namespace Sys2Proof.Machine

open Sys2Proof

/-! ### Queue descriptors (R74, R84, R85) -/

/-- A queue whose CTX, PULL, QBASE and QQUOTA may be written (R85). -/
def queueIdle (q : Queue) : Bool := !q.en && q.res.isEmpty && q.spilled == 0

/-- CTX field of QCTL. -/
def qctlCtx (v : Word) : Nat := bits v.toNat 36 12

/-- What a write of QCTL does to a queue, once taken: binding or releasing it, EN, PULL and PRIO. -/
def qctlFields (q : Queue) (v : Word) (cn : Nat) : Queue :=
  let idle := queueIdle q
  let off := idle && cn == 0
  { q with
    ctx := if idle then cn else q.ctx
    en := v.getLsbD 63 && !off
    pull := if idle then v.getLsbD 62 && !off else q.pull
    prio := bits v.toNat 52 2 }

/-- A write of QCTL: an unbound queue takes one that names a context of the requester's, a bound one its owner's. A bound
queue is not bound anew to a context that its owner does not own. -/
def qctlWrite (s : State) (who : Requester) (n : Nat) (v : Word) : State :=
  let q := queueOf s n
  let cn := qctlCtx v
  let named := decide (cn ≠ 0) && owns s who cn
  if 1024 ≤ n then s
  else if q.ctx = 0 then (if named then modQueue s n fun q => qctlFields q v cn else s)
  else if owns s who q.ctx then
    modQueue s n fun q => qctlFields q v (if cn = 0 ∨ named = true then cn else q.ctx)
  else s

/-- Only the owner of a bound queue writes the rest of its descriptor. -/
def ownsQueue (s : State) (who : Requester) (n : Nat) : Bool :=
  decide (n < 1024) && decide ((queueOf s n).ctx ≠ 0) && owns s who (queueOf s n).ctx

/-- A write of QRING. -/
def qringWrite (s : State) (who : Requester) (n : Nat) (v : Word) : State :=
  if ownsQueue s who n && queueIdle (queueOf s n) then
    modQueue s n fun q => { q with qbase := 64 * bits v.toNat 6 50, ringHead := 0 }
  else s

/-- A write of QQUOTA. -/
def qquotaWrite (s : State) (who : Requester) (n : Nat) (v : Word) : State :=
  if ownsQueue s who n && queueIdle (queueOf s n) then
    modQueue s n fun q => { q with quota := bits v.toNat 0 24, ringHead := 0 }
  else s

/-- A write of QSTAT: CLR zeroes the counts, and each flag is cleared by a 1. -/
def qstatWrite (s : State) (who : Requester) (n : Nat) (v : Word) : State :=
  if ownsQueue s who n then
    modQueue s n fun q => { q with
      refused := if v.getLsbD 4 then 0 else q.refused
      lateCnt := if v.getLsbD 4 then 0 else q.lateCnt
      badbar := q.badbar && !v.getLsbD 5
      badwr := q.badwr && !v.getLsbD 3
      malf := q.malf && !v.getLsbD 2
      refq := q.refq && !v.getLsbD 1
      refd := q.refd && !v.getLsbD 0 }
  else s

/-- QCTL_BIND (R74): a write that names a context, of an unbound queue. -/
def execQctlBind (who : Requester) (n : Nat) (v : Word) (s : State) : Res :=
  if (queueOf s n).ctx = 0 ∧ qctlCtx v ≠ 0 then .next (qctlWrite s who n v) else .next s

/-- QCTL_RELEASE (R74): a write of CTX 0, of a bound queue. -/
def execQctlRelease (who : Requester) (n : Nat) (v : Word) (s : State) : Res :=
  if (queueOf s n).ctx ≠ 0 ∧ qctlCtx v = 0 then .next (qctlWrite s who n v) else .next s

/-- QCTL_ENABLE (R81): a write of EN 1. -/
def execQctlEnable (who : Requester) (n : Nat) (v : Word) (s : State) : Res :=
  if v.getLsbD 63 then .next (qctlWrite s who n v) else .next s

/-- QCTL_DISABLE (R81): a write of EN 0. -/
def execQctlDisable (who : Requester) (n : Nat) (v : Word) (s : State) : Res :=
  if v.getLsbD 63 then .next s else .next (qctlWrite s who n v)

/-- QCTL_PRIO_WRITE (R85). -/
def execQctlPrioWrite (who : Requester) (n : Nat) (v : Word) (s : State) : Res := .next (qctlWrite s who n v)

/-- QCTL_PULL_WRITE (R85). -/
def execQctlPullWrite (who : Requester) (n : Nat) (v : Word) (s : State) : Res := .next (qctlWrite s who n v)

/-- QSTAT_CLR (R84): a write with CLR set. -/
def execQstatClr (who : Requester) (n : Nat) (v : Word) (s : State) : Res :=
  if v.getLsbD 4 then .next (qstatWrite s who n v) else .next s

/-- QSTAT_FLAG_CLEAR (R84). -/
def execQstatFlagClear (who : Requester) (n : Nat) (v : Word) (s : State) : Res := .next (qstatWrite s who n v)

/-! ### Migration, link and context registers (R155, R174, R191) -/

/-- A write of a slot's MVA, MDST or MBAR. -/
def migrField (s : State) (who : Requester) (n off : Nat) (v : Word) : State :=
  if 64 ≤ n ∨ (migrOf s n).ctx = 0 ∨ owns s who (migrOf s n).ctx = false then s
  else modMigr s n fun m =>
    match off with
    | 8 => { m with va := v }
    | 16 => { m with dst := 4096 * bits v.toNat 12 44 }
    | 24 => { m with bar := v }
    | _ => m

/-- A write of CIMG. -/
def cimgWrite (s : State) (who : Requester) (cn : Nat) (v : Word) : State :=
  if owns s who cn then modCtx s cn fun c => { c with cimg := v } else s

/-! ### Routes and exports (R193, R194) -/

/-- A write of a route entry: the host complex's, bits 62 to 33 zero. -/
def routeWrite (s : State) (who : Requester) (p : Nat) (v : Word) : State :=
  if who ≠ .hc ∨ 4096 ≤ p then s
  else { s with fabric := { s.fabric with routes := SMap.set s.fabric.routes 0 p (v &&& 0x80000001FFFFFFFF) } }

/-- An export entry with one word written. -/
def exportWord (x : Export) (off : Nat) (v : Word) : Export :=
  match off with
  | 0 => { x with w0 := v }
  | 8 => { x with w1 := v }
  | 16 => { x with w2 := v }
  | _ => { x with w3 := v }

/-- A write of an export entry by an owner of the partition that the entry then names. -/
def exportWrite (s : State) (who : Requester) (n off : Nat) (v : Word) : State :=
  let x := exportWord (SMap.get s.fabric.exports {} n) off v
  if 4096 ≤ n ∨ 63 < exPart x ∨ hosts (partOf s (exPart x)) who = false then s
  else { s with fabric := { s.fabric with exports := SMap.set s.fabric.exports {} n x } }

/-! ### Mailboxes (R165) -/

def boxOf (s : State) (who : Requester) : Mailbox :=
  match who with
  | .host => s.imqua.host
  | _ => s.imqua.hc

def modBox (s : State) (who : Requester) (f : Mailbox → Mailbox) : State :=
  match who with
  | .host => { s with imqua := { s.imqua with host := f s.imqua.host } }
  | .hc => { s with imqua := { s.imqua with hc := f s.imqua.hc } }
  | .imqua => s

/-- A mailbox that runs (R406 step 10, R408, R184). -/
def boxOpen (s : State) (who : Requester) : Bool :=
  match who with
  | .host => s.imqua.booted && !s.imqua.safe && !s.fabric.hostReset
  | .hc => s.imqua.booted || s.imqua.safe
  | .imqua => false

/-- The command record of a mailbox. -/
def boxCmd (b : Mailbox) : List Byte := (List.range 256).map fun i => SMap.get b.bytes 0 i

/-- Write bytes of a mailbox. -/
def boxPut (m : SMap Byte) (at_ : Nat) : List Byte → SMap Byte
  | [] => m
  | b :: bs => boxPut (SMap.set m 0 at_ b) (at_ + 1) bs

/-- A journal entry's key (R167). -/
def isEntry (who : Requester) (id : Nat) (e : JEntry) : Bool := decide (e.box = who) && decide (e.id = BitVec.ofNat 64 id)

/-- The journal entry of a request. -/
def entry? (s : State) (who : Requester) (id : Nat) : Option JEntry := List.find? (isEntry who id) s.imqua.journal

/-- A command that Imqua journals: every one but PING and QUERY (R167). -/
def journalled (cmd : List Byte) : Bool := !(recField cmd 8 2 == 0x0001 || recField cmd 8 2 == 0x0050)

/-- Write an entry marked begun, over the oldest when 256 are in use (R167 step 3). -/
def beginEntry (s : State) (who : Requester) (cmd : List Byte) : State :=
  let j := s.imqua.journal
  let rest := if 256 ≤ j.length then j.drop 1 else j
  { s with imqua := { s.imqua with
      journal := rest ++ [{ box := who, id := BitVec.ofNat 64 (recField cmd 0 8), cmd := cmd, reply := none }] } }

/-- GO (R165, R167): the command is submitted, or discarded while one is being performed. -/
def submit (s : State) (who : Requester) : State :=
  let b := boxOf s who
  if !boxOpen s who then s
  else if b.busy then modBox s who fun b => { b with lost := true }
  else
    let cmd := boxCmd b
    let id := recField cmd 0 8
    let s1 := modBox s who fun b => { b with busy := true }
    if journalled cmd && decide (id ≠ 0) && (entry? s who id).isNone then beginEntry s1 who cmd else s1

/-- A command rewritten while it is being performed is undefined (R165): the bytes that the mailbox holds of it, and those
that Imqua began, are free values (log 3). -/
def spoilCommand (s : State) (who : Requester) : State :=
  let bs := (List.range 256).map fun i => Config.freeByte (s.free + i)
  let s1 := modBox { s with free := s.free + 256 } who fun b => { b with bytes := boxPut b.bytes 0 bs }
  { s1 with imqua := { s1.imqua with journal := s1.imqua.journal.map fun e =>
      if e.box = who ∧ e.reply = none then { e with cmd := bs } else e } }

/-- A write of 8 bytes of a mailbox: a command's bytes, or MBDB. -/
def mailWrite (s : State) (who : Requester) (off : Nat) (v : Word) : State :=
  if !boxOpen s who then s
  else if off < 256 then
    if (boxOf s who).busy then spoilCommand s who
    else modBox s who fun b => { b with bytes := boxPut b.bytes off (natToBytes 8 v.toNat) }
  else if off = 512 then
    let s1 := modBox s who fun b => { b with done := b.done && !v.getLsbD 3, lost := b.lost && !v.getLsbD 2 }
    if v.getLsbD 0 then submit s1 who else s1
  else s

/-! ### REGISTER_WRITE (R8) -/

/-- A write of 8 bytes at a device register's address. Registers that the requester may not write, read-only registers
and addresses that no chapter defines ignore it. -/
def registerWrite (s : State) (who : Requester) (pa : Nat) (v : Word) : State :=
  let in_ (base n : Nat) : Bool := decide (base ≤ pa) && decide (pa < base + n)
  let off (base : Nat) : Nat := pa - base
  if pa % 8 ≠ 0 then s
  else if in_ 0x40000000000 4096 then (if who = .host then mailWrite s who (off 0x40000000000) v else s)
  else if in_ 0x40000001000 4096 then (if who = .hc then mailWrite s who (off 0x40000001000) v else s)
  else if in_ 0x40000010000 65536 then
    let n := off 0x40000010000 / 64
    match off 0x40000010000 % 64 with
    | 0 => qctlWrite s who n v
    | 8 => qringWrite s who n v
    | 16 => qquotaWrite s who n v
    | 32 => qstatWrite s who n v
    | _ => s
  else if in_ 0x40000020000 4096 then
    let n := off 0x40000020000 / 64
    if off 0x40000020000 % 64 = 0 then mctlWrite s who n v else migrField s who n (off 0x40000020000 % 64) v
  else if in_ 0x40000040000 1024 then
    if off 0x40000040000 % 64 = 8 then lctlWrite s who (off 0x40000040000 / 64) v else s
  else if in_ 0x40000060000 32768 then routeWrite s who (off 0x40000060000 / 8) v
  else if in_ 0x40000070000 131072 then exportWrite s who (off 0x40000070000 / 32) (off 0x40000070000 % 32) v
  else if in_ 0x40000100000 262144 then
    let n := off 0x40000100000 / 64
    match off 0x40000100000 % 64 with
    | 0 => cctlWrite s who n v
    | 8 => cimgWrite s who n v
    | _ => s
  else s

/-! ### Reading registers (R8) -/

/-- One bit at a place. -/
def flagAt (b : Bool) (n : Nat) : Nat := if b then 2 ^ n else 0

/-- The five registers of a queue's descriptor, by offset (R84). -/
def queueReg (q : Queue) (off : Nat) : Nat :=
  match off with
  | 0 => flagAt q.en 63 + flagAt q.pull 62 + 2 ^ 56 * queueState q + 2 ^ 52 * q.prio + 2 ^ 36 * q.ctx
  | 8 => q.qbase
  | 16 => q.quota
  | 24 => 2 ^ 24 * q.spilled + q.res.length
  | 32 => 2 ^ 40 * (q.refused % 2 ^ 24) + 2 ^ 16 * (q.lateCnt % 2 ^ 24) + flagAt q.badbar 5 + flagAt q.badwr 3 + flagAt q.malf 2
      + flagAt q.refq 1 + flagAt q.refd 0
  | _ => 0

/-- The four registers of a migration slot (R155). -/
def migrReg (m : Migr) (off : Nat) : Nat :=
  match off with
  | 0 => 2 ^ 56 * m.state + 2 ^ 36 * m.ctx + 2 ^ 34 * m.size
  | 8 => m.va.toNat
  | 16 => m.dst
  | 24 => m.bar.toNat
  | _ => 0

/-- The two registers of a link (R191). -/
def linkReg (l : Link) (off : Nat) : Nat :=
  match off with
  | 0 => lstat l
  | 8 => minLanes l
  | _ => 0

/-- The teams of a context saved in its save pool (R174). -/
def cpend (s : State) (cn : Nat) : Nat := ((ctxTeams s cn).filter fun e => !e.2.1.placed).length

/-- The five registers of a context's control block; of a number that has never named a context they read as at reset (R174). -/
def ctxReg (s : State) (cn off : Nat) : Nat :=
  match SMap.find? s.ctxs cn with
  | none => 0
  | some c =>
    match off with
    | 0 => 2 ^ 52 * cstateCode c.state + 2 ^ 40 * c.last + c.why
    | 8 => c.cimg.toNat
    | 16 => c.cisize
    | 24 => c.cevt
    | 32 => cpend s cn
    | _ => 0

/-- One word of an export entry (R194). -/
def exportReg (x : Export) (off : Nat) : Word :=
  match off with
  | 0 => x.w0
  | 8 => x.w1
  | 16 => x.w2
  | _ => x.w3

/-- Eight bytes of a mailbox, or MBDB (R165). -/
def mailReg (b : Mailbox) (off : Nat) : Nat :=
  if off < 512 then bytesToNat ((List.range 8).map fun i => SMap.get b.bytes 0 (off + i))
  else if off = 512 then flagAt b.done 3 + flagAt b.lost 2 + flagAt b.busy 1
  else 0

/-- What a requester's read of 8 bytes at a device register's address returns (R8): WO and RZ fields zero, the others their
present value. A mailbox answers its own requester alone (R165), and the evidence block the host complex, and the host outside
safe mode (R412). No read changes anything (log 35). -/
def registerRead (s : State) (who : Requester) (pa : Nat) : Word :=
  let in_ (base n : Nat) : Bool := decide (base ≤ pa) && decide (pa < base + n)
  let off (base : Nat) : Nat := pa - base
  if pa % 8 ≠ 0 then 0
  else if in_ 0x40000000000 4096 then (if who = .host then BitVec.ofNat 64 (mailReg s.imqua.host (off 0x40000000000)) else 0)
  else if in_ 0x40000001000 4096 then (if who = .hc then BitVec.ofNat 64 (mailReg s.imqua.hc (off 0x40000001000)) else 0)
  else if in_ 0x40000010000 65536 then
    BitVec.ofNat 64 (queueReg (queueOf s (off 0x40000010000 / 64)) (off 0x40000010000 % 64))
  else if in_ 0x40000020000 4096 then BitVec.ofNat 64 (migrReg (migrOf s (off 0x40000020000 / 64)) (off 0x40000020000 % 64))
  else if in_ 0x40000040000 1024 then BitVec.ofNat 64 (linkReg (linkOf s (off 0x40000040000 / 64)) (off 0x40000040000 % 64))
  else if in_ 0x40000060000 32768 then SMap.get s.fabric.routes 0 (off 0x40000060000 / 8)
  else if in_ 0x40000070000 131072 then
    exportReg (SMap.get s.fabric.exports {} (off 0x40000070000 / 32)) (off 0x40000070000 % 32)
  else if in_ 0x400000A0000 256 then
    (if who = .hc ∨ (who = .host ∧ s.imqua.safe = false) then
      BitVec.ofNat 64 (bytesToNat ((List.range 8).map fun i => SMap.get s.imqua.evidence 0 (off 0x400000A0000 + i)))
    else 0)
  else if in_ 0x40000100000 262144 then
    BitVec.ofNat 64 (ctxReg s (off 0x40000100000 / 64) (off 0x40000100000 % 64))
  else 0

/-- REGISTER_WRITE (R8). -/
def execRegisterWrite (who : Requester) (pa : Nat) (v : Word) (s : State) : Res := .next (registerWrite s who pa v)

end Sys2Proof.Machine
end

