-- ==== Sys2Proof/Machine/Mailbox.lean ====
section
/-! DEFINITION. The command mailboxes (R165 to R169): the commands, the journal, replies, evidence (R412, R413), the margin
report (R411), and the package's volatile reset (R169, R406). -/

namespace Sys2Proof.Machine

open Sys2Proof

/-! ### MARGIN_REPORT (R409, R411) -/

/-- Cores that have failed their margin and still run. -/
def marginWaiting (s : State) : List Nat := s.imqua.marginFail.filter fun c => !(coreOf s c).failed

/-- Ticks in an hour. -/
def hourTicks : Nat := 17 * 3600 * 10 ^ 9

/-- MARGIN_REPORT. -/
def marginReport (s : State) : Reply :=
  let q := s.imqua
  done_ s (natToBytes 4 q.marginV ++ natToBytes 4 (q.powered / hourTicks)
    ++ ((List.range 4).flatMap fun d => natToBytes 4 (q.drift.getD d 0)) ++ natToBytes 4 (marginWaiting s).length)

/-! ### ATTEST (R412, R413) -/

/-- The 32 bytes of the identity private key. -/
def identitySeed : List Byte := natToBytes 32 Config.identitySeed.toNat

/-- The session key: the first 32 bytes of SHA-512 of the X25519 shared secret followed by the nonce (R413). -/
def sessionKey (secret pub : BitVec 256) (nonce : List Byte) : BitVec 256 :=
  BitVec.ofNat 256 (bytesToNat ((sha512 (natToBytes 32 (x25519 secret pub).toNat ++ nonce)).take 32))

/-- The evidence record, signed. -/
def evidence (s : State) (cn : Nat) (cmd : List Byte) (eph : BitVec 256) : List Byte :=
  let c := (SMap.find? s.ctxs cn).getD { owner := .host }
  let own := cn ≠ 0
  let flags := (if own ∧ c.debug = true then 1 else 0) + (if own ∧ c.conf = true then 2 else 0) + (if s.imqua.safe then 4 else 0)
  let body := padTo 192 (natToBytes 2 1 ++ natToBytes 2 flags ++ natToBytes 2 s.fabric.pkgId ++ natToBytes 2 cn
    ++ natToBytes 8 s.imqua.starts ++ natToBytes 64 (Config.firmwareDigest s.imqua.image).toNat
    ++ (cmd.drop 24).take 32 ++ natToBytes 32 eph.toNat ++ edPublic identitySeed
    ++ natToBytes 4 s.imqua.marginV)
  body ++ edSign identitySeed body

/-- Where evidence may be written: the register block (address 0), HBM of the context's partition, or for context 0 of any
partition that the requester owns; in safe mode only the block. -/
def evidencePlace (s : State) (who : Requester) (cn at_ : Nat) : Bool :=
  let inside (p : Part) : Bool := decide (p.hbase ≤ at_) && decide (at_ + 256 ≤ p.hbase + p.hlen)
  at_ == 0 || (!s.imqua.safe && at_ % 256 == 0
    && (if cn = 0 then s.parts.any fun e => hosts e.2 who && inside e.2 else inside (partOf s (ctxOf s cn).part)))

/-- ATTEST for context 0 or a context that the requester owns. -/
def attest (s : State) (who : Requester) (cn : Nat) (cmd : List Byte) : Reply :=
  let at_ := recField cmd 56 8
  let pub := BitVec.ofNat 256 (recField cmd 64 32)
  if !(zeroAt cmd 18 6 && zeroAt cmd 96 160 && evidencePlace s who cn at_) then answered_ s stMalformed
  else
    let session := pub ≠ 0 ∧ cn ≠ 0
    let n := s.imqua.sessions
    let bs := evidence s cn cmd (if session then x25519Public (Config.ephemeralSecret n) else 0)
    let s1 := if at_ = 0 then { s with imqua := { s.imqua with evidence := boxPut [] 0 bs } } else homeWrite s 0 at_ bs
    if session then
      let key := sessionKey (Config.ephemeralSecret n) pub ((cmd.drop 24).take 32)
      done_ (modCtx { s1 with imqua := { s1.imqua with sessions := n + 1 } } cn fun c =>
        { c with session := some (key, BitVec.ofNat 96 (recField cmd 24 12)) }) []
    else done_ s1 []

/-! ### QUERY (R168) -/

/-- QUERY: the stored code, status and results of an entry of the same mailbox. -/
def query (s : State) (who : Requester) (cmd : List Byte) : Reply :=
  match entry? s who (recField cmd 16 8) with
  | none => answered_ s stUnknown
  | some e =>
    let o := e.reply.getD (stInProgress, [])
    done_ s ((e.cmd.drop 8).take 2 ++ natToBytes 2 o.1 ++ List.replicate 12 0 ++ o.2.take 224)

/-! ### Plans (R375, R376) -/

/-- PLAN_UNLOAD: the plan's context must be the requester's. -/
def planUnload (s : State) (who : Requester) (cmd : List Byte) : Reply :=
  let h := recField cmd 16 4
  match plan? s h with
  | some p => if owns s who p.ctx then done_ (unloadPlan s h) [] else answered_ s stRefused
  | none => answered_ s stRefused

/-! ### Commands (R165 to R167, R408) -/

/-- RESET may be submitted through this mailbox (R169). -/
def mayReset (s : State) (who : Requester) : Bool :=
  who == .hc || !(s.parts.any fun e => e.2.hosting == 2 || e.2.hosting == 3)

/-- Commands that safe mode performs (R408). -/
def safeCode (c : Nat) : Bool := [0x0001, 0x0002, 0x0040, 0x0041, 0x0050].contains c

/-- A command whose context operand the requester does not own (R166). -/
def notOwned (s : State) (who : Requester) (code cn : Nat) : Bool :=
  ([0x0021, 0x0022, 0x0030].contains code || (code == 0x0040 && cn != 0)) && !owns s who cn

/-- Perform a command record. RESET's effect follows its reply. -/
def runCommand (s : State) (who : Requester) (cmd : List Byte) : Reply :=
  let code := recField cmd 8 2
  let cn := recField cmd 16 2
  if !zeroAt cmd 10 6 then answered_ s stMalformed
  else if s.imqua.safe && !safeCode code then answered_ s stRefused
  else if notOwned s who code cn then answered_ s stRefused
  else
    match code with
    | 0x0001 => done_ s []
    | 0x0002 => if mayReset s who then done_ s [] else answered_ s stRefused
    | 0x0010 => partSet s cmd
    | 0x0020 => ctxCreate s who cmd
    | 0x0021 => ctxDestroy s cn
    | 0x0022 => keySet s cn cmd
    | 0x0030 => planLoad s cn cmd
    | 0x0031 => planUnload s who cmd
    | 0x0040 => attest s who cn cmd
    | 0x0041 => marginReport s
    | 0x0050 => query s who cmd
    | _ => answered_ s stMalformed

/-- Write an entry's outcome (R167 step 5). -/
def setOutcome (s : State) (who : Requester) (id status : Nat) (results : List Byte) : State :=
  { s with imqua := { s.imqua with journal := s.imqua.journal.map fun e =>
      if (isEntry who id e) = true then { e with reply := some (status, padTo 240 results) } else e } }

/-- Write a reply, set DONE and interrupt the requester (R165). -/
def writeReply (s : State) (who : Requester) (id status flags : Nat) (results : List Byte) : State :=
  let bs := natToBytes 8 id ++ natToBytes 2 status ++ natToBytes 1 flags ++ List.replicate 5 0 ++ padTo 240 results
  interrupt (modBox s who fun b => { b with bytes := boxPut b.bytes 256 bs, done := true, busy := false }) who .mailbox

/-! ### The volatile reset (R169, R406) -/

/-- Everything but the flash, and what lies outside the package, at its reset value; the mailboxes are closed until the
boot opens them. -/
def volatileReset (s : State) : State :=
  { State.reset with
    agenda := s.agenda
    free := s.free
    now := s.now
    serial := s.serial
    irqs := s.irqs
    mem := s.mem.filter fun e => isHostMem e.1
    fabric := { State.reset.fabric with
      out := s.fabric.out, outNotes := s.fabric.outNotes, outCredits := s.fabric.outCredits
      offsets := s.fabric.offsets, hostReset := s.fabric.hostReset }
    imqua := { State.reset.imqua with
      journal := s.imqua.journal, bootCnt := s.imqua.bootCnt, skipped := s.imqua.skipped, starts := s.imqua.starts
      flashId := s.imqua.flashId, flashRoutes := s.imqua.flashRoutes, flashFailed := s.imqua.flashFailed
      marginFail := s.imqua.marginFail, flashMargin := s.imqua.flashMargin, flashMarginV := s.imqua.flashMarginV
      powered := s.imqua.powered, drift := s.imqua.drift, sessions := s.imqua.sessions, lastSample := s.now } }

/-! ### Begun commands (R167) -/

/-- The entries marked begun. -/
def begun (s : State) : List JEntry := s.imqua.journal.filter fun e => e.reply.isNone

/-- Complete one begun entry: perform it and write its outcome. -/
def completeEntry (s : State) (e : JEntry) : State :=
  let r := runCommand s e.box e.cmd
  setOutcome r.s e.box e.id.toNat r.status r.results

/-- Complete every begun entry of some mailboxes. -/
def completeBegun (s : State) (p : Requester → Bool) : State :=
  ((begun s).filter fun e => p e.box).foldl completeEntry s

end Sys2Proof.Machine
end

