-- ==== Sys2Proof/Machine/Boot.lean ====
section
/-! DEFINITION. Start-up (R406 to R408), the upstream host's hot reset and memory accesses (R184, R211), margins (R409,
R410), power and cooling (R414). -/

namespace Sys2Proof.Machine

open Sys2Proof

/-! ### Boot steps (R406, R407) -/

/-- A step that is skipped after a failure. -/
def optionalStep (i : Nat) : Bool := [6, 7, 8].contains i

/-- A mandatory step with a fallback of its own. -/
def fallbackStep (i : Nat) : Bool := [2, 4, 5, 9].contains i

/-- A step's bit of an outcome word. -/
def stepBit (m : BitVec 10) (i : Nat) : Bool := m.getLsbD (i - 1)

/-- The count of a step's journal byte. -/
def stepCount (s : State) (i : Nat) : Nat := SMap.get s.imqua.bootCnt 0 i

/-- Record a step's outcome: its count, and whether it was skipped. -/
def record (s : State) (i n : Nat) (skip : Bool) : State :=
  { s with imqua := { s.imqua with
      bootCnt := SMap.set s.imqua.bootCnt 0 i n
      skipped := if skip then i :: s.imqua.skipped.filter (fun x => x ≠ i) else s.imqua.skipped.filter fun x => x ≠ i } }

/-- Cores of the failed-core list take no part (R162). -/
def dropFailed (s : State) : State :=
  s.imqua.flashFailed.foldl (fun s c => modCore s c fun x => { x with failed := true }) s

/-- Link training begins (R190). -/
def trainLinks (s : State) (wide : Bool) : State :=
  (List.range 16).foldl (fun s l => modLink s l fun x =>
    { x with state := .training, tries := 0, minLanes := if wide then x.minLanes else 1 }) s

/-- The work of a step, through its fallback or not (R406). `failed` are the cores that fail their self-test. -/
def stepWork (s : State) (i : Nat) (fb : Bool) (failed : List Nat) : State :=
  match i with
  | 1 => { s with fabric := { s.fabric with pkgId := s.imqua.flashId }, imqua := { s.imqua with starts := s.imqua.starts + 1 } }
  | 2 => { s with imqua := { s.imqua with image := if fb then 1 else 0 } }
  | 4 => trainLinks s !fb
  | 5 => { s with imqua := { s.imqua with slowHbm := fb } }
  | 6 => dropFailed { s with imqua := { s.imqua with flashFailed := (failed ++ s.imqua.marginFail).eraseDups } }
  | 7 => { s with fabric := { s.fabric with portsUp := true } }
  | 8 => { s with fabric := { s.fabric with routes := s.imqua.flashRoutes } }
  | 9 =>
    let m := if fb then [] else s.imqua.flashMargin
    { s with imqua := { s.imqua with margin := m, volts := m, marginV := if fb then 0 else s.imqua.flashMarginV } }
  | 10 => completeBegun { s with imqua := { s.imqua with booted := true } } fun _ => true
  | _ => s

/-- What holds when an optional step is skipped or fails (R406): the failed-core list of the last start stands, ports and
routes stay as the reset left them. -/
def stepLeft (s : State) (i : Nat) : State := if i = 6 then dropFailed s else s

/-- Safe mode: nothing but the host complex and its mailbox runs (R408). -/
def enterSafe (s : State) : State :=
  { s with
    imqua := { s.imqua with safe := true, booted := false }
    fabric := { s.fabric with portsUp := false, routes := [] }
    links := s.links.map fun e => (e.1, { e.2 with state := .down, lanes := 0 }) }

/-- One boot step (R406, R407): a mandatory step that fails goes through its fallback, in this start as in the next ones, where
the fallback is all that is tried (log 36). -/
def bootStep (ok fb : BitVec 10) (failed : List Nat) (i : Nat) (s : State) : State :=
  let n := stepCount s i
  if s.imqua.safe then s
  else if optionalStep i then
    if n ≠ 0 then stepLeft (record s i 0 true) i
    else if stepBit ok i then stepWork (record s i 0 false) i false failed
    else stepLeft (record s i 1 false) i
  else
    let alt := n ≠ 0 ∧ fallbackStep i = true
    if (if alt then stepBit fb i else stepBit ok i) then stepWork (record s i 0 false) i (decide alt) failed
    else
      let m := Nat.min 3 (n + 1)
      let s1 := record s i m false
      if m = 3 then enterSafe s1
      else if n = 0 ∧ fallbackStep i = true ∧ stepBit fb i = true then stepWork s1 i true failed
      else s1

/-- Cores of dies all of whose links have failed: they leave the partitions at the next start (R190). -/
def cutCores (s : State) : List Nat :=
  ((List.range 4).filter (cutOff s)).flatMap fun d => (List.range 192).map fun i => 192 * d + i

/-- The package starts from its flash, performing its steps in ascending order (R406); the cores of dies that were cut off take
no part (R190). -/
def boot (ok fb : BitVec 10) (failed : List Nat) (s : State) : State :=
  let lost := cutCores s
  let s1 := ((List.range 10).map (· + 1)).foldl (fun s i => bootStep ok fb failed i s) (volatileReset s)
  lost.foldl (fun s c => modCore s c fun x => { x with failed := true }) s1

/-- COLD_POWER_UP (R406). -/
def execColdPowerUp (ok fallbackOk : BitVec 10) (failed : List Nat) (s : State) : Res := .next (boot ok fallbackOk failed s)

/-- RESET performs the boot steps as a cold power-up does (R169, R406); which of them fail is a free value (log 36). -/
def restart (s : State) : State :=
  boot (Config.stepsPass s.free) (Config.fallbacksPass s.free) (Config.coresFailing s.free) { s with free := s.free + 1 }

/-- A RESET that may be performed is among the commands begun through some mailboxes. -/
def begunReset (s : State) (p : Requester → Bool) : Bool :=
  (begun s).any fun e => p e.box && recField e.cmd 8 2 == 0x0002 && mayReset s e.box

/-! ### The upstream host (R184, R211) -/

/-- What a hot reset does to one of the host's contexts. -/
def faultContext (s : State) (cn : Nat) : State :=
  let s1 := setCState s cn .faulted 1
  let s2 := endGraphs (killKernels s1 cn 8 unended) cn
  let s3 := { s2 with queues := s2.queues.map fun e => if e.2.ctx = cn then (e.1, { e.2 with en := false }) else e }
  let s4 := abortMigrations (closeRequests s3 cn) cn
  let ps := (s4.damask.plans.filter fun e => e.2.ctx = cn).map (·.1)
  let s5 := ps.foldl (fun s h =>
    match runningInst s h, plan? s h with
    | some (n, _), some p => failRound s n stAband p.rank
    | _, _ => s) s4
  logEvent s5 cn 4 1 cn 0

/-- The host-port function's own reset: its mailbox and the upstream proxy harts. -/
def resetPort (s : State) : State :=
  { s with
    imqua := { s.imqua with host := {} }
    fabric := { s.fabric with hostReset := true }
    parts := s.parts.map fun e => (e.1, { e.2 with up := {}, fencing := e.2.fencing.filter fun r => r.who ≠ .host }) }

/-- HOST_HOT_RESET (R184). A command of the host's being performed is completed first, a RESET with its effect. -/
def execHostHotReset (s : State) : Res :=
  let s0 := completeBegun s fun w => w == .host
  let s1 := resetPort (if begunReset s fun w => w == .host then restart s0 else s0)
  let mine := (s1.ctxs.filter fun e => e.2.owner = .host ∧ e.2.state ≠ .destroyed).map (·.1)
  .next (interrupt (mine.foldl faultContext s1) .hc .hostReset)

/-- HOST_PORT_RESET_EXIT (R184). -/
def execHostPortResetExit (s : State) : Res := .next { s with fabric := { s.fabric with hostReset := false } }

/-- An address that R206 gives to nothing. -/
def noSuchPlace (pa : Nat) : Bool :=
  decide (2 ^ 56 ≤ pa) || !(isHbm pa || isBank pa || isAlias pa || isEnq pa || isDev pa || isHostMem pa || isFabric pa)

/-- HOST_CXL_MEM_ACCESS (R211): an access to HBM is performed at its home under key slot 0 (R160), so a read of a line held
under another slot returns its ciphertext (R18). The port takes no access in reset or before start-up. A write to host memory
stands for the host's own store there, which passes by the port (log 28). -/
def execHostCxlMemAccess (write : Bool) (pa : Nat) (bytes : List (BitVec 8)) (s : State) : Res :=
  if write && isHostMem pa && isHostMem (pa + bytes.length - 1) then .next (homeWrite s 0 pa bytes)
  else if !s.imqua.booted || s.imqua.safe || s.fabric.hostReset then .next s
  else if noSuchPlace pa then .fault (.unmapped pa)
  else if isHbm pa && isHbm (pa + bytes.length - 1) then
    if write then .next (homeWrite s 0 pa bytes) else .next { s with cxlData := memBytes s 0 pa bytes.length }
  else .next s

/-! ### Debug access (R17, R18) -/

/-- A requester has debug access to a context: its owner, while the context is in debug mode and no upstream hot reset has ended
the session. -/
def mayDebug (s : State) (who : Requester) (cn : Nat) : Bool :=
  owns s who cn && (ctxOf s cn).debug && (ctxOf s cn).state != .faulted

/-- What a debug read of a group shows a requester: its registers and queues as they stand, with the code of its state (R51); of a
context in normal mode nothing, so that a confidential one refuses every external read (R18). No command opens a session and no
step of one is given (log 47). -/
def debugRead (s : State) (who : Requester) (gid : Nat) : Option (Group × Nat) :=
  match grp? s gid with
  | none => none
  | some g => if mayDebug s who g.ctx then some (g, stateCode g.st) else none

/-! ### Safe mode (R408) -/

/-- Events that take place in safe mode: what the host complex does, its mailbox, and starting again. -/
def safeEvent (i : Instr) : Bool :=
  match i with
  | .ping w => w == .hc
  | .reset w => w == .hc
  | .partSet w => w == .hc
  | .ctxCreate w => w == .hc
  | .ctxDestroy w => w == .hc
  | .keySet w => w == .hc
  | .planLoad w => w == .hc
  | .planUnload w => w == .hc
  | .attest w => w == .hc
  | .marginReport w => w == .hc
  | .query w => w == .hc
  | .mailboxUnknownCommand w => w == .hc
  | .mailboxGoLost w => w == .hc
  | .registerWrite w _ _ => w == .hc
  | .coldPowerUp _ _ _ => true
  | .imquaServiceRestart => true
  | .hostCxlMemAccess _ pa _ => isHostMem pa
  | _ => false

/-- Whether an event takes place: every one outside safe mode. -/
def takesPlace (s : State) (i : Instr) : Bool := !s.imqua.safe || safeEvent i

/-! ### Margins (R409, R410) -/

/-- MARGIN_SAMPLE (R409): each die's worst drift, once a second. -/
def execMarginSample (drift : List Nat) (s : State) : Res :=
  let q := s.imqua
  if s.now < q.lastSample + 17000000000 then .next s
  else .next { s with imqua := { q with
    drift := (List.range 4).map fun d => Nat.max (q.drift.getD d 0) (drift.getD d 0)
    powered := q.powered + (s.now - q.lastSample)
    lastSample := s.now } }

/-- A re-plan is due: 1,000 hours of operation, or a drift of more than 2%, in units of 0.01%. -/
def replanDue (s : State) : Bool :=
  decide (1000 * hourTicks ≤ s.imqua.powered) || s.imqua.drift.any fun d => decide (200 < d)

/-- MARGIN_REPLAN (R409 to R411): after start-up, the table is planned anew, and the host complex is told. -/
def execMarginReplan (s : State) : Res :=
  if !s.imqua.booted || !replanDue s then .next s
  else
    let v := s.imqua.marginV + 1
    let m : SMap Nat := (List.range 768).map fun c => (c, Config.plannedVolt v c)
    let lost := (List.range 768).filter fun c => !Config.meetsMargin v c
    let s1 := { s with imqua := { s.imqua with
      margin := m, marginV := v, flashMargin := m, flashMarginV := v, powered := 0, drift := [0, 0, 0, 0]
      marginFail := (s.imqua.marginFail ++ lost).eraseDups } }
    .next (interrupt s1 .hc .replan)

/-- The voltage of a core in a table. -/
def voltOf (m : SMap Nat) (c : Nat) : Nat := (SMap.find? m c).getD (Config.factoryVolt c)

/-- A voltage at most 5 mV nearer to another. -/
def voltToward (now_ want : Nat) : Nat := if now_ ≤ want then Nat.min want (now_ + 5) else Nat.max want (now_ - 5)

/-- VOLTAGE_STEP (R409): every core's voltage moves by at most 5 mV toward its table's, 1 ms after the step before. -/
def execVoltageStep (s : State) : Res :=
  let q := s.imqua
  if s.now < q.lastVolt + 17000000 then .next s
  else .next { s with imqua := { q with
    volts := (List.range 768).map fun c => (c, voltToward (voltOf q.volts c) (voltOf q.margin c))
    lastVolt := s.now } }

/-! ### Power and cooling (R414) -/

/-- POWER_LIMIT_THROTTLE: the average draw rises above 4.4 kW, or has fallen again. -/
def execPowerLimitThrottle (above : Bool) (s : State) : Res := .next { s with imqua := { s.imqua with throttled := above } }

/-- JUNCTION_THROTTLE: a die's junction rises above 95 °C, or has fallen again. -/
def execJunctionThrottle (die : Nat) (hot : Bool) (s : State) : Res :=
  if 4 ≤ die then .next s else .next (modDie s die fun d => { d with throttled := hot })

/-- A compute die loses power: what its cores and its TLB held is gone, and its links are down. -/
def powerDown (s : State) (d : Nat) : State :=
  let s1 := modDie s d fun x => { x with powered := false, tlb := [], walks := [] }
  let off (x : Core) : Core :=
    { x with scratch := [], tiles := [], tileErr := [], l1 := [], tlb := [], locks := [], pendSplit := none }
  let cores := s1.cores.map fun e => (e.1, if coreDie e.1 = d then off e.2 else e.2)
  let s2 := { s1 with cores := cores }
  (List.range 4).foldl (fun s i => modLink s (4 * d + i) fun l => { l with state := .down, lanes := 0 }) s2

/-- THERMAL_SHUTDOWN: every kernel is killed, and the compute dies are powered down. -/
def execThermalShutdown (s : State) : Res :=
  let s1 := (s.kernels.filter fun e => unended e.2).foldl (fun s e => endKernel s e.1 .killed 9) s
  .next ((List.range 4).foldl powerDown s1)

end Sys2Proof.Machine
end

