-- ==== Sys2Proof/Machine/Command.lean ====
section
/-! DEFINITION. Performing mailbox commands (R165 to R169): the turns of the commands, replayed and lost ones, and restarts of
Imqua's service. -/

namespace Sys2Proof.Machine

open Sys2Proof

/-- What a performed command does after its reply: RESET resets the package. -/
def afterReply (s : State) (cmd : List Byte) (status : Nat) : State :=
  if recField cmd 8 2 = 0x0002 ∧ status = stOk then restart s else s

/-! ### Performing a mailbox's command (R167) -/

/-- The reply of a replayed request: the stored outcome, and whether the command differs from the stored one. -/
def replay (s : State) (who : Requester) (cmd : List Byte) (e : JEntry) (o : Nat × List Byte) : State :=
  writeReply s who (recField cmd 0 8) o.1 (if e.cmd.drop 8 = cmd.drop 8 then 1 else 3) o.2

/-- Perform a command, write its outcome into the journal, and reply. -/
def performNew (s : State) (who : Requester) (cmd : List Byte) : State :=
  let id := recField cmd 0 8
  let r := runCommand s who cmd
  let s1 := if journalled cmd then setOutcome r.s who id r.status r.results else r.s
  afterReply (writeReply s1 who id r.status 0 r.results) cmd r.status

/-- Imqua performs the command that a busy mailbox holds. -/
def perform (s : State) (who : Requester) : State :=
  let cmd := boxCmd (boxOf s who)
  let id := recField cmd 0 8
  if !journalled cmd then performNew s who cmd
  else if id = 0 then writeReply s who 0 stMalformed 0 []
  else
    match entry? s who id with
    | none => performNew (beginEntry s who cmd) who cmd
    | some e =>
      match e.reply with
      | some o => replay s who cmd e o
      | none => performNew s who e.cmd

/-- A command's turn: the mailbox's command is submitted if it is not yet, and performed. A closed mailbox, or one that
holds another command, is passed over. -/
def commandTurn (s : State) (who : Requester) (mine : Nat → Bool) : State :=
  if !boxOpen s who || !mine (recField (boxCmd (boxOf s who)) 8 2) then s
  else perform (if (boxOf s who).busy then s else submit s who) who

/-- The codes of R166. -/
def listedCode (c : Nat) : Bool :=
  [0x0001, 0x0002, 0x0010, 0x0020, 0x0021, 0x0022, 0x0030, 0x0031, 0x0040, 0x0041, 0x0050].contains c

/-- PING (R166). -/
def execPing (who : Requester) (s : State) : Res := .next (commandTurn s who (· == 0x0001))

/-- RESET (R169). -/
def execReset (who : Requester) (s : State) : Res := .next (commandTurn s who (· == 0x0002))

/-- PART_SET (R163, R164). -/
def execPartSet (who : Requester) (s : State) : Res := .next (commandTurn s who (· == 0x0010))

/-- CTX_CREATE (R170). -/
def execCtxCreate (who : Requester) (s : State) : Res := .next (commandTurn s who (· == 0x0020))

/-- CTX_DESTROY (R172). -/
def execCtxDestroy (who : Requester) (s : State) : Res := .next (commandTurn s who (· == 0x0021))

/-- KEY_SET (R171). -/
def execKeySet (who : Requester) (s : State) : Res := .next (commandTurn s who (· == 0x0022))

/-- PLAN_LOAD (R375). -/
def execPlanLoad (who : Requester) (s : State) : Res := .next (commandTurn s who (· == 0x0030))

/-- PLAN_UNLOAD (R376). -/
def execPlanUnload (who : Requester) (s : State) : Res := .next (commandTurn s who (· == 0x0031))

/-- ATTEST (R412). -/
def execAttest (who : Requester) (s : State) : Res := .next (commandTurn s who (· == 0x0040))

/-- MARGIN_REPORT (R411). -/
def execMarginReport (who : Requester) (s : State) : Res := .next (commandTurn s who (· == 0x0041))

/-- QUERY (R168). -/
def execQuery (who : Requester) (s : State) : Res := .next (commandTurn s who (· == 0x0050))

/-- MAILBOX_UNKNOWN_COMMAND (R166). -/
def execMailboxUnknownCommand (who : Requester) (s : State) : Res := .next (commandTurn s who fun c => !listedCode c)

/-- MAILBOX_GO_LOST (R165): a GO written while BUSY. -/
def execMailboxGoLost (who : Requester) (s : State) : Res :=
  if (boxOf s who).busy then .next (submit s who) else .next s

/-! ### Restarts (R167) -/

/-- IMQUA_SERVICE_RESTART (R167): begun commands are completed, then a GO is accepted again. A RESET among them resets the
package. -/
def execImquaServiceRestart (s : State) : Res :=
  let s1 := completeBegun s fun _ => true
  let s2 := modBox (modBox s1 .host fun b => { b with busy := false }) .hc fun b => { b with busy := false }
  .next (if begunReset s fun _ => true then restart s2 else s2)

end Sys2Proof.Machine
end

