-- ==== Sys2Proof/Machine/Dispatch.lean ====
section
/-! DEFINITION. The meaning of every instruction: one call for each constructor of Instr. -/

namespace Sys2Proof.Machine

open Sys2Proof

def exec (i : Instr) (s : State) : Host.Outcome State Fault Refusal :=
  match i with
  | .add d a b w => Sys2Proof.Machine.execAdd d a b w s
  | .sub d a b w => Sys2Proof.Machine.execSub d a b w s
  | .mul d a b w => Sys2Proof.Machine.execMul d a b w s
  | .mulh d a b w => Sys2Proof.Machine.execMulh d a b w s
  | .mulhn d a b w => Sys2Proof.Machine.execMulhn d a b w s
  | .div d a b w => Sys2Proof.Machine.execDiv d a b w s
  | .divn d a b w => Sys2Proof.Machine.execDivn d a b w s
  | .rem d a b w => Sys2Proof.Machine.execRem d a b w s
  | .remn d a b w => Sys2Proof.Machine.execRemn d a b w s
  | .and_ d a b w => Sys2Proof.Machine.execAnd d a b w s
  | .or_ d a b w => Sys2Proof.Machine.execOr d a b w s
  | .xor d a b w => Sys2Proof.Machine.execXor d a b w s
  | .andn d a b w => Sys2Proof.Machine.execAndn d a b w s
  | .shl d a b w => Sys2Proof.Machine.execShl d a b w s
  | .shr d a b w => Sys2Proof.Machine.execShr d a b w s
  | .sar d a b w => Sys2Proof.Machine.execSar d a b w s
  | .rol d a b w => Sys2Proof.Machine.execRol d a b w s
  | .min d a b w => Sys2Proof.Machine.execMin d a b w s
  | .max d a b w => Sys2Proof.Machine.execMax d a b w s
  | .minn d a b w => Sys2Proof.Machine.execMinn d a b w s
  | .maxn d a b w => Sys2Proof.Machine.execMaxn d a b w s
  | .slt d a b w => Sys2Proof.Machine.execSlt d a b w s
  | .sltn d a b w => Sys2Proof.Machine.execSltn d a b w s
  | .seq d a b w => Sys2Proof.Machine.execSeq d a b w s
  | .popc d a w => Sys2Proof.Machine.execPopc d a w s
  | .clz d a w => Sys2Proof.Machine.execClz d a w s
  | .ctz d a w => Sys2Proof.Machine.execCtz d a w s
  | .brev d a w => Sys2Proof.Machine.execBrev d a w s
  | .addi d a imm => Sys2Proof.Machine.execAddi d a imm s
  | .andi d a imm => Sys2Proof.Machine.execAndi d a imm s
  | .ori d a imm => Sys2Proof.Machine.execOri d a imm s
  | .xori d a imm => Sys2Proof.Machine.execXori d a imm s
  | .shli d a amt => Sys2Proof.Machine.execShli d a amt s
  | .shri d a amt => Sys2Proof.Machine.execShri d a amt s
  | .sari d a amt => Sys2Proof.Machine.execSari d a amt s
  | .slti d a imm => Sys2Proof.Machine.execSlti d a imm s
  | .seqi d a imm => Sys2Proof.Machine.execSeqi d a imm s
  | .lui d imm => Sys2Proof.Machine.execLui d imm s
  | .auipc d imm => Sys2Proof.Machine.execAuipc d imm s
  | .emset a => Sys2Proof.Machine.execEmset a s
  | .emget d => Sys2Proof.Machine.execEmget d s
  | .emand a => Sys2Proof.Machine.execEmand a s
  | .emandn a => Sys2Proof.Machine.execEmandn a s
  | .emor a => Sys2Proof.Machine.execEmor a s
  | .vaadd d a b => Sys2Proof.Machine.execVaadd d a b s
  | .vaadds d a b => Sys2Proof.Machine.execVaadds d a b s
  | .vasub d a b => Sys2Proof.Machine.execVasub d a b s
  | .vamuls d a b => Sys2Proof.Machine.execVamuls d a b s
  | .vamads d a b => Sys2Proof.Machine.execVamads d a b s
  | .vashls d a b => Sys2Proof.Machine.execVashls d a b s
  | .vashrs d a b => Sys2Proof.Machine.execVashrs d a b s
  | .vaands d a b => Sys2Proof.Machine.execVaands d a b s
  | .vaiota d a b => Sys2Proof.Machine.execVaiota d a b s
  | .vamovs d a => Sys2Proof.Machine.execVamovs d a s
  | .vaext d a b => Sys2Proof.Machine.execVaext d a b s
  | .vains d a b => Sys2Proof.Machine.execVains d a b s
  | .valtm d a b => Sys2Proof.Machine.execValtm d a b s
  | .vaeqm d a b => Sys2Proof.Machine.execVaeqm d a b s
  | .j off => Sys2Proof.Machine.execJ off s
  | .call off => Sys2Proof.Machine.execCall off s
  | .jr a => Sys2Proof.Machine.execJr a s
  | .callr a => Sys2Proof.Machine.execCallr a s
  | .bcc cc a off => Sys2Proof.Machine.execBcc cc a off s
  | .bxq cc off => Sys2Proof.Machine.execBxq cc off s
  | .brs policy m off => Sys2Proof.Machine.execBrs policy m off s
  | .brx aa base len => Sys2Proof.Machine.execBrx aa base len s
  | .join => Sys2Proof.Machine.execJoin s
  | .ends => Sys2Proof.Machine.execEnds s
  | .loopd a off => Sys2Proof.Machine.execLoopd a off s
  | .disp off => Sys2Proof.Machine.execDisp off s
  | .kput d a => Sys2Proof.Machine.execKput d a s
  | .xpop d => Sys2Proof.Machine.execXpop d s
  | .xpeek d => Sys2Proof.Machine.execXpeek d s
  | .ld ty asp nt aa sb off => Sys2Proof.Machine.execLd ty asp nt aa sb off s
  | .lda ty asp nt aa sb d => Sys2Proof.Machine.execLda ty asp nt aa sb d s
  | .lds d a imm => Sys2Proof.Machine.execLds d a imm s
  | .ldsw d a imm => Sys2Proof.Machine.execLdsw d a imm s
  | .st ty asp nt aa sb off => Sys2Proof.Machine.execSt ty asp nt aa sb off s
  | .sts d a imm => Sys2Proof.Machine.execSts d a imm s
  | .ldf ty nt aa sb => Sys2Proof.Machine.execLdf ty nt aa sb s
  | .atom aop asp sc aa sb at_ rv => Sys2Proof.Machine.execAtom aop asp sc aa sb at_ rv s
  | .atoms aop sc d a b => Sys2Proof.Machine.execAtoms aop sc d a b s
  | .pref ty asp nt aa sb off => Sys2Proof.Machine.execPref ty asp nt aa sb off s
  | .cpy d a => Sys2Proof.Machine.execCpy d a s
  | .cpysp d a => Sys2Proof.Machine.execCpysp d a s
  | .gath d a => Sys2Proof.Machine.execGath d a s
  | .scat d a => Sys2Proof.Machine.execScat d a s
  | .spillb d a => Sys2Proof.Machine.execSpillb d a s
  | .filla d a => Sys2Proof.Machine.execFilla d a s
  | .binit asp a b => Sys2Proof.Machine.execBinit asp a b s
  | .barrive rel asp d a b => Sys2Proof.Machine.execBarrive rel asp d a b s
  | .bexpect asp a b => Sys2Proof.Machine.execBexpect asp a b s
  | .bwait asp a b => Sys2Proof.Machine.execBwait asp a b s
  | .btest asp d a b => Sys2Proof.Machine.execBtest asp d a b s
  | .bstat asp d a b => Sys2Proof.Machine.execBstat asp d a b s
  | .fence kind scope => Sys2Proof.Machine.execFence kind scope s
  | .drainnt => Sys2Proof.Machine.execDrainnt s
  | .mon a => Sys2Proof.Machine.execMon a s
  | .mwait => Sys2Proof.Machine.execMwait s
  | .enq d a b => Sys2Proof.Machine.execEnq d a b s
  | .deq d a => Sys2Proof.Machine.execDeq d a s
  | .gstart d a b => Sys2Proof.Machine.execGstart d a b s
  | .gsig d a b => Sys2Proof.Machine.execGsig d a b s
  | .sp idx => Sys2Proof.Machine.execSp idx s
  | .yield => Sys2Proof.Machine.execYield s
  | .trap a => Sys2Proof.Machine.execTrap a s
  | .brk => Sys2Proof.Machine.execBrk s
  | .csrr d n => Sys2Proof.Machine.execCsrr d n s
  | .csrw a n => Sys2Proof.Machine.execCsrw a n s
  | .tstop => Sys2Proof.Machine.execTstop s
  | .fret => Sys2Proof.Machine.execFret s
  | .fretSkip => Sys2Proof.Machine.execFretSkip s
  | .fmap d => Sys2Proof.Machine.execFmap d s
  | .femu a b => Sys2Proof.Machine.execFemu a b s
  | .fskip => Sys2Proof.Machine.execFskip s
  | .fpark a b => Sys2Proof.Machine.execFpark a b s
  | .hcall d a b => Sys2Proof.Machine.execHcall d a b s
  | .rdfi d a => Sys2Proof.Machine.execRdfi d a s
  | .nop f => Sys2Proof.Machine.execNop f s
  | .end_ f => Sys2Proof.Machine.execEnd f s
  | .vadd f => Sys2Proof.Machine.execVadd f s
  | .vsub f => Sys2Proof.Machine.execVsub f s
  | .vmul f => Sys2Proof.Machine.execVmul f s
  | .vmulh f => Sys2Proof.Machine.execVmulh f s
  | .vmad f => Sys2Proof.Machine.execVmad f s
  | .vand f => Sys2Proof.Machine.execVand f s
  | .vor f => Sys2Proof.Machine.execVor f s
  | .vxor f => Sys2Proof.Machine.execVxor f s
  | .vshl f => Sys2Proof.Machine.execVshl f s
  | .vshr f => Sys2Proof.Machine.execVshr f s
  | .vsar f => Sys2Proof.Machine.execVsar f s
  | .vmin f => Sys2Proof.Machine.execVmin f s
  | .vmax f => Sys2Proof.Machine.execVmax f s
  | .vabs f => Sys2Proof.Machine.execVabs f s
  | .vclz f => Sys2Proof.Machine.execVclz f s
  | .vpopc f => Sys2Proof.Machine.execVpopc f s
  | .vbrev f => Sys2Proof.Machine.execVbrev f s
  | .vbfe f => Sys2Proof.Machine.execVbfe f s
  | .vbfi f => Sys2Proof.Machine.execVbfi f s
  | .vsel f => Sys2Proof.Machine.execVsel f s
  | .vicmp f => Sys2Proof.Machine.execVicmp f s
  | .vfadd f => Sys2Proof.Machine.execVfadd f s
  | .vfsub f => Sys2Proof.Machine.execVfsub f s
  | .vfmul f => Sys2Proof.Machine.execVfmul f s
  | .vfma f => Sys2Proof.Machine.execVfma f s
  | .vfmin f => Sys2Proof.Machine.execVfmin f s
  | .vfmax f => Sys2Proof.Machine.execVfmax f s
  | .vfrcp f => Sys2Proof.Machine.execVfrcp f s
  | .vfrsq f => Sys2Proof.Machine.execVfrsq f s
  | .vfsqrt f => Sys2Proof.Machine.execVfsqrt f s
  | .vfexp2 f => Sys2Proof.Machine.execVfexp2 f s
  | .vflog2 f => Sys2Proof.Machine.execVflog2 f s
  | .vfclass f => Sys2Proof.Machine.execVfclass f s
  | .vfcmp f => Sys2Proof.Machine.execVfcmp f s
  | .vcvt f => Sys2Proof.Machine.execVcvt f s
  | .vqswp f => Sys2Proof.Machine.execVqswp f s
  | .vshfl f => Sys2Proof.Machine.execVshfl f s
  | .vbcast f => Sys2Proof.Machine.execVbcast f s
  | .vballot f => Sys2Proof.Machine.execVballot f s
  | .vprefix f => Sys2Proof.Machine.execVprefix f s
  | .vred f => Sys2Proof.Machine.execVred f s
  | .vtopk f => Sys2Proof.Machine.execVtopk f s
  | .vqred f => Sys2Proof.Machine.execVqred f s
  | .kop f => Sys2Proof.Machine.execKop f s
  | .kfromv f => Sys2Proof.Machine.execKfromv f s
  | .vfromk f => Sys2Proof.Machine.execVfromk f s
  | .vmov f => Sys2Proof.Machine.execVmov f s
  | .xbound f => Sys2Proof.Machine.execXbound f s
  | .xset f => Sys2Proof.Machine.execXset f s
  | .emnarrow f => Sys2Proof.Machine.execEmnarrow f s
  | .emrestore f => Sys2Proof.Machine.execEmrestore f s
  | .nif f => Sys2Proof.Machine.execNif f s
  | .nelse f => Sys2Proof.Machine.execNelse f s
  | .nend f => Sys2Proof.Machine.execNend f s
  | .nbreak f => Sys2Proof.Machine.execNbreak f s
  | .vpack f => Sys2Proof.Machine.execVpack f s
  | .vunpk f => Sys2Proof.Machine.execVunpk f s
  | .vscale f => Sys2Proof.Machine.execVscale f s
  | .region f => Sys2Proof.Machine.execRegion f s
  | .mma f => Sys2Proof.Machine.execMma f s
  | .mzero f => Sys2Proof.Machine.execMzero f s
  | .mload f => Sys2Proof.Machine.execMload f s
  | .mstore f => Sys2Proof.Machine.execMstore f s
  | .mdrain f => Sys2Proof.Machine.execMdrain f s
  | .mdrainWindow f => Sys2Proof.Machine.execMdrainWindow f s
  | .mbf f => Sys2Proof.Machine.execMbf f s
  | .mbw f => Sys2Proof.Machine.execMbw f s
  | .mbind f => Sys2Proof.Machine.execMbind f s
  | .odnarNop o => Sys2Proof.Machine.execOdnarNop o s
  | .setg o => Sys2Proof.Machine.execSetg o s
  | .addg o => Sys2Proof.Machine.execAddg o s
  | .peer o => Sys2Proof.Machine.execPeer o s
  | .chunk o => Sys2Proof.Machine.execChunk o s
  | .sendAcc o => Sys2Proof.Machine.execSendAcc o s
  | .sendOwn o => Sys2Proof.Machine.execSendOwn o s
  | .sendMem o => Sys2Proof.Machine.execSendMem o s
  | .recvAcc o => Sys2Proof.Machine.execRecvAcc o s
  | .recvDest o => Sys2Proof.Machine.execRecvDest o s
  | .rrs o => Sys2Proof.Machine.execRrs o s
  | .copyOwn o => Sys2Proof.Machine.execCopyOwn o s
  | .copyDest o => Sys2Proof.Machine.execCopyDest o s
  | .copyLoad o => Sys2Proof.Machine.execCopyLoad o s
  | .copyStore o => Sys2Proof.Machine.execCopyStore o s
  | .match_ o => Sys2Proof.Machine.execMatch o s
  | .combine o => Sys2Proof.Machine.execCombine o s
  | .forward o => Sys2Proof.Machine.execForward o s
  | .scalex o => Sys2Proof.Machine.execScalex o s
  | .waitWin o => Sys2Proof.Machine.execWaitWin o s
  | .waitSig o => Sys2Proof.Machine.execWaitSig o s
  | .waitTime o => Sys2Proof.Machine.execWaitTime o s
  | .waitBar o => Sys2Proof.Machine.execWaitBar o s
  | .signal o => Sys2Proof.Machine.execSignal o s
  | .signalSub o => Sys2Proof.Machine.execSignalSub o s
  | .bset o => Sys2Proof.Machine.execBset o s
  | .loop o => Sys2Proof.Machine.execLoop o s
  | .endl o => Sys2Proof.Machine.execEndl o s
  | .brg o => Sys2Proof.Machine.execBrg o s
  | .tstart o => Sys2Proof.Machine.execTstart o s
  | .yieldc o => Sys2Proof.Machine.execYieldc o s
  | .ackw o => Sys2Proof.Machine.execAckw o s
  | .odnarEnd o => Sys2Proof.Machine.execOdnarEnd o s
  | .ping who => Sys2Proof.Machine.execPing who s
  | .reset who => Sys2Proof.Machine.execReset who s
  | .partSet who => Sys2Proof.Machine.execPartSet who s
  | .ctxCreate who => Sys2Proof.Machine.execCtxCreate who s
  | .ctxDestroy who => Sys2Proof.Machine.execCtxDestroy who s
  | .keySet who => Sys2Proof.Machine.execKeySet who s
  | .planLoad who => Sys2Proof.Machine.execPlanLoad who s
  | .planUnload who => Sys2Proof.Machine.execPlanUnload who s
  | .attest who => Sys2Proof.Machine.execAttest who s
  | .marginReport who => Sys2Proof.Machine.execMarginReport who s
  | .query who => Sys2Proof.Machine.execQuery who s
  | .mailboxUnknownCommand who => Sys2Proof.Machine.execMailboxUnknownCommand who s
  | .mailboxGoLost who => Sys2Proof.Machine.execMailboxGoLost who s
  | .cctlSave who ctx => Sys2Proof.Machine.execCctlSave who ctx s
  | .cctlRestore who ctx => Sys2Proof.Machine.execCctlRestore who ctx s
  | .cctlKill who ctx => Sys2Proof.Machine.execCctlKill who ctx s
  | .cctlResume who ctx => Sys2Proof.Machine.execCctlResume who ctx s
  | .qctlBind who q v => Sys2Proof.Machine.execQctlBind who q v s
  | .qctlRelease who q v => Sys2Proof.Machine.execQctlRelease who q v s
  | .qctlEnable who q v => Sys2Proof.Machine.execQctlEnable who q v s
  | .qctlDisable who q v => Sys2Proof.Machine.execQctlDisable who q v s
  | .qctlPrioWrite who q v => Sys2Proof.Machine.execQctlPrioWrite who q v s
  | .qctlPullWrite who q v => Sys2Proof.Machine.execQctlPullWrite who q v s
  | .qstatClr who q v => Sys2Proof.Machine.execQstatClr who q v s
  | .qstatFlagClear who q v => Sys2Proof.Machine.execQstatFlagClear who q v s
  | .mctlClaim who m v => Sys2Proof.Machine.execMctlClaim who m v s
  | .mctlFree who m v => Sys2Proof.Machine.execMctlFree who m v s
  | .mctlGo who m v => Sys2Proof.Machine.execMctlGo who m v s
  | .mctlRel who m v => Sys2Proof.Machine.execMctlRel who m v s
  | .mctlAbort who m v => Sys2Proof.Machine.execMctlAbort who m v s
  | .lctlRetrain who l v => Sys2Proof.Machine.execLctlRetrain who l v s
  | .registerWrite who pa v => Sys2Proof.Machine.execRegisterWrite who pa v s
  | .coldPowerUp ok fallbackOk failed => Sys2Proof.Machine.execColdPowerUp ok fallbackOk failed s
  | .hostHotReset => Sys2Proof.Machine.execHostHotReset s
  | .hostCxlMemAccess write pa bytes => Sys2Proof.Machine.execHostCxlMemAccess write pa bytes s
  | .enqueueArrival who pa bytes => Sys2Proof.Machine.execEnqueueArrival who pa bytes s
  | .queueHeadEligible q => Sys2Proof.Machine.execQueueHeadEligible q s
  | .queuePriorityAge q => Sys2Proof.Machine.execQueuePriorityAge q s
  | .queueHandover => Sys2Proof.Machine.execQueueHandover s
  | .copyRecordComplete n => Sys2Proof.Machine.execCopyRecordComplete n s
  | .kernelTake k => Sys2Proof.Machine.execKernelTake k s
  | .teamPlace k => Sys2Proof.Machine.execTeamPlace k s
  | .preemptionTimeout k die => Sys2Proof.Machine.execPreemptionTimeout k die s
  | .activeSwap core => Sys2Proof.Machine.execActiveSwap core s
  | .activeSetFill core => Sys2Proof.Machine.execActiveSetFill core s
  | .pendingPromotion core => Sys2Proof.Machine.execPendingPromotion core s
  | .groupWake g => Sys2Proof.Machine.execGroupWake g s
  | .parkedWake g => Sys2Proof.Machine.execParkedWake g s
  | .cutComplete g => Sys2Proof.Machine.execCutComplete g s
  | .contextSaveComplete ctx => Sys2Proof.Machine.execContextSaveComplete ctx s
  | .spawnRecordArrival die => Sys2Proof.Machine.execSpawnRecordArrival die s
  | .formingTimeout die e => Sys2Proof.Machine.execFormingTimeout die e s
  | .formingJoinStallLaunch die e => Sys2Proof.Machine.execFormingJoinStallLaunch die e s
  | .formedGroupPlace die e => Sys2Proof.Machine.execFormedGroupPlace die e s
  | .spawnedGroupEvict die e => Sys2Proof.Machine.execSpawnedGroupEvict die e s
  | .evictedGroupRestore g => Sys2Proof.Machine.execEvictedGroupRestore g s
  | .stopRecordWrite g => Sys2Proof.Machine.execStopRecordWrite g s
  | .watchdogFirstExpiry k => Sys2Proof.Machine.execWatchdogFirstExpiry k s
  | .watchdogSecondExpiry k => Sys2Proof.Machine.execWatchdogSecondExpiry k s
  | .kernelRetire k => Sys2Proof.Machine.execKernelRetire k s
  | .graphStart n => Sys2Proof.Machine.execGraphStart n s
  | .graphNodeComplete n node => Sys2Proof.Machine.execGraphNodeComplete n node s
  | .loadDataArrival g n lanes => Sys2Proof.Machine.execLoadDataArrival g n lanes s
  | .muslinEntryMove g => Sys2Proof.Machine.execMuslinEntryMove g s
  | .storePairSend g => Sys2Proof.Machine.execStorePairSend g s
  | .pageWalkComplete die ctx va kind => Sys2Proof.Machine.execPageWalkComplete die ctx va kind s
  | .pageRequestResponse req refused => Sys2Proof.Machine.execPageRequestResponse req refused s
  | .hcallResponse req refused => Sys2Proof.Machine.execHcallResponse req refused s
  | .proxyFenceInterrupt part who => Sys2Proof.Machine.execProxyFenceInterrupt part who s
  | .remoteFenceDone part who => Sys2Proof.Machine.execRemoteFenceDone part who s
  | .migrationCopyComplete m ok => Sys2Proof.Machine.execMigrationCopyComplete m ok s
  | .rangeLockRegister n => Sys2Proof.Machine.execRangeLockRegister n s
  | .enginePortion n p => Sys2Proof.Machine.execEnginePortion n p s
  | .matrixOpComplete g n => Sys2Proof.Machine.execMatrixOpComplete g n s
  | .batchComplete g n => Sys2Proof.Machine.execBatchComplete g n s
  | .barrierInit n => Sys2Proof.Machine.execBarrierInit n s
  | .barrierArrival n => Sys2Proof.Machine.execBarrierArrival n s
  | .barrierExpect n => Sys2Proof.Machine.execBarrierExpect n s
  | .barrierEngineCompletion n => Sys2Proof.Machine.execBarrierEngineCompletion n s
  | .monitorTrigger g => Sys2Proof.Machine.execMonitorTrigger g s
  | .monitorDrop g => Sys2Proof.Machine.execMonitorDrop g s
  | .l1WritebackTimeout core line => Sys2Proof.Machine.execL1WritebackTimeout core line s
  | .l1CleanDrop core line => Sys2Proof.Machine.execL1CleanDrop core line s
  | .coalescerPacketSend core n => Sys2Proof.Machine.execCoalescerPacketSend core n s
  | .remoteRequestArrival n => Sys2Proof.Machine.execRemoteRequestArrival n s
  | .remoteReadResponse n => Sys2Proof.Machine.execRemoteReadResponse n s
  | .storeAcknowledgement n => Sys2Proof.Machine.execStoreAcknowledgement n s
  | .atomicResponse n => Sys2Proof.Machine.execAtomicResponse n s
  | .retryLaterResend n => Sys2Proof.Machine.execRetryLaterResend n s
  | .retryLaterExpiry n => Sys2Proof.Machine.execRetryLaterExpiry n s
  | .transportTimeout n => Sys2Proof.Machine.execTransportTimeout n s
  | .linkPowerUp die => Sys2Proof.Machine.execLinkPowerUp die s
  | .linkTrainingEnd l pass => Sys2Proof.Machine.execLinkTrainingEnd l pass s
  | .linkErrorRetrain l => Sys2Proof.Machine.execLinkErrorRetrain l s
  | .flitReceive l toDie flit => Sys2Proof.Machine.execFlitReceive l toDie flit s
  | .windowStoreArrival n => Sys2Proof.Machine.execWindowStoreArrival n s
  | .damaskMessageArrival n => Sys2Proof.Machine.execDamaskMessageArrival n s
  | .creditReturn n => Sys2Proof.Machine.execCreditReturn n s
  | .failureNoticeArrival n => Sys2Proof.Machine.execFailureNoticeArrival n s
  | .roundLimitExpiry n => Sys2Proof.Machine.execRoundLimitExpiry n s
  | .datapathStepComplete n => Sys2Proof.Machine.execDatapathStepComplete n s
  | .marginSample drift => Sys2Proof.Machine.execMarginSample drift s
  | .marginReplan => Sys2Proof.Machine.execMarginReplan s
  | .voltageStep => Sys2Proof.Machine.execVoltageStep s
  | .powerLimitThrottle above => Sys2Proof.Machine.execPowerLimitThrottle above s
  | .junctionThrottle die hot => Sys2Proof.Machine.execJunctionThrottle die hot s
  | .thermalShutdown => Sys2Proof.Machine.execThermalShutdown s
  | .transportTimeoutResend n => Sys2Proof.Machine.execTransportTimeoutResend n s
  | .fabricTimeReached n => Sys2Proof.Machine.execFabricTimeReached n s
  | .hostPortResetExit => Sys2Proof.Machine.execHostPortResetExit s
  | .imquaServiceRestart => Sys2Proof.Machine.execImquaServiceRestart s

end Sys2Proof.Machine
end

