-- ==== Sys2Proof/Machine/Step.lean ====
section
/-! DEFINITION. One step of the package: the next turn of the agenda, its fetch, and the execution of what it names. -/

namespace Sys2Proof.Machine

open Sys2Proof

/-- The state in which a group's instruction executes: the group is the actor, and its stream has now issued. -/
def actA (s : State) (gid : Nat) : State := { modGrp s gid (fun g => { g with lastA := s.now }) with cur := .group gid }

/-- The same for the C-stream. -/
def actC (s : State) (gid : Nat) : State := { modGrp s gid (fun g => { g with lastC := s.now }) with cur := .group gid }

/-- A turn of a group's A-stream. A group that cannot issue, or has a ready one before it in least-recently-issued order (R47),
lets the turn pass. -/
def stepA (s : State) (gid : Nat) : Res :=
  match grp? s gid with
  | none => .next s
  | some g =>
    match kern? s g.kern with
    | none => .next s
    | some k =>
      if !canIssue g || !turnA s gid g then .next s
      else
        match fetchA s g k with
        | (s1, .error f) => .next (takeFetchFault s1 gid g f)
        | (s1, .ok i) => exec i (actA s1 gid)

/-- A turn of a group's C-stream. Between blocks, the next block starts and its first instruction issues. -/
def stepC (s : State) (gid : Nat) : Res :=
  match grp? s gid with
  | none => .next s
  | some g0 =>
    match kern? s g0.kern with
    | none => .next s
    | some k =>
      if !canIssueC g0 || !turnC s gid g0 || (g0.cpos.isNone && spillHolds s gid) then .next s
      else
        let g := startBlock g0
        let s0 := setGrp s gid g
        match g.cpos with
        | none => .next s
        | some p =>
          match fetchC s0 g k p with
          | (s1, .error f) => .next (takeFault s1 gid f)
          | (s1, .ok i) => exec i (actC s1 gid)

/-- A turn of a Damask instance. -/
def stepO (s : State) (n : Nat) : Res :=
  match fetchO s n with
  | none => .next s
  | some i => exec i { s with cur := .damask n }

/-- What one move does. The agenda names every event of the package and of the outside world (log 1). -/
def moveStep (s : State) (m : Move) : Res :=
  match m with
  | .a g => stepA s g
  | .c g => stepC s g
  | .odnar n => stepO s n
  | .ev i => if takesPlace s i then exec i s else .next s
  | .packet w => .next (portIn s (takeWire s w))
  | .rxFull on => .next (setRxFull s on)
  | .linkTake l d c => .next (linkTake s l d c)
  | .message x => .next (portIn s (putMsg s x))
  | .notice x => .next (portIn s (putNote s x))
  | .credit x => .next (portIn s (putCredit s x))
  | .ecc line bad => .next (setBad s line bad)
  | .forward d => .next (forwardOne s d)
  | .readAhead g n l k => .next (readAhead s g n l k)
  | .halfStore g => .next (halfStore s g)
  | .dropCopy d line => .next (dropCopy s d line)
  | .eccCorr line on => .next (setCorr s line on)
  | .eccReg g r m c => .next (setBadReg s g r m c)
  | .eccTile c t x => .next (setBadTile s c t x)
  | .clock p o => .next (setOffset s p o)
  | .flashId n => .next (setFlashId s n)
  | .flashRoute p v => .next (setFlashRoute s p v)

/-- One step of the package. With nothing to do, one cycle passes. -/
def step (s : State) : Res :=
  match nextTurn s with
  | (none, _) => .next (passTime s (cycles 1) [])
  | (some t, rest) => moveStep (passTime s t.dt rest) t.move

/-- The state with one instruction placed where the next step fetches (log 2). -/
def State.withFetchWord (s : State) (nbits w : Nat) : State := loadWord s nbits w

end Sys2Proof.Machine
end

