-- ==== Sys2Proof/Safety.lean ====
section
/-! DEFINITION. What counts as a safe step and a safe run, when an instruction is the one that issues, and the exact results
that the statements compare the machine with. -/

namespace Sys2Proof.Machine

open Sys2Proof

/-! ### Steps and runs -/

/-- A step that answers a next state. The architecture's own faults are taken inside the machine (R358), so a step that does
not is one the spec gives no effect. -/
def Completes (r : Res) : Prop := ∃ t, r = .next t

/-- The memory keeps its canonical form. -/
def Canonical (s : State) : Prop := Memory.wf s.mem = true

/-- A property that every step keeps. -/
def StepKeeps (p : State → Prop) : Prop := ∀ s t, p s → step s = .next t → p t

/-- The state after a number of steps that all complete. -/
def runs : Nat → State → Option State
  | 0, s => some s
  | n + 1, s =>
    match step s with
    | .next t => runs n t
    | _ => none

/-- A run of a number of steps none of which stops. -/
def SafeRun (n : Nat) (s : State) : Prop := (runs n s).isSome = true

/-! ### Instruction words (R260, R267) -/

/-- A C-word whose fields are all zero. -/
def zeroC : CFields where
  stall := 0
  reuse := 0
  msel := 0
  mreg := 0
  d := 0
  dk := 0
  a := 0
  ak := 0
  b := 0
  bk := 0
  c := 0
  ck := 0
  ty := 0
  rnd := 0
  mod := 0
  imm := 0

/-- An Odnar word whose fields are all zero. -/
def zeroO : OFields where
  d := 0
  a := 0
  b := 0
  f := 0
  imm := 0

/-! ### When an instruction issues and has its own effect -/

/-- The group `gid`, of kernel `k`, is executing in the state `s`. -/
abbrev Acts (s : State) (gid : Nat) (g : Group) (k : Kernel) : Prop :=
  s.cur = .group gid ∧ grp? s gid = some g ∧ kern? s g.kern = some k

/-- The A-instruction `i` of the executing group issues and none of the fates of R268 or of the faults of R35, R38 and R65
takes its place. -/
abbrev IssuesA (i : Instr) (s : State) (gid : Nat) (g : Group) (k : Kernel) : Prop :=
  Acts s gid g k ∧ canIssue g = true ∧ (inHandler g = true ∨ g.afaults = []) ∧ fate k g i = none ∧ spdistDue k g i = false
    ∧ (isBlocking i = true → followsSp g = true)

/-- The C-instruction `i` of the executing group issues: its queues are ready and none of the faults of R306 takes its
place. -/
abbrev IssuesC (i : Instr) (s : State) (gid : Nat) (g : Group) (k : Kernel) (p : CPos) : Prop :=
  Acts s gid g k ∧ g.cpos = some p ∧ canIssueC g = true ∧ cWaits g i (cEnv k g i) = false
    ∧ cFate k g p i (cEnv k g i) = none

/-- The Damask instance `n`, which runs a round of plan `p`, is executing, its datapath step over and its destination locks
registered (R380, R381). -/
abbrev RunsO (s : State) (n : Nat) (x : Inst) (p : Plan) : Prop :=
  s.cur = .damask n ∧ inst? s n = some x ∧ plan? s x.plan = some p ∧ onPath s n = false ∧ x.registered = true

/-! ### Data steps of Odnar (R386, R392) -/

/-- The state in which the datapath `d` has taken the step `i` of the instance `n`. -/
def stepBegun (s : State) (d n : Nat) (x : Inst) (p : Plan) (i : Instr) : State :=
  { s with damask := { s.damask with
      paths := SMap.put s.damask.paths d (n, s.now + stepTicks s p x i)
      served := SMap.put s.damask.served (4 * d + p.prio) n } }

/-- The data instruction `i` of an executing instance can begin: it is ready, and the datapath `d` is free and would take it. -/
abbrev StepBegins (s : State) (d n : Nat) (x : Inst) (p : Plan) (i : Instr) : Prop :=
  RunsO s n x p ∧ freePath s = some d ∧ stepReady s p x i = some true ∧ chosen s d = some n

/-- A message is on its way to a member of this package or of another. -/
def MsgSent (t : State) (m : DMsg) : Prop :=
  (∃ k, SMap.find? t.fabric.msgs k = some m) ∨ ∃ k x, SMap.find? t.fabric.outMsgs k = some x ∧ x.msg = m

/-- The rank's package can be reached by this member's messages: it is this one, or the plan had a route to it when it was loaded
(R392). -/
def Routed (s : State) (p : Plan) (peer : Nat) : Prop := rankHere s p peer = true ∨ p.reach.contains (rankPkg p peer) = true

/-- The group as it stands after a register instruction that writes `v` into its scalar field `d` (R255, R259). -/
def wrote (s : State) (gid : Nat) (g : Group) (d : BitVec 6) (v : Word) : State := setGrp s gid (advance (ws g d v))

/-- The step of `i` completes in a state of which `q` holds. -/
def Does (i : Instr) (s : State) (q : State → Prop) : Prop := ∃ t, exec i s = .next t ∧ q t

/-- The step of `i` completes and leaves the group `gid` as one of which `q` holds. -/
def Leaves (i : Instr) (s : State) (gid : Nat) (q : State → Group → Prop) : Prop :=
  ∃ t g', exec i s = .next t ∧ grp? t gid = some g' ∧ q t g'

/-! ### Lane and uniform instructions (R229, R261, R303 to R305) -/

/-- The state behind a C-instruction whose own effect leaves the group as `x`. -/
def cNext (s : State) (gid : Nat) (e : CEnv) (x : Group) : State := setGrp s gid (cAdvance e x)

/-- `i` completes with a value for every lane at its destination, of which `q` holds by lane. -/
def LaneResult (i : Instr) (s : State) (gid : Nat) (g : Group) (k : Kernel) (q : CEnv → Nat → Word → Prop) : Prop :=
  let e := cEnv k g i
  ∃ val, exec i s = .next (cNext s gid e (putLanes e (popLq e g) val)) ∧ ∀ l, l < 32 → q e l (val l)

/-- `i` completes with one value at its destination, a k-register or XQ, of which `q` holds. -/
def UniformResult (i : Instr) (s : State) (gid : Nat) (g : Group) (k : Kernel) (q : CEnv → Word → Prop) : Prop :=
  let e := cEnv k g i
  ∃ v, exec i s = .next (cNext s gid e (putUniform e (popLq e g) v)) ∧ q e v

/-- An exact integer wrapped to a type's width, as the type reads it. -/
def wrapAt (ty : Nat) (x : Int) : Int :=
  let r := x % 2 ^ elemBits ty
  if isSigned ty = true ∧ 2 ^ (elemBits ty - 1) ≤ r then r - 2 ^ elemBits ty else r

/-- An exact integer in a type: wrapped, or clamped to the type's range with sat (R229). -/
def fitAt (ty : Nat) (sat : Bool) (x : Int) : Int := if sat then Max.max (tyLo ty) (Min.min (tyHi ty) x) else wrapAt ty x

/-- The integer conditions of R310. -/
def cmpTest (c : Nat) (a b : Int) : Prop :=
  (c = 0 ∧ a = b) ∨ (c = 1 ∧ a ≠ b) ∨ (c = 2 ∧ a < b) ∨ (c = 3 ∧ a ≤ b) ∨ (c = 4 ∧ b < a) ∨ (c = 5 ∧ b ≤ a)

/-- An f32 pattern is a NaN. -/
abbrev nan32 (v : Nat) : Prop := 0x7F800000 < v % 2 ^ 31

/-- The place of an f32 pattern that is no NaN in the order of R235: -0 stands below +0. -/
def order32 (v : Nat) : Int := if 2 ^ 31 ≤ v then 2 ^ 31 - 1 - (v : Int) else v

/-- The conditions of R313 on f32 patterns. -/
def fcmpTest (c a b : Nat) : Prop :=
  if nan32 a ∨ nan32 b then c = 1 ∨ c = 7 else c = 6 ∨ cmpTest c (order32 a) (order32 b)

/-- The number that a finite exact value stands for. -/
def FVal.rat : FVal → ℚ
  | .num n m e => (if n then -1 else 1) * m * (2 : ℚ) ^ e
  | _ => 0

/-- The lanes of L below `l`, and `l` itself when `incl`, in ascending order. -/
def lanesUpTo (m : BitVec 32) (incl : Bool) (l : Nat) : List Nat := (lanesOf m).filter fun j => decide (j < l) || (incl && decide (j = l))

/-! ### Exact integer results (R258) -/

/-- The width that .w selects. -/
def wBits (w : Bool) : Nat := if w then 32 else 64

/-- An operand at a width, read unsigned. -/
def uAt (n : Nat) (v : Word) : Nat := v.toNat % 2 ^ n

/-- An operand at a width, read signed. -/
def sAt (n : Nat) (v : Word) : Int := if 2 ^ (n - 1) ≤ uAt n v then (uAt n v : Int) - 2 ^ n else uAt n v

/-- The register value for an exact result: its low `n` bits, sign-extended (R258). -/
def fromExact (n : Nat) (x : Int) : Word :=
  let r := x % 2 ^ n
  BitVec.ofInt 64 (if 2 ^ (n - 1) ≤ r then r - 2 ^ n else r)

/-- 1 or 0 for a condition. -/
def flag (c : Prop) [Decidable c] : Int := if c then 1 else 0

/-! ### Control flow (R279, R280) -/

/-- `PC + 4 * SignExt(off)`. -/
def relTarget {n : Nat} (pc : Word) (off : BitVec n) : Word := BitVec.ofInt 64 (pc.toInt + 4 * off.toInt)

/-- The tests of R280 on a value and the exec mask. -/
def ccTest (cc : Nat) (v : Word) (em : BitVec 32) : Prop :=
  match cc with
  | 0 => v = 0
  | 1 => v ≠ 0
  | 2 => v.toInt < 0
  | 3 => 0 ≤ v.toInt
  | 4 => 0 < v.toInt
  | 5 => v.toInt ≤ 0
  | 6 => ∀ l < 32, em.getLsbD l = true → v.getLsbD l = true
  | 7 => ∃ l < 32, em.getLsbD l = true ∧ v.getLsbD l = true
  | _ => ∀ l < 32, em.getLsbD l = true → v.getLsbD l = false

/-! ### Accesses (R147, R216) -/

/-- An access of `n` aligned bytes passes its check at the place `p`: the check finds its translation in the core's TLB and
changes nothing, whatever the rest of the group's record holds. -/
def Passes (s : State) (gid : Nat) (g : Group) (asp : Nat) (addr : Word) (n : Nat) (kind : Access) (p : Loc) : Prop :=
  checkAccess s g asp addr n n kind = (s, .ok p) ∧
    ∀ x, checkAccess (setGrp s gid x) g asp addr n n kind = (setGrp s gid x, .ok p)

/-- A place in this package that is no window's. -/
def isLocal : Loc → Bool
  | .scratch _ => true
  | .phys pa _ => !isFabric pa && !isAlias pa

/-- The same kind of place at another offset or address. -/
def placeAt : Loc → Nat → Loc
  | .scratch _, a => .scratch a
  | .phys _ d, a => .phys a d

/-- The offset or address of a place. -/
def placeOf : Loc → Nat
  | .scratch o => o
  | .phys pa _ => pa

/-- One byte of a place, as a thread of the core reads it. -/
def threadByte (s : State) (core slot : Nat) (l : Loc) : Byte := ((thrBytes s core slot l 1).2).headD 0

/-- An access to the place brings no line into the core's L1: it bypasses L1, or its line is held under the slot. -/
abbrev NoFill (s : State) (core slot : Nat) : Loc → Prop
  | .scratch _ => True
  | .phys pa d => cached pa d = true → ∃ x, SMap.find? (coreOf s core).l1 (pa / 128) = some x ∧ x.slot = slot

/-- The place's die, links, ports and line allow an access (R184, R186, R190, R193, R131). -/
def reachable (s : State) (g : Group) : Loc → Bool
  | .scratch _ => true
  | .phys pa _ => (fabricReason s g.core g.ctx pa).isNone && !linkWaits s (coreDie g.core) pa && !badLine s pa

/-- The load queue has room in hardware for `n` more entries within the slip limit (R86, R87). -/
abbrev LqRoom (s : State) (g : Group) (n : Nat) : Prop :=
  g.hold = [] ∧ ringCount s g = 0 ∧ g.lq.length + n ≤ 64 ∧ g.lq.length + n ≤ (hdrOf s g.kern).slip

/-- No earlier access of the group to the bytes is still to be performed, and no fence holds the access back (R216, R218). -/
abbrev InOrder (s : State) (g : Group) (l : Loc) (n : Nat) : Prop :=
  g.fences = [] ∧ overlapsSaq s g g.seq l n = false ∧ loadsBefore g g.seq l n = false

/-- A barrier address passes its check at the home `l`, and neither the group's program order nor a link that is RETRAINING holds
the access back (R93, R186, R216, R218). -/
abbrev BarReady (s : State) (gid : Nat) (g : Group) (asp : Nat) (addr : Word) (l : Loc) : Prop :=
  g.fences = [] ∧ checkBarrier s g asp addr = (s, .ok l) ∧ homeBusy s gid l = false ∧ overlapsLoads g l 32 = false ∧ homeHeld s g.core l = false ∧
    ∀ e ∈ g.saq, ∀ i < 32, e.mask.getLsbD i = true → ∀ y, saqLoc s g e i = some y → locsOverlap y e.size l 32 = false

/-- A release fence of the group at a scope would be in force at once (R218). -/
abbrev ReleaseReady (s : State) (gid : Nat) (g : Group) (scope : Nat) : Prop :=
  g.fences = [] ∧ fenceReady s gid g { acq := false, rel := true, scope := scope, stamp := g.seq } = true

/-! ### Mailboxes (R165 to R167) -/

/-- The reply area of a mailbox. -/
def boxReply (b : Mailbox) : List Byte := (List.range 256).map fun i => SMap.get b.bytes 0 (256 + i)

/-- The requester's mailbox holds this reply and is free again, and the requester is told. -/
def Replied (t : State) (who : Requester) (id status flags : Nat) (results : List Byte) : Prop :=
  boxReply (boxOf t who) = natToBytes 8 id ++ natToBytes 2 status ++ natToBytes 1 flags ++ List.replicate 5 0 ++ padTo 240 results
    ∧ (boxOf t who).done = true ∧ (boxOf t who).busy = false ∧ (who, Irq.mailbox) ∈ t.irqs

/-- A command that changes nothing but its mailbox and the journal. -/
def Untouched (s t : State) : Prop :=
  t.ctxs = s.ctxs ∧ t.parts = s.parts ∧ t.groups = s.groups ∧ t.kernels = s.kernels ∧ t.mem = s.mem ∧ t.damask = s.damask
    ∧ t.keys = s.keys

end Sys2Proof.Machine
end

