-- ==== Sys2Proof/Certificates/Slice0/Obligations.lean ====
section
/-! DEFINITION. The statements for the provers. -/

open Sys2Proof Sys2Proof.Machine

/-! ### Steps, words, reset and invariants (R10, R252 to R267, R406) -/

/-- A step runs the decoded instruction: when the next turn is a stream's, that stream is the one to issue (no other ready group
of the core issued less recently, R47), and the bytes at its place decode, the step is exec of that instruction in the state in
which the stream has issued; a turn of an event that can take place is exec of the event. -/
def Obligations.StepRunsDecoded : Prop :=
  ∀ (s : State) (x : Turn) (rest : List Turn), nextTurn s = (some x, rest) →
    let s0 := passTime s x.dt rest
    (∀ gid g k s1 w i, x.move = .a gid → grp? s0 gid = some g → kern? s0 g.kern = some k → canIssue g = true →
      turnA s0 gid g = true → inACode k g.pc = true → fetchBytes s0 g g.pc 4 = (s1, .ok w) → decodeA (BitVec.ofNat 32 w) = .ok i →
      step s = exec i (actA s1 gid))
    ∧ (∀ gid g k p s1 w i, x.move = .c gid → grp? s0 gid = some g → kern? s0 g.kern = some k → canIssueC g = true →
      turnC s0 gid g = true → (g.cpos = none → spillHolds s0 gid = false) → (startBlock g).cpos = some p →
      12 * p.idx + 12 ≤ k.hdr.clen → fetchWordC (setGrp s0 gid (startBlock g)) (startBlock g) k p = (s1, .ok w) →
      decodeC (BitVec.ofNat 96 w) = .ok i → step s = exec i (actC s1 gid))
    ∧ (∀ n y p w i, x.move = .odnar n → inst? s0 n = some y → plan? s0 y.plan = some p → p.prog[y.pc]? = some w →
      decodeO w = .ok i → step s = exec i { s0 with cur := .damask n })
    ∧ (∀ i, x.move = .ev i → takesPlace s0 i = true → step s = exec i s0)

/-- Words that the spec itself encodes (11_encoding, the worked kernel and its table; 16_collectives, the branches of the
example plan), and the words it says name no instruction. -/
def Obligations.DecodesSpecWords : Prop :=
  (∀ x ∈ ([(0xC0000000, .sp 0), (0x04300002, .addi 3 0 2), (0x71004200, .ld 4 0 false 1 2 0), (0x64000000, .disp 0),
      (0x00304280, .add 3 1 2 true), (0x04503FFD, .addi 5 0 (-3)), (0x7100C504, .ld 4 0 false 3 5 4),
      (0x4C47FFFD, .bcc 1 7 (-3)), (0x00000000, .add 0 0 0 false), (0xE0000000, .fret)] : List (Nat × Instr)),
    decodeTableWord 32 x.1 = some x.2)
  ∧ decodeTableWord 32 0x3400000E = none
  ∧ decodeTableWord 96 0x2000000200803001803F8000 = some (.vfadd { zeroC with dk := 2, ak := 2, bk := 3, ty := 6, imm := 0x3F8000 })
  ∧ decodeTableWord 96 0x010000000000000000000000 = some (.end_ zeroC)
  ∧ decodeTableWord 96 0x23418C100100804180000000 =
    some (.vfma { zeroC with stall := 4, msel := 3, mreg := 3, d := 4, a := 1, b := 2, c := 4, ty := 6 })
  ∧ ∀ x ∈ ([(0x0D00000000000000, .waitWin zeroO), (0x0C00000000200010, .scalex { zeroO with imm := 0x200010 }),
      (0x013000FFFFFFFFFF, .setg { zeroO with d := 3, imm := -1 }), (0x0321030000000002, .peer { zeroO with d := 2, a := 1, f := 3, imm := 2 }),
      (0x1202300000000004, .brg { zeroO with a := 2, b := 3, imm := 4 }), (0x0A02000000000020, .combine { zeroO with a := 2, imm := 32 }),
      (0x120006FFFFFFFFFC, .brg { zeroO with f := 6, imm := -4 }), (0x0340020000000002, .peer { zeroO with d := 4, f := 2, imm := 2 }),
      (0x1500000000000000, .ackw zeroO)] : List (Nat × Instr)), decodeTableWord 64 x.1 = some x.2

/-- Decode and encode agree: the word of every well-formed instruction of the three streams decodes to it, as a word and from
its bytes, whatever follows them. -/
def Obligations.DecodeEncodeAgree : Prop :=
  ∀ (i : Instr) (rest : List Byte), i.wf = true →
    (∀ w, encodeC i = some w → decodeC w = .ok i ∧ decodeCBytes (encodeBytes i ++ rest) = .ok (i, rest))
    ∧ (∀ w, encodeO i = some w → decodeO w = .ok i ∧ decodeOBytes (encodeBytes i ++ rest) = .ok (i, rest))
    ∧ (encodeC i = none → encodeO i = none → encodeA i ≠ 0 ∨ i = .add 0 0 0 false →
      decodeA (encodeA i) = .ok i ∧ decodeABytes (encodeBytes i ++ rest) = .ok (i, rest))

/-- After reset (R83, R84, R118, R155, R162, R173, R191, R193, R406) no group, kernel, graph or context exists, no partition
hosts, every queue is disabled and empty, no migration runs, the links are down with MINLANES 8, the package ID is 0, no route is
valid, no plan is loaded, the mailboxes are closed, and the memory has its canonical form. What memory and the registers that the
spec gives no reset value hold is the model's choice (logs 5 and 8), and nothing here rests on it. -/
def Obligations.ResetState : Prop :=
  let s := State.reset
  Canonical s ∧ (∀ n, grp? s n = none ∧ kern? s n = none ∧ SMap.find? s.graphs n = none ∧ SMap.find? s.ctxs n = none
    ∧ (partOf s n).hosting = 0 ∧ plan? s n = none ∧ inst? s n = none)
  ∧ (∀ n, let q := queueOf s n
      q.en = false ∧ q.pull = false ∧ q.prio = 0 ∧ q.ctx = 0 ∧ queueState q = 4 ∧ q.quota = 0 ∧ q.res = [] ∧ q.spilled = 0
      ∧ q.refused = 0 ∧ q.lateCnt = 0 ∧ q.badbar = false ∧ q.badwr = false ∧ q.malf = false ∧ q.refq = false ∧ q.refd = false)
  ∧ (∀ n, let m := migrOf s n
      m.state = 0 ∧ m.ctx = 0 ∧ m.size = 0 ∧ m.bar = 0)
  ∧ (∀ n, let l := linkOf s n
      l.state = .down ∧ l.lanes = 0 ∧ l.naks = 0 ∧ l.minLanes = 8)
  ∧ (∀ c, (coreOf s c).split = (8, 8, 4)) ∧ s.fabric.pkgId = 0 ∧ (∀ p, (SMap.get s.fabric.routes 0 p).getLsbD 63 = false)
  ∧ s.imqua.booted = false ∧ ∀ who, boxOpen s who = false

/-- Every step that answers a next state keeps the memory's canonical form, and the state after reset has it
(ResetState). -/
def Obligations.StepKeepsCanonical : Prop := StepKeeps Canonical

/-- The frame of the A-instructions on memory, engines, barriers, order, queues, safe points and control registers, outside a
handler: whatever a step of one of them does (complete, wait, block or take a fault), a group that is still there has every
vector, address, k- and x-register as before, and every s-register but the destination. -/
def Obligations.RegisterFrame : Prop :=
  ∀ (s : State) (gid : Nat) (g : Group) (k : Kernel) (d a b : BitVec 6) (w : Bool) (imm : BitVec 14) (ty aop cc : BitVec 4)
    (asp kind : BitVec 2) (sc at_ : BitVec 3) (aa kd : BitVec 5) (off : BitVec 8) (o16 idx : BitVec 16) (o26 : BitVec 26),
    Acts s gid g k → inHandler g = false →
    ∀ x ∈ ([(.lds d a imm, [d]), (.ldsw d a imm, [d]), (.sts d a imm, []), (.ld ty asp w aa b off, []), (.ldf ty w aa b, []),
        (.st ty asp w aa b off, []), (.atom aop asp sc aa b at_ w, []), (.atoms aop sc d a b, [d]), (.pref ty asp w aa b off, []),
        (.cpy d a, [d]), (.cpysp d a, [d]), (.gath d a, [d]), (.scat d a, [d]), (.spillb d a, [d]), (.filla d a, [d]),
        (.binit asp a b, []), (.barrive w asp d a b, [d]), (.bexpect asp a b, []), (.bwait asp a b, []), (.btest asp d a b, [d]),
        (.bstat asp d a b, [d]), (.fence kind sc, []), (.drainnt, []), (.mon a, []), (.mwait, []), (.enq d a b, [d]),
        (.deq d a, [d, d + 1, d + 2, d + 3, d + 4, d + 5, d + 6, d + 7]), (.gstart d a b, [d]), (.gsig d a b, [d]), (.sp idx, []),
        (.yield, []), (.trap a, []), (.brk, []), (.tstop, []), (.csrr d b, [d]), (.csrw a b, []), (.disp o26, []), (.kput kd a, []),
        (.xpop d, [d]), (.xpeek d, [d]), (.loopd a o16, [a]), (.bxq cc o16, []), (.bcc cc a o16, []), (.jr a, []), (.callr a, [63]),
        (.call o26, [63])] : List (Instr × List (BitVec 6))),
      ∀ t g', exec x.1 s = .next t → grp? t gid = some g' →
        g'.a = g.a ∧ g'.v = g.v ∧ g'.k = g.k ∧ g'.x = g.x ∧ g'.present = g.present ∧
          ∀ n, n < 64 → (BitVec.ofNat 6 n) ∉ x.2 → sReg g' n = sReg g n

/-- s0, k0 and g0 (R10): they read as zero in every mode, and a write to one changes nothing: outside a handler, an instruction
whose result goes to s0 leaves the group as it was but for its place. h0 is an ordinary register (R259). -/
def Obligations.ZeroRegisters : Prop :=
  ∀ (s : State) (gid : Nat) (g : Group) (x : Inst) (v : Word),
    sReg g 0 = 0 ∧ kReg g 0 = 0 ∧ gReg x 0 = 0 ∧ wk g 0 v = g ∧ wg x 0 v = x
    ∧ (inHandler g = false → rs g 0 = 0 ∧ ws g 0 v = g ∧ wrote s gid g 0 v = setGrp s gid (advance g))
    ∧ (inHandler g = true → rs (ws g 0 v) 0 = v ∧ (ws g 0 v).s = g.s)

/-! ### Scalar and vector-address arithmetic (R258, R274 to R278) -/

/-- The two-operand arithmetic and compare instructions of R274 write their exact result at the width that .w selects, with
the edge cases of R258, and go on to the next word. -/
def Obligations.ArithmeticResults : Prop :=
  ∀ (s : State) (gid : Nat) (g : Group) (k : Kernel) (d a b : BitVec 6) (w : Bool),
    let n := wBits w
    let x : Nat := uAt n (rs g a)
    let y : Nat := uAt n (rs g b)
    let i : Int := sAt n (rs g a)
    let j : Int := sAt n (rs g b)
    ∀ p ∈ ([(.add d a b w, (x : Int) + y), (.sub d a b w, (x : Int) - y), (.mul d a b w, (x : Int) * y),
        (.mulh d a b w, i * j / 2 ^ n), (.mulhn d a b w, (x : Int) * y / 2 ^ n),
        (.div d a b w, if y = 0 then -1 else i.tdiv j), (.divn d a b w, if y = 0 then -1 else (x : Int) / y),
        (.rem d a b w, if y = 0 then i else i.tmod j), (.remn d a b w, if y = 0 then (x : Int) else (x : Int) % y),
        (.min d a b w, Min.min i j), (.max d a b w, Max.max i j),
        (.minn d a b w, Min.min (x : Int) y), (.maxn d a b w, Max.max (x : Int) y),
        (.slt d a b w, flag (i < j)), (.sltn d a b w, flag (x < y)), (.seq d a b w, flag (x = y))] : List (Instr × Int)),
      IssuesA p.1 s gid g k → exec p.1 s = .next (wrote s gid g d (fromExact n p.2))

/-- The bitwise, shift, rotate and counting instructions of R274, bit by bit at the width that .w selects; the shift amount
is bits 5:0 of the second operand, or 4:0 with .w (R258). -/
def Obligations.BitResults : Prop :=
  ∀ (s : State) (gid : Nat) (g : Group) (k : Kernel) (d a b : BitVec 6) (w : Bool),
    let n := wBits w
    let x := (rs g a).getLsbD
    let y := (rs g b).getLsbD
    let m := (rs g b).toNat % n
    let u := uAt n (rs g a)
    ∀ p ∈ ([(.and_ d a b w, fun v => ∀ i < n, v.getLsbD i = (x i && y i)),
        (.or_ d a b w, fun v => ∀ i < n, v.getLsbD i = (x i || y i)),
        (.xor d a b w, fun v => ∀ i < n, v.getLsbD i = (x i ^^ y i)),
        (.andn d a b w, fun v => ∀ i < n, v.getLsbD i = (x i && !y i)),
        (.shl d a b w, fun v => ∀ i < n, v.getLsbD i = (decide (m ≤ i) && x (i - m))),
        (.shr d a b w, fun v => ∀ i < n, v.getLsbD i = (decide (i + m < n) && x (i + m))),
        (.sar d a b w, fun v => ∀ i < n, v.getLsbD i = if i + m < n then x (i + m) else x (n - 1)),
        (.rol d a b w, fun v => ∀ i < n, v.getLsbD ((i + m) % n) = x i),
        (.brev d a w, fun v => ∀ i < n, v.getLsbD i = x (n - 1 - i)),
        (.popc d a w, fun v => v.toNat = ((List.range n).map fun i => u / 2 ^ i % 2).sum),
        (.clz d a w, fun v => v.toNat ≤ n ∧ u < 2 ^ (n - v.toNat) ∧ (v.toNat < n → 2 ^ (n - 1 - v.toNat) ≤ u)),
        (.ctz d a w, fun v => v.toNat ≤ n ∧ u % 2 ^ v.toNat = 0 ∧ (v.toNat < n → u / 2 ^ v.toNat % 2 = 1))] :
        List (Instr × (Word → Prop))),
      IssuesA p.1 s gid g k →
        ∃ v, exec p.1 s = .next (wrote s gid g d v) ∧ p.2 v ∧ (w = true → v = (v.truncate 32).signExtend 64)

/-- The immediate forms, LUI and AUIPC (R275, R276).

The exec-mask instructions (R277): every value written to em is ANDed with the present mask. -/
def Obligations.ImmediateAndMaskResults : Prop :=
  (∀ (s : State) (gid : Nat) (g : Group) (k : Kernel) (d a amt : BitVec 6) (imm : BitVec 14) (up : BitVec 20),
    let x := rs g a
    let v : Int := imm.toInt
    let m := amt.toNat
    ∀ p ∈ ([(.addi d a imm, BitVec.ofInt 64 (x.toInt + v)), (.andi d a imm, x &&& BitVec.ofInt 64 v),
        (.ori d a imm, x ||| BitVec.ofInt 64 v), (.xori d a imm, x ^^^ BitVec.ofInt 64 v),
        (.shli d a amt, BitVec.ofNat 64 (x.toNat * 2 ^ m)), (.shri d a amt, BitVec.ofNat 64 (x.toNat / 2 ^ m)),
        (.sari d a amt, BitVec.ofInt 64 (x.toInt / 2 ^ m)), (.slti d a imm, BitVec.ofInt 64 (flag (x.toInt < v))),
        (.seqi d a imm, BitVec.ofInt 64 (flag (x.toInt = v))), (.lui d up, BitVec.ofInt 64 (up.toInt * 2 ^ 14)),
        (.auipc d up, BitVec.ofInt 64 (g.pc.toInt + up.toInt * 2 ^ 14))] : List (Instr × Word)),
      IssuesA p.1 s gid g k → exec p.1 s = .next (wrote s gid g d p.2))
  ∧
  (∀ (s : State) (gid : Nat) (g : Group) (k : Kernel) (d a : BitVec 6),
    let low : BitVec 32 := (rs g a).truncate 32
    (∀ p ∈ ([(.emset a, low &&& g.present), (.emand a, g.em &&& low &&& g.present),
        (.emandn a, g.em &&& ~~~low &&& g.present), (.emor a, (g.em ||| low) &&& g.present)] : List (Instr × BitVec 32)),
      IssuesA p.1 s gid g k → exec p.1 s = .next (setGrp s gid (advance { g with em := p.2 })))
    ∧ (IssuesA (.emget d) s gid g k → exec (.emget d) s = .next (wrote s gid g d (g.em.zeroExtend 64))))

/-- The address-vector instructions that write an a-register (R278): exactly the lanes in em of the destination receive the
row's value, computed from the registers before the instruction, once no FILLA owes one of the registers it names (R349).

VAEXT, VAINS, VALTM and VAEQM (R278): VAEXT reads a lane whatever em holds, VAINS writes one lane when it is in em, and
the compares give the mask of the lanes of em for which they hold. -/
def Obligations.VectorResults : Prop :=
  (∀ (s : State) (gid : Nat) (g : Group) (k : Kernel) (d a b : BitVec 5) (x y : BitVec 6),
    let A : Nat → Word := fun l => aReg g a.toNat l
    ∀ p ∈ ([(.vaadd d a b, fun l => A l + aReg g b.toNat l), (.vaadds d a y, fun l => A l + rs g y),
        (.vasub d a b, fun l => A l - aReg g b.toNat l), (.vamuls d a y, fun l => A l * rs g y),
        (.vamads d a y, fun l => aReg g d.toNat l + A l * rs g y),
        (.vashls d a y, fun l => BitVec.ofNat 64 ((A l).toNat * 2 ^ ((rs g y).toNat % 64))),
        (.vashrs d a y, fun l => BitVec.ofNat 64 ((A l).toNat / 2 ^ ((rs g y).toNat % 64))),
        (.vaands d a y, fun l => A l &&& rs g y), (.vaiota d x y, fun l => rs g x + BitVec.ofNat 64 l * rs g y),
        (.vamovs d x, fun _ => rs g x)] : List (Instr × (Nat → Word))),
      IssuesA p.1 s gid g k → (aNames p.1).any (fillPending s gid) = false →
        ∃ g', exec p.1 s = .next (setGrp s gid (advance g')) ∧ g' = { g with a := g'.a } ∧
          ∀ n l, l < 32 → aReg g' n l = if n = d.toNat ∧ g.em.getLsbD l = true then p.2 l else aReg g n l)
  ∧
  (∀ (s : State) (gid : Nat) (g : Group) (k : Kernel) (d a b : BitVec 5) (x y z : BitVec 6),
    let j := (rs g z).toNat % 32
    (IssuesA (.vaext x a z) s gid g k → fillPending s gid a.toNat = false →
      exec (.vaext x a z) s = .next (wrote s gid g x (aReg g a.toNat j)))
    ∧ (IssuesA (.vains d y z) s gid g k → fillPending s gid d.toNat = false →
      exec (.vains d y z) s = .next (setGrp s gid (advance (if g.em.getLsbD j then wa g d.toNat j (rs g y) else g))))
    ∧ (∀ p ∈ ([(.valtm x a b, fun l => (aReg g a.toNat l).slt (aReg g b.toNat l)),
        (.vaeqm x a b, fun l => aReg g a.toNat l == aReg g b.toNat l)] : List (Instr × (Nat → Bool))),
      IssuesA p.1 s gid g k → fillPending s gid a.toNat = false → fillPending s gid b.toNat = false →
        ∃ v, exec p.1 s = .next (wrote s gid g x v) ∧ ∀ l, v.getLsbD l = (decide (l < 32) && g.em.getLsbD l && p.2 l)))

/-! ### Control flow, dispatch and the crossing queue (R279 to R289) -/

/-- J, CALL, JR, CALLR (R279): where they go and the link; the register forms complete on a target that is a multiple of 4,
and CALLR reads its register before it writes the link.

Bcc, LOOPD and BXQ (R280 to R282): they branch exactly when their test holds; LOOPD tests the register it has counted
down, BXQ the XQ head it pops. -/
def Obligations.JumpAndBranchResults : Prop :=
  (∀ (s : State) (gid : Nat) (g : Group) (k : Kernel) (a : BitVec 6) (off : BitVec 26),
    (IssuesA (.j off) s gid g k → exec (.j off) s = .next (setGrp s gid (jump g (relTarget g.pc off))))
    ∧ (IssuesA (.call off) s gid g k →
      exec (.call off) s = .next (setGrp s gid (jump (link g (g.pc + 4)) (relTarget g.pc off))))
    ∧ ((rs g a).toNat % 4 = 0 →
      (IssuesA (.jr a) s gid g k → exec (.jr a) s = .next (setGrp s gid (jump g (rs g a))))
      ∧ (IssuesA (.callr a) s gid g k → exec (.callr a) s = .next (setGrp s gid (jump (link g (g.pc + 4)) (rs g a))))))
  ∧
  (∀ (s : State) (gid : Nat) (g : Group) (k : Kernel) (cc : BitVec 4) (a : BitVec 6) (off : BitVec 16),
    let taken := relTarget g.pc off
    let next := g.pc + 4
    (IssuesA (.bcc cc a off) s gid g k →
      (ccTest cc.toNat (rs g a) g.em → exec (.bcc cc a off) s = .next (setGrp s gid (jump g taken)))
      ∧ (¬ ccTest cc.toNat (rs g a) g.em → exec (.bcc cc a off) s = .next (setGrp s gid (jump g next))))
    ∧ (IssuesA (.loopd a off) s gid g k →
      exec (.loopd a off) s = .next (setGrp s gid (jump (ws g a (rs g a - 1)) (if rs g a = 1 then next else taken))))
    ∧ (∀ v rest, g.xq = v :: rest → IssuesA (.bxq cc off) s gid g k →
      (ccTest cc.toNat v g.em → exec (.bxq cc off) s = .next (setGrp s gid (jump { g with xq := rest } taken)))
      ∧ (¬ ccTest cc.toNat v g.em → exec (.bxq cc off) s = .next (setGrp s gid (jump { g with xq := rest } next)))))

/-- KPUT, XPOP, XPEEK and DISP (R26, R287 to R289): KPUT stages or replaces one register's value, XPOP and XPEEK give the XQ
head, and DISP pushes a BQ entry with the staged payloads and a snapshot of em once its block's pages translate.

BRS (R284): which lanes stay and where they go on, under each policy, once the C-stream is idle and the ring has room. -/
def Obligations.QueueAndSplitResults : Prop :=
  (∀ (s : State) (gid : Nat) (g : Group) (k : Kernel) (kd : BitVec 5) (d a : BitVec 6) (off : BitVec 26),
    (IssuesA (.kput kd a) s gid g k →
      (kd = 0 → exec (.kput kd a) s = .next (setGrp s gid (advance g)))
      ∧ (kd ≠ 0 → (g.kput.any (fun e => e.1 = kd.toNat) = true ∧ g.kput.length ≤ 8 ∨ g.kput.length < 8) →
        ∃ p, exec (.kput kd a) s = .next (setGrp s gid (advance { g with kput := p })) ∧ (kd.toNat, rs g a) ∈ p
          ∧ (∀ v, (kd.toNat, v) ∈ p → v = rs g a) ∧ ∀ e, e.1 ≠ kd.toNat → (e ∈ p ↔ e ∈ g.kput)))
    ∧ (∀ v rest, g.xq = v :: rest →
      (IssuesA (.xpop d) s gid g k → exec (.xpop d) s = .next (wrote s gid { g with xq := rest } d v))
      ∧ (IssuesA (.xpeek d) s gid g k → exec (.xpeek d) s = .next (wrote s gid g d v)))
    ∧ (IssuesA (.disp off) s gid g k → g.bq.length < 32 → ∀ s1,
      ∀ code, dispPages s g (cBase k + BitVec.ofNat 64 (12 * off.toNat)) (blockPages k off.toNat) = (s1, .ok code) →
      ∃ t, exec (.disp off) s = .next t ∧ grp? t gid = (grp? s1 gid).map fun x =>
        advance { x with bq := x.bq ++ [{ block := off.toNat, payload := x.kput, snap := x.em, code := code }], kput := [] }))
  ∧
  (∀ (s : State) (gid : Nat) (g : Group) (k : Kernel) (policy : BitVec 2) (m : BitVec 6) (off : BitVec 16) (sp : BitVec 16),
    let T := (rs g m).truncate 32 &&& g.em
    let N := g.em &&& ~~~T
    let keepT : Bool := policy = 2 ∨ (policy = 0 ∧ popc 32 N.toNat ≤ popc 32 T.toNat)
    IssuesA (.brs policy m off) s gid g k → spawnSp k g = some sp → cIdle g = true → regsOwed s gid g = false →
      structOut s g true = none → 32 ≤ freeRecs s g.ctx →
      ∃ t g', exec (.brs policy m off) s = .next t ∧ grp? t gid = some g' ∧ g'.em = (if keepT then T else N)
        ∧ g'.present = g.present &&& ~~~(if keepT then N else T) ∧ g'.pc = (if keepT then relTarget g.pc off else g.pc + 4)
        ∧ g'.s = g.s ∧ g'.a = g.a ∧ g'.v = g.v ∧ g'.k = g.k ∧ g'.lastSp = none)

/-- BRX, JOIN and ENDS (R62, R63, R285): BRX keeps the lanes of the most frequent index and goes to its table entry; JOIN
goes on once no spawned lane is out; ENDS retires the group, which is then gone. -/
def Obligations.SpawnJoinEnd : Prop :=
  ∀ (s : State) (gid : Nat) (g : Group) (k : Kernel) (aa : BitVec 5) (base len : BitVec 6) (sp : BitVec 16),
    cIdle g = true → regsOwed s gid g = false →
    (IssuesA (.brx aa base len) s gid g k → spawnSp k g = some sp → fillPending s gid aa.toNat = false →
      (∀ l < 32, g.em.getLsbD l = true → (aReg g aa.toNat l).toNat < (rs g len).toNat) →
      (g.em = 0 → exec (.brx aa base len) s = .next (setGrp s gid (jump g (g.pc + 4))))
      ∧ (g.em ≠ 0 → ∀ s1 ts,
        let js := sortNats ((lanesOf g.em).map fun l => (aReg g aa.toNat l).toNat)
        readTable s gid g (rs g base) js = (s1, .got ts) → structOut s1 g true = none → 32 ≤ freeRecs s1 g.ctx →
        regsOwed s1 gid g = false →
        ∃ t g', exec (.brx aa base len) s = .next t ∧ grp? t gid = some g' ∧ ∃ keep ∈ js,
          g'.em = lanesAt g aa.toNat keep ∧ (keep, g'.pc) ∈ ts
          ∧ ∀ j ∈ js, popc 32 (lanesAt g aa.toNat j).toNat ≤ popc 32 (lanesAt g aa.toNat keep).toNat))
    ∧ (IssuesA .join s gid g k → structOut s g true = none → spawns s g = 0 →
      ∃ t g', exec .join s = .next t ∧ grp? t gid = some g' ∧ g'.pc = g.pc + 4 ∧ g'.lastSp = none)
    ∧ (IssuesA .ends s gid g k → structOut s g g.spawned = none → spawns s g = 0 → storesDone s gid g = true → g.mops = [] → g.batches = [] →
      ∃ t, exec .ends s = .next t ∧ grp? t gid = none)

/-! ### Memory issue (R290 to R301) -/

/-- LD and LDF (R86, R292, R293): with room in the load queue, and with every lane of em passing its check, they reserve the
entries of their type, go on, and write no memory, no cache and no other group. -/
def Obligations.LoadsReserveEntries : Prop :=
  ∀ (s : State) (gid : Nat) (g : Group) (k : Kernel) (ty : BitVec 4) (asp : BitVec 2) (nt : Bool) (aa : BitVec 5)
    (sb : BitVec 6) (off : BitVec 8), (aa = 31 ∨ fillPending s gid aa.toNat = false) →
    let issued (i : Instr) (n : Nat) : Prop := ∃ t g', exec i s = .next t ∧ grp? t gid = some g' ∧ g'.pc = g.pc + 4
      ∧ g'.lq.length = g.lq.length + n ∧ g'.resv = g.resv + n ∧ g'.s = g.s ∧ g'.a = g.a ∧ g'.v = g.v ∧ g'.em = g.em
      ∧ t.mem = s.mem ∧ t.cores = s.cores ∧ ∀ j, j ≠ gid → grp? t j = grp? s j
    (let n := tyEntries ty.toNat
      let sz := tySize ty.toNat
      IssuesA (.ld ty asp nt aa sb off) s gid g k → LqRoom s g n →
      (∀ l, g.em.getLsbD l = true → ∃ p, isLocal p = true ∧
        Passes s gid g asp.toNat (eaAM g aa sb (BitVec.ofInt 64 (off.toInt * sz)) l) sz .read p) →
      issued (.ld ty asp nt aa sb off) n)
    ∧ (IssuesA (.ldf ty nt aa sb) s gid g k → LqRoom s g 1 →
      (∀ l, g.em.getLsbD l = true → ∃ acc : LaneAcc, (acc.parts.all fun p => isLocal p.1) = true ∧
        ∀ x, ldfLane (setGrp s gid x) g (hdrOf s g.kern).fmask (rs g sb) (if aa = 31 then 0 else aReg g aa.toNat l)
          = (setGrp s gid x, .ok acc)) →
      issued (.ldf ty nt aa sb) 1)

/-- LDA (R294): it blocks until its data has arrived, then writes the arrived lanes of its a-register and goes on; with em
zero it only goes on.

LDS and LDSW (R295): a checked local place that no earlier access of the group holds back is read in the thread's view,
and S[d] receives the 8 bytes, or the 4 bytes sign-extended. -/
def Obligations.BlockingLoadResults : Prop :=
  (∀ (s : State) (gid : Nat) (g : Group) (k : Kernel) (ty : BitVec 4) (asp : BitVec 2) (nt : Bool) (aa : BitVec 5)
    (sb : BitVec 6) (d : BitVec 5), inHandler g = false → IssuesA (.lda ty asp nt aa sb d) s gid g k →
    let i := Instr.lda ty asp nt aa sb d
    (g.ldaDone = true → SMap.sorted g.ldaVal = true → (∀ e ∈ g.ldaVal, e.1 < 32) →
      ∃ t g', exec i s = .next t ∧ grp? t gid = some g' ∧ g'.pc = g.pc + 4 ∧ ∀ n l, l < 32 →
        aReg g' n l = if n = d.toNat then (SMap.find? g.ldaVal l).getD (aReg g n l) else aReg g n l)
    ∧ (g.ldaDone = false → ldaOut g = false → fillPending s gid d.toNat = false →
      (aa = 31 ∨ fillPending s gid aa.toNat = false) →
      (g.em = 0 → exec i s = .next (setGrp s gid (advance g)))
      ∧ (g.em ≠ 0 → g.stop = none → (∀ l, g.em.getLsbD l = true → ∃ p, isLocal p = true ∧
          Passes s gid g asp.toNat (eaAM g aa sb 0 l) (tySize ty.toNat) .read p) →
        ∃ t g', exec i s = .next t ∧ grp? t gid = some g' ∧ g'.pc = g.pc ∧ g'.wake = some .lda
          ∧ g'.st = if g.yreq then .yielding else .blocked)))
  ∧
  (∀ (s : State) (gid : Nat) (g : Group) (k : Kernel) (d a : BitVec 6) (imm : BitVec 14) (p : Loc),
    let addr := rs g a + BitVec.ofInt 64 imm.toInt
    isLocal p = true → reachable s g p = true →
    ∀ e ∈ ([(.lds d a imm, 8, fun v => BitVec.ofNat 64 v),
        (.ldsw d a imm, 4, fun v => BitVec.ofInt 64 (BitVec.ofNat 32 v).toInt)] : List (Instr × Nat × (Nat → Word))),
      IssuesA e.1 s gid g k → InOrder s g p e.2.1 → Passes s gid g 0 addr e.2.1 .read p →
        let r := thrNat s g.core (slotOf s g.ctx) p e.2.1
        exec e.1 s = .next (modGrp r.1 gid fun x => advance (ws { x with rval := [], rbad := none } d (e.2.2 r.2))))

/-- ST and ATOM (R296, R298): with room in their queues and every lane of em passing its check, they put their addresses
into the SAQ and go on; a fetching ATOM reserves its LQ entries. No memory changes before the data is paired.

STS (R297): with the SAQ empty, its eight bytes are in memory when it has completed, and every other byte of the same
kind of place reads as before. The place is the one its check gives for S[a] + imm. -/
def Obligations.StoreResults : Prop :=
  (∀ (s : State) (gid : Nat) (g : Group) (k : Kernel) (ty aop : BitVec 4) (asp : BitVec 2) (nt : Bool) (sc : BitVec 3)
    (aa : BitVec 5) (sb : BitVec 6) (off : BitVec 8) (at_ : BitVec 3) (rv : Bool), g.atomRes = none →
    let queued (i : Instr) (n m : Nat) : Prop := ∃ t g', exec i s = .next t ∧ grp? t gid = some g' ∧ g'.pc = g.pc + 4
      ∧ g'.saq.length = g.saq.length + n ∧ (∀ e ∈ g'.saq.drop g.saq.length, e.mask = g.em)
      ∧ g'.lq.length = g.lq.length + m ∧ g'.s = g.s ∧ g'.a = g.a ∧ g'.v = g.v ∧ g'.em = g.em
      ∧ t.mem = s.mem ∧ t.cores = s.cores ∧ ∀ j, j ≠ gid → grp? t j = grp? s j
    (let n := tyEntries ty.toNat
      let sz := tySize ty.toNat
      IssuesA (.st ty asp nt aa sb off) s gid g k → (aa = 31 ∨ fillPending s gid aa.toNat = false) →
      g.saq.length + n ≤ 32 →
      (∀ l, g.em.getLsbD l = true → ∃ p, isLocal p = true ∧
        Passes s gid g asp.toNat (eaAM g aa sb (BitVec.ofInt 64 (off.toInt * sz)) l) sz .write p) →
      queued (.st ty asp nt aa sb off) n 0)
    ∧ (let w := if at_ = 0 then 4 else 8
      let n := (if aop = 9 then 2 else 1) * (w / 4)
      let m := if rv then w / 4 else 0
      IssuesA (.atom aop asp sc aa sb at_ rv) s gid g k → fillPending s gid aa.toNat = false → g.saq.length + n ≤ 32 →
      (rv = true → LqRoom s g m) →
      (∀ l, g.em.getLsbD l = true → ∃ p, isLocal p = true ∧ Passes s gid g asp.toNat (eaAA g aa sb l) w .atomic p) →
      queued (.atom aop asp sc aa sb at_ rv) n m))
  ∧
  (∀ (s : State) (gid : Nat) (g : Group) (k : Kernel) (d a : BitVec 6) (imm : BitVec 14) (p : Loc),
    let slot := slotOf s g.ctx
    IssuesA (.sts d a imm) s gid g k → g.saq = [] → InOrder s g p 8 → isLocal p = true →
    reachable s g p = true → NoFill s g.core slot p →
    Passes s gid g 0 (rs g a + BitVec.ofInt 64 imm.toInt) 8 .write p → placeOf p % 8 = 0 →
      ∃ t g', exec (.sts d a imm) s = .next t ∧ grp? t gid = some g' ∧ g'.pc = g.pc + 4 ∧ g'.s = g.s ∧ g'.a = g.a
        ∧ g'.v = g.v ∧ g'.k = g.k
        ∧ (∀ j, j < 8 → threadByte t g.core slot (placeAt p (placeOf p + j)) = (rs g d).extractLsb' (8 * j) 8)
        ∧ ∀ b, (b < placeOf p ∨ placeOf p + 8 ≤ b) → NoFill s g.core slot (placeAt p b) →
            threadByte t g.core slot (placeAt p b) = threadByte s g.core slot (placeAt p b))

/-- ATOMS (R300): a checked local place is read and changed in one act, S[d] receives the value read, and the operation is
one 64-bit one, or a 32-bit one for the floating-point operations.

The integer atomic operations of R299 on `w` bytes, as exact results of the old value, the operand and the compare
value; each result lies within the width. -/
def Obligations.ScalarAtomicResults : Prop :=
  (∀ (s : State) (gid : Nat) (g : Group) (k : Kernel) (aop : BitVec 4) (sc : BitVec 3) (d a b : BitVec 6) (pa : Nat)
    (dir : Bool),
    let w := if 10 ≤ aop.toNat then 4 else 8
    let p : Loc := .phys pa dir
    IssuesA (.atoms aop sc d a b) s gid g k → g.saq = [] → InOrder s g p w → isLocal p = true →
    reachable s g p = true → Passes s gid g 0 (rs g a) w .atomic p →
      let r := atomAt s g.core (slotOf s g.ctx) p sc.toNat aop.toNat w ((rs g b).toNat % 2 ^ (8 * w)) (rs g d).toNat
      exec (.atoms aop sc d a b) s = .next (modGrp r.1 gid fun x =>
        advance (ws { x with rval := [], rbad := none, seq := x.seq + 1 } d (BitVec.ofNat 64 r.2))))
  ∧
  (∀ (w old v c : Nat), w = 4 ∨ w = 8 → old < 2 ^ (8 * w) → v < 2 ^ (8 * w) →
    let i (x : Nat) : Int := if 2 ^ (8 * w - 1) ≤ x then (x : Int) - 2 ^ (8 * w) else x
    atomOp 0 w old v c = (old + v) % 2 ^ (8 * w)
    ∧ i (atomOp 1 w old v c) = Min.min (i old) (i v) ∧ i (atomOp 2 w old v c) = Max.max (i old) (i v)
    ∧ atomOp 3 w old v c = Min.min old v ∧ atomOp 4 w old v c = Max.max old v
    ∧ (∀ j, (atomOp 5 w old v c).testBit j = (old.testBit j && v.testBit j))
    ∧ (∀ j, (atomOp 6 w old v c).testBit j = (old.testBit j || v.testBit j))
    ∧ (∀ j, (atomOp 7 w old v c).testBit j = (old.testBit j ^^ v.testBit j))
    ∧ atomOp 8 w old v c = v ∧ atomOp 9 w old v c = (if old = c then v else old))

/-- STORE_PAIR_SEND, LOAD_DATA_ARRIVAL, MUSLIN_ENTRY_MOVE and PAGE_WALK_COMPLETE (R28, R87, R140, R198): a complete local
store leaves its queues and its highest lane's bytes are read back; an arrived lane is no longer owed; the oldest ring entry
enters the hardware queue; a finished walk is the newest entry of the die's TLB. -/
def Obligations.MemoryEventsComplete : Prop :=
  ∀ (s : State) (gid : Nat) (g : Group), grp? s gid = some g → g.fences = [] →
    (∀ e rest l p, g.saq = e :: rest → e.kind = .store → e.half = false → e.count ≤ g.sdq.length →
      heldByOwn s gid g e = false → pairWaits s g.core e = false → linkHolds s g e = false →
      let ds := g.sdq.take e.count
      let lanes := lanesOf (e.mask &&& ((ds.head?.map (·.mask)).getD 0))
      (∀ j ∈ lanes, laneReason s g e j = none ∧ isRemoteLane e j = false ∧ isWindowLane e j = false) →
      lanes.getLast? = some l → saqLoc s g e l = some p → placeOf p % e.size = 0 → e.size ∈ [1, 2, 4, 8, 16] →
      ∃ t g', exec (.storePairSend gid) s = .next t ∧ grp? t gid = some g' ∧ g'.saq = g.saq.drop e.count
        ∧ g'.sdq = g.sdq.drop e.count ∧ ∀ j, j < e.size →
          threadByte t g.core (slotOf s g.ctx) (placeAt p (placeOf p + j)) = BitVec.ofNat 8 (laneData ds l / 2 ^ (8 * j)))
    ∧ (∀ n r l, g.loads = [r] → r.stamp = n → r.lanes.getLsbD l = true →
      let a := SMap.get r.acc {} l
      a.parts.all (partReady s g r) = true → partsBad s g 0 a.parts = none →
      ∃ t g', exec (.loadDataArrival gid n (laneBit l)) s = .next t ∧ grp? t gid = some g' ∧ g'.pc = g.pc
        ∧ ∀ x ∈ g'.loads, x.lanes.getLsbD l = false)
    ∧ (g.st ≠ .saved → g.lq.length < 64 → ringCount s g ≠ 0 → g.hold = [] →
      ∃ t g', exec (.muslinEntryMove gid) s = .next t ∧ grp? t gid = some g'
        ∧ g'.lq = g.lq ++ [ringGet s g (ringHead s g)])
    ∧ (∀ die cn va kind c s1 e, SMap.find? s.ctxs cn = some c → c.state ≠ .destroyed →
      walk s (dieSt s die).walks cn va.toNat kind = (s1, .ok e) →
      ∃ t, exec (.pageWalkComplete die cn va kind) s = .next t ∧ (dieSt t die).tlb.head? = some e)

/-! ### Engines, barriers, order and monitors (R93 to R103, R222, R226, R345 to R351) -/

/-- The engine commands (R347, R348): a block that passes its checks enters its engine, the next token of the context goes to
S[d], and the group goes on. -/
def Obligations.EnginesAcceptCommands : Prop :=
  ∀ (s : State) (gid : Nat) (g : Group) (k : Kernel) (d a : BitVec 6) (b : EngBlock) (s1 s2 : State) (l : Loc),
    ∀ p ∈ ([(.cpy d a, 0), (.cpysp d a, 1), (.gath d a, 2), (.scat d a, 3), (.spillb d a, 4), (.filla d a, 5)] :
        List (Instr × Nat)),
      IssuesA p.1 s gid g k →
      engBlock p.2 (fun j => (sReg g (a.toNat + j)).toNat) k.hdr.na k.hdr.nv = some b →
      checkBarrier s g b.bsp b.bar = (s1, .ok l) → (∀ x ∈ b.aligns, x.1 % x.2 = 0) →
      (∀ c ∈ b.ranges, (rangePlace s1 g c).isSome = true) →
      let ranges := b.ranges.map fun c => { c with lo := (rangePlace s1 g c).getD c.lo }
      let r := cmdRanges s1 (coreDie g.core) g.ctx ranges
      ownShare r.2.1 = none → tryRegister (newSerial r.1).2 g.core (.engine (newSerial r.1).1) r.2.1 = some s2 →
      let tok := (ctxOf s2 g.ctx).token + 1
      ∃ t g', exec p.1 s = .next t ∧ grp? t gid = some g' ∧ g'.pc = g.pc + 4 ∧ (d ≠ 0 → sReg g' d.toNat = BitVec.ofNat 64 tok)
        ∧ (∀ n, n ≠ d.toNat → sReg g' n = sReg g n) ∧ g'.a = g.a ∧ g'.v = g.v ∧ t.mem = s2.mem
        ∧ ∃ n c, SMap.find? t.engines n = some c ∧ c.token = tok ∧ c.for_ = .group gid g.handle ∧ c.ctx = g.ctx

/-- The barrier instructions (R350): BINIT and BEXPECT send their update, BARRIVE its arrival (with the control word as it
was, for a destination other than s0), BWAIT and BTEST see a flip of the phase they name or do not, BSTAT reads a word. -/
def Obligations.BarrierInstructions : Prop :=
  ∀ (s : State) (gid : Nat) (g : Group) (k : Kernel) (asp : BitVec 2) (d a b : BitVec 6) (l : Loc),
    BarReady s gid g asp.toNat (rs g a) l →
    let upd (op : BarOp) : BarUpd := { home := l, core := g.core, slot := slotOf s g.ctx, from_ := some gid, op := op }
    let arr := BarOp.arrive ((rs g b).toNat % 65536) { member := g.handle % 65536 }
    let s1 := barSync s g.core l
    let obj := barRead s1 g.core (slotOf s g.ctx) l
    (∀ p ∈ ([(.binit asp a b, .init ((rs g b).toNat % 65536)), (.bexpect asp a b, .expect (rs g b).toNat),
        (.barrive false asp 0 a b, arr)] : List (Instr × BarOp)),
      IssuesA p.1 s gid g k → exec p.1 s = .next (modGrp { s with homeQ := s.homeQ ++ [upd p.2] } gid advance))
    ∧ (IssuesA (.barrive true asp 0 a b) s gid g k → ReleaseReady s gid g (barScope l) →
      ∃ t, exec (.barrive true asp 0 a b) s = .next t ∧ t.homeQ = s.homeQ ++ [upd arr]
        ∧ (grp? t gid).map (·.pc) = some (g.pc + 4))
    ∧ (∀ rel, d ≠ 0 → IssuesA (.barrive rel asp d a b) s gid g k → (rel = true → ReleaseReady s gid g (barScope l)) →
      let s2 := if rel then fenceAct s g.core { acq := false, rel := true, scope := barScope l, stamp := g.seq } else s
      let old := barRead (barSync s2 g.core l) g.core (slotOf s g.ctx) l
      ∃ t g', exec (.barrive rel asp d a b) s = .next t ∧ grp? t gid = some g' ∧ g'.pc = g.pc + 4
        ∧ sReg g' d.toNat = BitVec.ofNat 64 old.ctl)
    ∧ (IssuesA (.bstat asp d a b) s gid g k →
      exec (.bstat asp d a b) s = .next (modGrp s1 gid fun x =>
        advance (ws x d (BitVec.ofNat 64 (barWord obj ((rs g b).toNat % 4))))))
    ∧ (IssuesA (.btest asp d a b) s gid g k →
      exec (.btest asp d a b) s = .next (modGrp s1 gid fun x =>
        if barPh obj.ctl = (rs g b).getLsbD 0 then advance (ws x d 0)
        else pushFence (advance (ws x d 1)) true false (barScope l)))
    ∧ (IssuesA (.bwait asp a b) s gid g k → g.woken = false →
      (barPh obj.ctl ≠ (rs g b).getLsbD 0 →
        exec (.bwait asp a b) s = .next (modGrp s1 gid fun x => pushFence (advance x) true false (barScope l)))
      ∧ (barPh obj.ctl = (rs g b).getLsbD 0 → g.stop = none → ∃ t g', exec (.bwait asp a b) s = .next t ∧ grp? t gid = some g' ∧
        g'.pc = g.pc ∧ g'.wake = some (.bwait l asp.toNat (rs g a) ((rs g b).getLsbD 0))
        ∧ g'.st = if g.yreq then .yielding else .blocked))

/-- Updates of a barrier object (R95 to R98): a malformed control word takes none; INIT sets the counts; an update outside
its range merges PROTO and nothing else; an arrival or a completion that leaves nothing pending flips the phase, reloads the
count, and moves the status into the last word.

Merging of statuses (R99): the bits are ORed; a contribution with a failure bit adds its failures, saturating, and keeps
the lowest failing member; one without changes neither.

The four barrier-home events (R96): an update of their kind that no earlier one of its group holds back leaves the queue
of updates, and its home then holds the object it makes. -/
def Obligations.BarrierUpdates : Prop :=
  (∀ (b : BarObj) (st : Status) (m t : Nat), b.txb < 2 ^ 64 → b.ctl < 2 ^ 64 →
    let exp := barExp b.ctl
    let pend := barPend b.ctl
    let merged := mergeStatus b.acc st
    let flipped (acc : Nat) : BarObj × Bool := (⟨barCtl (!barPh b.ctl) exp exp, 0, emptyStatus, acc⟩, true)
    (malformed b.ctl = true → ∀ op ∈ [BarOp.arrive m st, .expect t, .complete t st], barApply b op = (b, false))
    ∧ (0 < m → m < 65536 → let r := barApply b (.init m)
      barExp r.1.ctl = m ∧ barPend r.1.ctl = m ∧ barPh r.1.ctl = false ∧ r.1.txb = 0 ∧ r.1.acc = emptyStatus
      ∧ r.1.last = emptyStatus ∧ malformed r.1.ctl = false ∧ r.2 = false)
    ∧ barApply b (.init 0) = (⟨0, 0, 0xFFFF0000, 0xFFFF0000⟩, false)
    ∧ (malformed b.ctl = false →
      (exp = 0 ∨ m = 0 ∨ pend < m → barApply b (.arrive m st) = ({ b with acc := b.acc ||| 0x400 }, false))
      ∧ (exp = 0 ∨ t = 0 ∨ 2 ^ 48 ≤ t → barApply b (.expect t) = ({ b with acc := b.acc ||| 0x400 }, false))
      ∧ (exp = 0 ∨ t = 0 ∨ 2 ^ 32 ≤ t → barApply b (.complete t st) = ({ b with acc := b.acc ||| 0x400 }, false))
      ∧ (exp ≠ 0 → 0 < m → m ≤ pend →
        (m = pend ∧ b.txb = 0 → barApply b (.arrive m st) = flipped merged)
        ∧ (¬ (m = pend ∧ b.txb = 0) → let r := barApply b (.arrive m st)
          barPend r.1.ctl = pend - m ∧ barExp r.1.ctl = exp ∧ barPh r.1.ctl = barPh b.ctl ∧ r.1.txb = b.txb
          ∧ r.1.acc = merged ∧ r.1.last = b.last ∧ r.2 = false))
      ∧ (exp ≠ 0 → 0 < t → t < 2 ^ 32 → pend ≠ 0 ∨ t ≠ b.txb → let r := barApply b (.complete t st)
        barPend r.1.ctl = pend ∧ barExp r.1.ctl = exp ∧ barPh r.1.ctl = barPh b.ctl
        ∧ (r.1.txb : Int) = ((b.txb : Int) - t) % 2 ^ 64 ∧ r.1.acc = merged ∧ r.1.last = b.last ∧ r.2 = false)
      ∧ (exp ≠ 0 → 0 < t → t < 2 ^ 32 → pend = 0 → t = b.txb → barApply b (.complete t st) = flipped merged)
      ∧ (exp ≠ 0 → 0 < t → t < 2 ^ 48 → (pend ≠ 0 ∨ (b.txb + t) % 2 ^ 64 ≠ 0) → let r := barApply b (.expect t)
        barPend r.1.ctl = pend ∧ barExp r.1.ctl = exp ∧ barPh r.1.ctl = barPh b.ctl ∧ r.1.txb = (b.txb + t) % 2 ^ 64
        ∧ r.1.acc = b.acc ∧ r.1.last = b.last ∧ r.2 = false)
      ∧ (exp ≠ 0 → 0 < t → t < 2 ^ 48 → pend = 0 → (b.txb + t) % 2 ^ 64 = 0 → barApply b (.expect t) = flipped b.acc)))
  ∧
  (∀ (acc : Nat) (c : Status), acc < 2 ^ 64 →
    let r := mergeStatus acc c
    r < 2 ^ 64 ∧ (∀ i, i < 12 → r.testBit i = (acc.testBit i || c.bits.getLsbD i))
    ∧ (c.bits &&& failMask = 0 → bits r 16 48 = bits acc 16 48)
    ∧ (c.bits &&& failMask ≠ 0 → bits r 32 32 = Nat.min (bits acc 32 32 + c.failures) 0xFFFFFFFF
      ∧ bits r 16 16 = Nat.min (bits acc 16 16) (c.member % 65536)))
  ∧
  (∀ (s : State) (n : Nat) (u : BarUpd), s.homeQ[n]? = some u → updFirst s n u = true → updHeld s u = false →
    (∀ gid g, u.from_ = some gid → grp? s gid = some g → g.fences = []) →
    let s0 : State := { s with homeQ := s.homeQ.eraseIdx n }
    let s1 := if u.from_.isSome then barSync s0 u.core u.home else s0
    let i : Instr := match u.op with
      | .init _ => .barrierInit n
      | .arrive _ _ => .barrierArrival n
      | .expect _ => .barrierExpect n
      | .complete _ _ => .barrierEngineCompletion n
    ∃ t, exec i s = .next t ∧ t.homeQ = s.homeQ.eraseIdx n
      ∧ barRead t u.core u.slot u.home = (barApply (barRead s1 u.core u.slot u.home) u.op).1)

/-- FENCE, DRAINNT, MON and MWAIT (R222, R226, R351): FENCE enters the group's order and goes on; DRAINNT completes with the
core's dirty lines written back; MON arms the monitor on its line; MWAIT goes on when no unhit monitor is armed, and blocks
when one is.

PREF (R301) never faults and changes no register: once its index register is not owed a fill, it goes on. -/
def Obligations.OrderResults : Prop :=
  (∀ (s : State) (gid : Nat) (g : Group) (k : Kernel) (kind : BitVec 2) (scope : BitVec 3) (a : BitVec 6),
    (IssuesA (.fence kind scope) s gid g k → ∃ t g', exec (.fence kind scope) s = .next t ∧ grp? t gid = some g' ∧
      g'.pc = g.pc + 4 ∧ g'.seq = g.seq + 1 ∧ g'.s = g.s ∧ g'.a = g.a ∧ g'.v = g.v)
    ∧ (IssuesA .drainnt s gid g k → ntPending s gid g = false → ∃ t g', exec .drainnt s = .next t ∧ grp? t gid = some g' ∧
      g' = advance { g with mon := g'.mon } ∧ ∀ line x, SMap.find? (coreOf t g.core).l1 line = some x → x.dirty = 0)
    ∧ (IssuesA (.mon a) s gid g k → ∀ s1 x, translate s g.core g.ctx (rs g a).toNat .read = (s1, .ok x) →
      monFault s1 g.ctx x.pa = none → fabricReason s1 g.core g.ctx x.pa = none →
      ∃ t g', exec (.mon a) s = .next t ∧ grp? t gid = some g' ∧ g' = advance { g with mon := some (x.pa / 128, false) })
    ∧ (IssuesA .mwait s gid g k → (∀ line, g.mon ≠ some (line, false)) →
      exec .mwait s = .next (setGrp s gid (advance { g with mon := none })))
    ∧ (IssuesA .mwait s gid g k → g.stop = none → ∀ line, g.mon = some (line, false) → ∃ t g', exec .mwait s = .next t ∧
      grp? t gid = some g' ∧ g'.pc = g.pc ∧ g'.wake = some .mwait ∧ g'.st = if g.yreq then .yielding else .blocked))
  ∧
  (∀ (s : State) (gid : Nat) (g : Group) (k : Kernel) (ty : BitVec 4) (asp : BitVec 2) (nt : Bool) (aa : BitVec 5)
    (sb : BitVec 6) (off : BitVec 8), IssuesA (.pref ty asp nt aa sb off) s gid g k →
    (aa = 31 ∨ fillPending s gid aa.toNat = false) →
      ∃ t g', exec (.pref ty asp nt aa sb off) s = .next t ∧ grp? t gid = some g'
        ∧ g' = advance { g with mon := g'.mon })

/-! ### Work queues and rounds from a group (R352 to R354) -/

/-- ENQ, GSTART and GSIG with their release set performed (R352 to R354): the record is accepted with answer 0, a round
starts with answer 0, the plan's signal word is set with answer 0.

DEQ (R353): the eight registers receive the words of the record that was taken for the group, or of the queue's head
when it is eligible and no group waits ahead, or zeros when the queue does not serve the group. The group's die is not cut off
from the switch die, where these instructions are answered (R190). -/
def Obligations.GroupSubmissions : Prop :=
  (∀ (s : State) (gid : Nat) (g : Group) (k : Kernel) (d a b : BitVec 6), ReleaseReady s gid g 3 →
    cutOff s (coreDie g.core) = false →
    let h := (rs g a).toNat
    let done (i : Instr) (q : State → Prop) : Prop :=
      ∃ t g', exec i s = .next t ∧ grp? t gid = some g' ∧ g'.pc = g.pc + 4 ∧ sReg g' d.toNat = 0 ∧ q t
    (IssuesA (.enq d a b) s gid g k → h ≤ 1023 → (queueOf s h).ctx = g.ctx → (queueOf s h).en = true →
      queueState (queueOf s h) ≠ 3 → badRecord (recordRegs g b) = false →
      done (.enq d a b) fun t =>
        (queueOf t h).res.length + (queueOf t h).spilled = (queueOf s h).res.length + (queueOf s h).spilled + 1)
    ∧ (IssuesA (.gstart d a b) s gid g k → h < 2 ^ 32 → ∀ p n, plan? s h = some p → p.ctx = g.ctx → runningInst s h = none →
      SMap.lowestFree s.damask.insts 0 64 = some n →
      done (.gstart d a b) fun t => ∃ x, inst? t n = some x ∧ x.plan = h ∧ x.seq = p.seq + 1 ∧ x.arg = rs g b ∧ x.pc = 0)
    ∧ (IssuesA (.gsig d a b) s gid g k → ∀ p x, plan? s h = some p → p.ctx = g.ctx → runningInst s h = some x →
      done (.gsig d a b) fun t => (plan? t h).map (·.sig) = some (rs g b)))
  ∧
  (∀ (s : State) (gid : Nat) (g : Group) (k : Kernel) (d a : BitVec 6), IssuesA (.deq d a) s gid g k →
    let got (bs : List Byte) : Prop := ∃ t g', exec (.deq d a) s = .next t ∧ grp? t gid = some g' ∧ g'.pc = g.pc + 4 ∧
      ∀ i < 8, sReg g' (d.toNat + i) = BitVec.ofNat 64 (recField bs (8 * i) 8)
    (g.woken = true ∨ g.deqRec ≠ [] → got g.deqRec)
    ∧ (g.woken = false → g.deqRec = [] → cutOff s (coreDie g.core) = false → deqServes s g.ctx (rs g a) = false → got [])
    ∧ (g.woken = false → g.deqRec = [] → cutOff s (coreDie g.core) = false → deqServes s g.ctx (rs g a) = true → ∀ r, readyHead s (rs g a).toNat = some r →
      (∀ e ∈ s.groups, e.2.wake = some (.deq (rs g a)) → e.2.st ≠ .blocked ∨ e.2.woken = true) → got r.bytes))

/-! ### Safe points, control registers, exceptions and handlers (R358 to R370) -/

/-- SP and YIELD (R360, R361): SP sets the last-SP index and zeroes the SPDIST count, and a pending yield request takes the
group unless a team stop has reached it (R68); in a stub it goes on behind its entry's SP; in a handler it sets the handler's index only. YIELD completes once the
team has been placed again, and before that posts the request to its whole team. -/
def Obligations.SafePointResults : Prop :=
  ∀ (s : State) (gid : Nat) (g : Group) (k : Kernel) (idx : BitVec 16),
    (IssuesA (.sp idx) s gid g k →
      (inHandler g = true → exec (.sp idx) s = .next (setGrp s gid { advance g with hLastSp := some idx, hFollow := true }))
      ∧ (inHandler g = false → ∃ g', exec (.sp idx) s = .next (setGrp s gid g') ∧ g'.lastSp = some idx ∧ g'.spcnt = 0
        ∧ g'.follow = true ∧ g'.stub = none ∧ g'.st = (if g.yreq && g.stop.isNone then .yielding else g.st)
        ∧ g'.pc = (if g.stub = none then g.pc + 4
            else aBase k + BitVec.ofNat 64 ((k.table.drop idx.toNat).headD {}).pc + 4)))
    ∧ (IssuesA .yield s gid g k → inHandler g = false →
      (g.woken = true ∨ g.replaced = true → exec .yield s = .next (setGrp s gid { advance g with replaced := false }))
      ∧ (g.woken = false → g.replaced = false → g.stop = none →
        k.coop = false ∨ (g.team < 4294967296 ∧ (team? s g.kern g.team).isSome = true) →
        ∃ t g', exec .yield s = .next t ∧ grp? t gid = some g' ∧ g'.pc = g.pc ∧ g'.st = .yielding ∧ g'.wake = some .yield
          ∧ ∀ j x, grp? t j = some x → x.kern = g.kern → x.team = g.team → x.yreq = true))

/-- CSRR and CSRW (R363): the value that each register number reads, and the two registers a write changes. -/
def Obligations.ControlRegisters : Prop :=
  ∀ (s : State) (gid : Nat) (g : Group) (k : Kernel) (d a n : BitVec 6),
    let nat (v : Nat) : Word := BitVec.ofNat 64 v
    (∀ p ∈ ([(0, nat g.handle), (1, nat g.kern), (3, g.present.zeroExtend 64), (4, nat g.spcnt), (6, nat (slip s g)),
        (7, nat (spawns s g)), (8, nat (s.now / 17)), (9, nat g.retired), (11, g.fvec.zeroExtend 64),
        (12, g.poison.zeroExtend 64), (13, nat g.hcst),
        (2, nat (g.slot % 32 * 65536 + g.core / 192 % 4 * 256 + g.core % 192)),
        (5, match (if inHandler g then g.hLastSp else g.lastSp) with | some i => nat (65536 + i.toNat) | none => 0),
        (10, nat ((if g.yreq then 1 else 0) + (if k.first then 2 else 0)))] : List (BitVec 6 × Word)),
      IssuesA (.csrr d p.1) s gid g k → exec (.csrr d p.1) s = .next (wrote s gid g d p.2))
    ∧ (IssuesA (.csrw a n) s gid g k → exec (.csrw a n) s = .next (setGrp s gid (advance { g with
        fvec := if n = 11 then (if (rs g a).toNat % 4 = 0 then (rs g a).truncate 32 else 0xFFFFFFFF) else g.fvec
        poison := if n = 12 then g.poison &&& ~~~((rs g a).truncate 32) else g.poison })))

/-- Taking a fault (R357, R358): a group with a vector, not in a handler and not reached by a team stop, enters handler state at offset FVEC
of its A-code with h0 to h15 zero, its last-SP index kept and its handler's cleared, the words of the record written (those of words 3, 4, 5 and
7 that the fault's rules give; the others are free values, log 3), and every other register as it was.

A fault in handler state, or without a vector, ends the kernel FAULTED with reason DOUBLE (R117, R358). A group that a team stop
has reached stops with its first fault kept, and enters no handler (R43). -/
def Obligations.FaultEntry : Prop :=
  (∀ (s : State) (gid : Nat) (g : Group) (k : Kernel) (f : FaultInfo), grp? s gid = some g → kern? s g.kern = some k →
    g.st ≠ .handler → g.stop = none → g.fvec ≠ 0xFFFFFFFF →
      ∃ g', grp? (takeFault s gid f) gid = some g' ∧ g'.st = .handler ∧ g'.pc = aBase k + g.fvec.zeroExtend 64
        ∧ (∀ n, n < 16 → SMap.get g'.h 0 n = 0) ∧ g'.hLastSp = none ∧ g'.lastSp = g.lastSp ∧ g'.retPc = g.pc
        ∧ SMap.get g'.frec 0 1 = f.pc
        ∧ (∀ p ∈ ([(3, f.w3), (4, f.w4), (5, f.w5.zeroExtend 64), (7, f.w7)] : List (Nat × Word)),
            p.1 ∉ openWords (faultInside k g f) f → SMap.get g'.frec 0 p.1 = p.2)
        ∧ (SMap.get g'.frec 0 5).toNat < 2 ^ 32
        ∧ (f.code < 256 → (SMap.get g'.frec 0 0).toNat % 256 = f.code ∧ (SMap.get g'.frec 0 0).getLsbD 8 = f.cside
          ∧ (SMap.get g'.frec 0 0).getLsbD 11 = f.done)
        ∧ g'.s = g.s ∧ g'.a = g.a ∧ g'.v = g.v ∧ g'.k = g.k ∧ g'.x = g.x ∧ g'.em = g.em ∧ g'.present = g.present
        ∧ (takeFault s gid f).mem = s.mem ∧ ∀ j, j ≠ gid → grp? (takeFault s gid f) j = grp? s j)
  ∧
  (∀ (s : State) (gid : Nat) (g : Group) (k : Kernel) (f : FaultInfo), grp? s gid = some g → kern? s g.kern = some k →
    (g.stop = none → g.st = .handler ∨ g.fvec = 0xFFFFFFFF →
      (kern? (takeFault s gid f) g.kern).map (fun x => (x.state, x.reason)) = some (.faulted, 4)
        ∧ ∀ j x, grp? (takeFault s gid f) j = some x → x.kern ≠ g.kern)
    ∧ ∀ x, g.stop = some x → takeFault s gid f = setGrp s gid { g with
        st := .stopped, stop := some { x with fault := some (match x.fault with | some e => e | none => f) } })

/-- What may not be issued (R259, R361 to R364): the handler instructions raise PRIV outside handler state, with the word in
word 7; in handler state the mask, vector, spawning, dispatch, memory, barrier and stop instructions raise ILLEGAL.

Alignment and form traps of the A-stream (R35, R65, R147, R253): a jump to a misaligned register, a misaligned scalar
access, a blocking instruction that follows no SP, and the SPDIST limit each raise their fault at the instruction. -/
def Obligations.PrivilegeAndAlignmentTraps : Prop :=
  (∀ (s : State) (gid : Nat) (g : Group) (k : Kernel) (d a b : BitVec 6) (x y z : BitVec 5) (off : BitVec 16) (o26 : BitVec 26),
    Acts s gid g k → canIssue g = true →
    (inHandler g = false → g.afaults = [] →
      ∀ i ∈ ([.fret, .fretSkip, .fmap d, .femu a b, .fskip, .fpark a b, .hcall d a b, .rdfi d a] : List Instr),
        exec i s = .next (takeFault s gid { code := 0x15, pc := g.pc, w7 := (encodeA i).zeroExtend 64 }))
    ∧ (inHandler g = true →
      ∀ i ∈ ([.emset a, .emget d, .vaadd x y z, .vaext d x b, .bxq 0 off, .brs 0 a off, .brx x a b, .join, .ends,
          .loopd a off, .disp o26, .kput x a, .xpop d, .xpeek d, .ld 4 0 false x a 0, .st 4 0 false x a 0, .cpy d a,
          .binit 0 a b, .barrive false 0 d a b, .drainnt, .mon a, .mwait, .enq d a b, .deq d a, .gstart d a b, .yield,
          .brk, .tstop] : List Instr),
        exec i s = .next (takeFault s gid { code := 0x01, pc := g.pc, w7 := (encodeA i).zeroExtend 64 })))
  ∧
  (∀ (s : State) (gid : Nat) (g : Group) (k : Kernel) (d a : BitVec 6) (imm : BitVec 14),
    let addr := rs g a + BitVec.ofInt 64 imm.toInt
    let at_ (n : Nat) : FaultInfo := { code := 0x05, pc := g.pc, w3 := addr, w4 := addr, w5 := 1, w7 := BitVec.ofNat 64 n }
    ((rs g a).toNat % 4 ≠ 0 → ∀ i ∈ [Instr.jr a, .callr a], IssuesA i s gid g k →
      exec i s = .next (takeFault s gid { code := 0x05, pc := g.pc, w7 := 4 }))
    ∧ (g.fences = [] → addr.toNat % 8 ≠ 0 → IssuesA (.lds d a imm) s gid g k →
      ∃ t, exec (.lds d a imm) s = .next t ∧ t = takeFault (modGrp s gid fun x => { x with rval := [], rbad := none }) gid (at_ 8))
    ∧ (g.fences = [] → addr.toNat % 4 ≠ 0 → IssuesA (.ldsw d a imm) s gid g k →
      ∃ t, exec (.ldsw d a imm) s = .next t ∧ t = takeFault (modGrp s gid fun x => { x with rval := [], rbad := none }) gid (at_ 4))
    ∧ (Acts s gid g k → canIssue g = true → g.afaults = [] → inHandler g = false → g.follow = false →
      ∀ i ∈ [Instr.mwait, .join, .yield, .xpop d], fate k g i = none → spdistDue k g i = false →
        exec i s = .next (takeFault s gid { code := 0x01, pc := g.pc, w7 := (encodeA i).zeroExtend 64 }))
    ∧ (Acts s gid g k → canIssue g = true → g.afaults = [] → inHandler g = false → g.stub = none →
      k.hdr.spdist ≤ g.spcnt → ∀ i ∈ [Instr.addi d a imm, .lds d a imm, .mwait], fate k g i = none →
        exec i s = .next (takeFault s gid { code := 0x0B, pc := g.pc })))

/-- TRAP, BRK and TSTOP (R361, R362): TRAP retires and enters the handler with DONE set and S[a] in word 7; BRK and TSTOP
retire and stop the whole team with their reason, the group itself at once. -/
def Obligations.TrapAndStop : Prop :=
  ∀ (s : State) (gid : Nat) (g : Group) (k : Kernel) (a : BitVec 6), inHandler g = false → g.stop = none →
    (IssuesA (.trap a) s gid g k → g.fvec ≠ 0xFFFFFFFF → ∃ t g', exec (.trap a) s = .next t ∧ grp? t gid = some g' ∧
      g'.st = .handler ∧ g'.pc = aBase k + g.fvec.zeroExtend 64 ∧ g'.retPc = g.pc + 4 ∧ g'.retired = g.retired + 1
      ∧ SMap.get g'.frec 0 1 = g.pc ∧ SMap.get g'.frec 0 7 = rs g a ∧ (SMap.get g'.frec 0 0).toNat % 256 = 0x12
      ∧ (SMap.get g'.frec 0 0).getLsbD 11 = true)
    ∧ (∀ p ∈ [(Instr.brk, 1), (.tstop, 2)], IssuesA p.1 s gid g k → ∃ t g', exec p.1 s = .next t ∧ grp? t gid = some g' ∧
      g'.st = .stopped ∧ g'.pc = g.pc + 4 ∧ g'.s = g.s ∧ g'.v = g.v ∧ (g'.stop.map fun x => x.reason) = some p.2
      ∧ ∀ j x, grp? s j = some x → x.kern = g.kern → x.team = g.team → stoppable x.st = true →
          ∃ x', grp? t j = some x' ∧ (x'.stop.map fun y => y.reason) = some p.2)

/-- The handler's own instructions (R365 to R369): RDFI reads a word of the record; FEMU and FSKIP record what the handler
does for the failing lanes; FPARK goes on when its condition holds and parks the group when it does not; HCALL and FMAP open
a request of the die and answer 0, or answer why they open none. -/
def Obligations.HandlerInstructions : Prop :=
  ∀ (s : State) (gid : Nat) (g : Group) (k : Kernel) (d a b : BitVec 6),
    let die := coreDie g.core
    let opens (i : Instr) (kind : Nat) (page arg : Word) (n : Nat) : Prop := ∃ t g', exec i s = .next t ∧
      grp? t gid = some g' ∧ g'.pc = g.pc + 4 ∧ rs g' d = 0 ∧ g'.hcst = n
      ∧ SMap.find? (dieSt t die).preqs s.serial = some { ctx := g.ctx, page := page, kind := kind, group := gid, arg := arg }
    (IssuesA (.rdfi d a) s gid g k →
      exec (.rdfi d a) s = .next (wrote s gid g d (SMap.get g.frec 0 ((rs g a).toNat % 8))))
    ∧ (∀ h, IssuesA (.femu a b) s gid g k → g.held = some h → (rs g b).toNat / 32 % 4 < h.entries →
      (faultLanes g).getLsbD ((rs g b).toNat % 32) = true → ∃ h', exec (.femu a b) s = .next (setGrp s gid
        (advance { g with held := some { h with emu := h' } })) ∧
        ∀ j, SMap.find? h' j = if j = (rs g b).toNat % 128 then some ((rs g a).truncate 32) else SMap.find? h.emu j)
    ∧ (∀ h, IssuesA .fskip s gid g k → g.held = some h →
      exec .fskip s = .next (setGrp s gid (advance { g with held := some { h with skip := true } })))
    ∧ (IssuesA (.fpark a b) s gid g k →
      (g.woken = true ∨ parkMet s g (rs g a) (rs g b) = true → exec (.fpark a b) s = .next (setGrp s gid (advance g)))
      ∧ (g.woken = false → parkMet s g (rs g a) (rs g b) = false → ∃ g', exec (.fpark a b) s = .next (setGrp s gid g') ∧
        g'.st = .parked ∧ g'.wake = some (.fpark (rs g a) (rs g b)) ∧ g'.pc = g.pc))
    ∧ (IssuesA (.hcall d a b) s gid g k →
      ((dieSt s die).preqs.length < 1024 → opens (.hcall d a b) 8 (rs g b) (rs g a) 2)
      ∧ (1024 ≤ (dieSt s die).preqs.length → ∃ t g', exec (.hcall d a b) s = .next t ∧ grp? t gid = some g' ∧
        rs g' d = 2 ∧ g'.hcst = 3))
    ∧ (IssuesA (.fmap d) s gid g k → faultCode g = 0x02 → pendingMap s g.ctx (faultPage g) = none →
      (dieSt s die).preqs.length < 1024 →
      opens (.fmap d) g.fkind (BitVec.ofNat 64 (4096 * faultPage g)) 0 g.hcst)

/-- FRET and FRET.skip (R370): with nothing held, the group is ACTIVE again with its own last-SP index, at the instruction
it stood at, or behind it under .skip when it had not retired and was an A-instruction; SPDIST starts its count anew. With a
store held, the group goes on and the store enters the SAQ, without its failing lanes under .skip and after FSKIP, when the SAQ
has room and the lanes that stay pass their check. -/
def Obligations.FaultReturn : Prop :=
  ∀ (s : State) (gid : Nat) (g : Group) (k : Kernel) (skip : Bool),
    let i : Instr := if skip then .fretSkip else .fret
    IssuesA i s gid g k →
      (g.held = none → ∃ t g', exec i s = .next t ∧ grp? t gid = some g' ∧ g'.st = .active ∧ g'.lastSp = g.lastSp
        ∧ g'.hLastSp = none ∧ g'.s = g.s ∧ g'.a = g.a ∧ g'.em = g.em
        ∧ g'.pc = (if skip && !faultDone g && !faultCside g then g.retPc + 4 else g.retPc)
        ∧ (faultDone g = false → faultCside g = false → faultCode g = 0x0B → g'.spcnt = 0))
      ∧ (∀ h e cs, g.held = some h → h.kind = .store e none → e.rv = false → saqFull g e = false →
        let x := if skip || h.skip then { e with mask := e.mask &&& ~~~(faultLanes g) } else e
        let s1 := setGrp s gid (leaveHandler g)
        entryChecks s1 (leaveHandler g) x = (s1, cs) → badLanes cs = [] →
        ∃ t g', exec i s = .next t ∧ grp? t gid = some g' ∧ g'.st = .active ∧ g'.pc = g.retPc ∧ g'.lastSp = g.lastSp
          ∧ g'.held = none ∧ g'.saq.length = g.saq.length + entryPairs e
          ∧ ∀ y ∈ g'.saq.drop g.saq.length, y.mask = x.mask)

/-- PARKED_WAKE and the two responses (R52, R146, R154, R368, R369): a parked group whose condition holds is in handler
state again; a response closes its request, a refusal reaches the group that waits for it, and the answer to a group's last HCALL sets
its status. -/
def Obligations.HandlerEvents : Prop :=
  ∀ (s : State) (gid : Nat) (g : Group), grp? s gid = some g →
    (∀ code arg, g.st = .parked → g.wake = some (.fpark code arg) → parkMet s g code arg = true →
      exec (.parkedWake gid) s = .next (setGrp s gid { g with st := .handler, woken := true, setSince := s.now }))
    ∧ (∀ req refused die r, findPreq s req = some (die, r) → r.kind ≠ 8 → ∃ t, exec (.pageRequestResponse req refused) s = .next t ∧
      SMap.find? (dieSt t die).preqs req = none
      ∧ (refused = true → g.preq = some req → g.st = .handler → faultCside g = false → ∃ g', grp? t gid = some g' ∧ r.page.toNat / 4096 ∈ g'.refused))
    ∧ (∀ req refused die r, findPreq s req = some (die, r) → r.kind = 8 → r.group = gid → g.hcall = some req →
      ∃ t g', exec (.hcallResponse req refused) s = .next t ∧ SMap.find? (dieSt t die).preqs req = none
        ∧ grp? t gid = some g' ∧ g'.hcst = (if refused then 1 else 0) ∧ g'.pc = g.pc)

/-! ### Lane instructions (R229, R303 to R332) -/

/-- The integer arithmetic of R308: every element of the result is the exact result of the elements of the operands, after
their modifiers, wrapped to the type or clamped to its range with sat (R229). -/
def Obligations.IntegerLaneResults : Prop :=
  ∀ (s : State) (gid : Nat) (g : Group) (k : Kernel) (p : CPos) (f : CFields),
    let sat := f.mod.getLsbD 0
    ∀ x ∈ ([(.vadd f, sat, fun _ a b _ => a + b), (.vsub f, sat, fun _ a b _ => a - b), (.vmul f, sat, fun _ a b _ => a * b),
        (.vmad f, sat, fun _ a b c => a * b + c), (.vmulh f, false, fun w a b _ => a * b / 2 ^ w),
        (.vmin f, false, fun _ a b _ => Min.min a b), (.vmax f, false, fun _ a b _ => Max.max a b),
        (.vabs f, sat, fun _ a _ _ => (a.natAbs : Int))] : List (Instr × Bool × (Nat → Int → Int → Int → Int))),
      IssuesC x.1 s gid g k p → LaneResult x.1 s gid g k fun e l v => ∀ j < elems e.ty,
        toI e.ty (elemAt (elemBits e.ty) j v) = fitAt e.ty x.2.1
          (x.2.2 (elemBits e.ty) (toI e.ty (elA e l j)) (toI e.ty (elB e l j)) (toI e.ty (elC e l j)))

/-- The bitwise, shift, counting and bit-field instructions and VSEL (R308, R309), element by element and bit by bit; `w` is
the element width, and a shift takes its second operand's low log2(w) bits. -/
def Obligations.BitLaneResults : Prop :=
  ∀ (s : State) (gid : Nat) (g : Group) (k : Kernel) (p : CPos) (f : CFields),
    let src (a i : Nat) : Bool := if i < 32 then a.testBit i else f.ty = 0 ∧ a.testBit 31
    (∀ x ∈ ([(.vand f, fun w a b _ r => ∀ i < w, r.testBit i = (a.testBit i && b.testBit i)),
        (.vor f, fun w a b _ r => ∀ i < w, r.testBit i = (a.testBit i || b.testBit i)),
        (.vxor f, fun w a b _ r => ∀ i < w, r.testBit i = (a.testBit i ^^ b.testBit i)),
        (.vshl f, fun w a b _ r => ∀ i < w, r.testBit i = (decide (b % w ≤ i) && a.testBit (i - b % w))),
        (.vshr f, fun w a b _ r => ∀ i < w, r.testBit i = (decide (i + b % w < w) && a.testBit (i + b % w))),
        (.vsar f, fun w a b _ r => ∀ i < w, r.testBit i = a.testBit (Nat.min (i + b % w) (w - 1))),
        (.vclz f, fun w a _ _ r => r ≤ w ∧ a < 2 ^ (w - r) ∧ (r < w → 2 ^ (w - 1 - r) ≤ a)),
        (.vpopc f, fun w a _ _ r => r = ((List.range w).map fun i => a / 2 ^ i % 2).sum),
        (.vbrev f, fun w a _ _ r => ∀ i < w, r.testBit i = a.testBit (w - 1 - i)),
        (.vbfe f, fun _ a b _ r => let pos := b % 32
          let n := Nat.min (b / 256 % 64) 32
          ∀ i < 32, r.testBit i = if i < n then src a (pos + i) else f.ty = 0 ∧ 0 < n ∧ src a (pos + n - 1)),
        (.vbfi f, fun _ a b c r => let pos := c % 32
          ∀ i < 32, r.testBit i = if pos ≤ i ∧ i < pos + Nat.min (c / 256 % 64) 32 then b.testBit (i - pos) else a.testBit i)] :
        List (Instr × (Nat → Nat → Nat → Nat → Nat → Prop))),
      IssuesC x.1 s gid g k p → LaneResult x.1 s gid g k fun e l v => ∀ j < elems e.ty,
        x.2 (elemBits e.ty) (elA e l j) (elB e l j) (elC e l j) (elemAt (elemBits e.ty) j v))
    ∧ (IssuesC (.vsel f) s gid g k p → LaneResult (.vsel f) s gid g k fun e l v =>
        let sel : Bool := if f.ck = 1 then (kReg g f.c.toNat).getLsbD l else vReg g f.c.toNat l ≠ 0
        v = if sel then e.av l else e.bv l)

/-- VICMP and VFCMP (R310, R313): with a lane destination each lane receives all ones or zero, with a k-register or XQ the
mask of the lanes of L for which the condition holds. -/
def Obligations.CompareLaneResults : Prop :=
  ∀ (s : State) (gid : Nat) (g : Group) (k : Kernel) (p : CPos) (f : CFields),
    ∀ x ∈ ([(.vicmp f, fun e l => cmpTest f.c.toNat (toI e.ty (elA e l 0)) (toI e.ty (elB e l 0))),
        (.vfcmp f, fun e l => fcmpTest f.c.toNat (elA e l 0) (elB e l 0))] : List (Instr × (CEnv → Nat → Prop))),
      IssuesC x.1 s gid g k p →
        (f.dk = 0 → LaneResult x.1 s gid g k fun e l v =>
          (x.2 e l → v = BitVec.ofNat 64 (2 ^ elemBits e.ty - 1)) ∧ (¬ x.2 e l → v = 0))
        ∧ (f.dk = 1 ∨ f.dk = 3 → UniformResult x.1 s gid g k fun e v =>
          ∀ l, v.getLsbD l = true ↔ l < 32 ∧ e.lset.getLsbD l = true ∧ x.2 e l)

/-- The floating-point lane instructions (R238, R311, R312, R314, R331): each element is its exact result rounded once into
the type, the chosen input's bits, or the class; the special values of the function units; and each conversion's elements. -/
def Obligations.FloatLaneResults : Prop :=
  ∀ (s : State) (gid : Nat) (g : Group) (k : Kernel) (p : CPos) (f : CFields),
    let rm := rmode f.rnd
    let sat := f.mod.getLsbD 0
    (∀ x ∈ ([(.vfadd f, fun a b _ => FVal.add rm a b), (.vfsub f, fun a b _ => FVal.add rm a b.neg),
        (.vfmul f, fun a b _ => FVal.mul a b), (.vfma f, fun a b c => FVal.add rm (FVal.mul a b) c)] :
        List (Instr × (FVal → FVal → FVal → FVal))),
      IssuesC x.1 s gid g k p → LaneResult x.1 s gid g k fun e l v => ∀ j < elems e.ty,
        let t := tyFmt e.ty
        elemAt (elemBits e.ty) j v = t.enc rm sat (x.2 (t.val (elA e l j)) (t.val (elB e l j)) (t.val (elC e l j))))
    ∧ (∀ x ∈ [(Instr.vfmin f, false), (.vfmax f, true)], IssuesC x.1 s gid g k p →
      LaneResult x.1 s gid g k fun e l v => ∀ j < elems e.ty,
        let t := tyFmt e.ty
        let a := elA e l j
        let b := elB e l j
        elemAt (elemBits e.ty) j v =
          if t.val a = .nan then (if t.val b = .nan then t.nan else b)
          else if t.val b = .nan then a
          else if (if x.2 then t.key a < t.key b else t.key b < t.key a) then b else a)
    ∧ (∀ x ∈ ([(.vfrcp f, [(0, 0x7F800000), (0x80000000, 0xFF800000), (0x7F800000, 0), (0xFF800000, 0x80000000)]),
        (.vfrsq f, [(0, 0x7F800000), (0x80000000, 0xFF800000), (0x7F800000, 0), (0xFF800000, 0x7FC00000), (0xBF800000, 0x7FC00000)]),
        (.vfsqrt f, [(0, 0), (0x80000000, 0x80000000), (0x7F800000, 0x7F800000), (0xFF800000, 0x7FC00000), (0xBF800000, 0x7FC00000)]),
        (.vfexp2 f, [(0, 0x3F800000), (0x80000000, 0x3F800000), (0x7F800000, 0x7F800000), (0xFF800000, 0)]),
        (.vflog2 f, [(0, 0xFF800000), (0x80000000, 0xFF800000), (0x7F800000, 0x7F800000), (0xFF800000, 0x7FC00000),
          (0xBF800000, 0x7FC00000)])] : List (Instr × List (Nat × Nat))),
      IssuesC x.1 s gid g k p → LaneResult x.1 s gid g k fun e l v => ∀ y ∈ x.2, elA e l 0 = y.1 → v.toNat = y.2)
    ∧ (IssuesC (.vfclass f) s gid g k p → LaneResult (.vfclass f) s gid g k fun e l v => ∀ j < elems e.ty,
        let t := tyFmt e.ty
        elemAt (elemBits e.ty) j v = match t.val (elA e l j) with
          | .nan => 256
          | .inf n => if n then 1 else 128
          | .num n m _ => if m = 0 then (if n then 8 else 16) else if m < 2 ^ t.mb then (if n then 4 else 32) else if n then 2 else 64)
    ∧ (IssuesC (.vscale f) s gid g k p → LaneResult (.vscale f) s gid g k fun e l v => ∀ j < elems e.ty,
        let t := tyFmt e.ty
        let b := sAt (elemBits e.ty) (BitVec.ofNat 64 (elemAt (elemBits e.ty) j (e.bv l)))
        elemAt (elemBits e.ty) j v = t.enc rm sat ((t.val (elA e l j)).scale (Max.max (-512) (Min.min 512 b))))
    ∧ (IssuesC (.vcvt f) s gid g k p → LaneResult (.vcvt f) s gid g k fun e l v =>
        let tt := f.c.toNat % 16
        let pos := f.c.toNat / 16
        let cv (j : Nat) : Nat := conv e.ty tt rm sat (elA e l j)
        ∀ j < elemCount tt, elemAt (elemBits tt) j v =
          if elemCount e.ty < elemCount tt then
            (if pos * elemCount e.ty ≤ j ∧ j < (pos + 1) * elemCount e.ty then cv (j - pos * elemCount e.ty) % 2 ^ elemBits tt
              else if f.dk = 2 then 0 else elemAt (elemBits tt) j ((vReg g f.d.toNat l).zeroExtend 64))
          else cv (pos * elemCount tt + j) % 2 ^ elemBits tt)

/-- Exact sums and products (R233 to R235): on finite values they are the rational sum and product; NaN is kept, opposite
infinities and zero times infinity give NaN, and an exact zero has the sign of R235.

The multiply's arithmetic (R246, R248): an INT8 element is the accumulator plus the exact sum of the 32 products modulo
2^32; a BF16 or FP16 element takes two roundings, one for each group of eight terms. -/
def Obligations.ExactArithmetic : Prop :=
  (∀ (rm : RMode) (a b : FVal), (∀ n m d q w e, a = .num n m d → b = .num q w e →
      (FVal.add rm a b).rat = a.rat + b.rat ∧ (FVal.mul a b).rat = a.rat * b.rat
      ∧ (a.rat + b.rat = 0 → ∃ z e', FVal.add rm a b = .num z 0 e' ∧ (z = true ↔ (n = true ∧ q = true) ∨ (rm = .rdn ∧ n ≠ q))))
    ∧ FVal.add rm .nan b = .nan ∧ FVal.add rm a .nan = .nan ∧ FVal.mul .nan b = .nan ∧ FVal.mul a .nan = .nan
    ∧ (∀ n, FVal.add rm (.inf n) (.inf !n) = .nan ∧ FVal.add rm (.inf n) (.inf n) = .inf n)
    ∧ ∀ n z m e, FVal.mul (.inf n) (.num z m e) = (if m = 0 then .nan else .inf (n != z))
      ∧ FVal.mul (.num z m e) (.inf n) = FVal.mul (.inf n) (.num z m e))
  ∧
  (∀ (cap : SMap (BitVec 32)) (row col acc : Nat),
    (let t (j : Nat) : Int := int8 (capElem cap 0 4 (row / 2) (row % 2) j) * int8 (capElem cap 64 4 (col / 2) (col % 2) j)
     (mmaInt cap row col acc : Int) = (acc + ((List.range 32).map t).sum) % 2 ^ 32)
    ∧ ∀ f ∈ [(0, fmtBf16), (1, fmtF16)],
      let a (j : Nat) : FVal := f.2.val (capElem cap 0 f.1 (row / 2) (row % 2) j)
      let b (j : Nat) : FVal := f.2.val (capElem cap 64 f.1 (col / 2) (col % 2) j)
      (∀ j < 16, (a j).isFinite = true ∧ (b j).isFinite = true) →
      ∃ s0 s1 : FVal, s0.rat = ((List.range 8).map fun j => (a j).rat * (b j).rat).sum
        ∧ s1.rat = ((List.range 8).map fun j => (a (8 + j)).rat * (b (8 + j)).rat).sum
        ∧ let r0 := fmtF32.enc .rne false (FVal.add .rne (fmtF32.val acc) s0)
          (mmaElem cap f.1 f.1 row col acc).1 = fmtF32.enc .rne false (FVal.add .rne (fmtF32.val r0) s1))

/-- Rounding (R233): in a format of infinities, a finite exact value that does not overflow becomes a number of the format;
RTZ, RDN and RUP give the nearest number of the format on their side, and RNE a number of the format than which none is nearer. -/
def Obligations.RoundingIsCorrect : Prop :=
  ∀ f ∈ [fmtF32, fmtF16, fmtBf16, fmtE5M2], ∀ (rm : RMode) (n : Bool) (m : Nat) (e : Int),
    let x := (FVal.num n m e).rat
    let r := f.enc rm false (.num n m e)
    r < 2 ^ (f.low + 1) ∧ ((f.val r).isFinite = true → ∀ v, (f.val v).isFinite = true →
      (rm = .rtz → |(f.val r).rat| ≤ |x| ∧ (|(f.val v).rat| ≤ |x| → |(f.val v).rat| ≤ |(f.val r).rat|))
      ∧ (rm = .rdn → (f.val r).rat ≤ x ∧ ((f.val v).rat ≤ x → (f.val v).rat ≤ (f.val r).rat))
      ∧ (rm = .rup → x ≤ (f.val r).rat ∧ (x ≤ (f.val v).rat → (f.val r).rat ≤ (f.val v).rat))
      ∧ (rm = .rne → |x - (f.val r).rat| ≤ |x - (f.val v).rat|))

/-- Cross-lane instructions (R315 to R320, R322): which lane each lane reads, the mask of non-zero lanes, prefixes in
ascending lane order, the tree of R249, and the ranks of VTOPK.

Integer sums of lanes (R229, R249, R318): without sat, VRED's and VQRED's add is the sum of the lanes of L modulo 2^32,
and so is VPREFIX's over the lanes before. -/
def Obligations.CrossLaneResults : Prop :=
  (∀ (s : State) (gid : Nat) (g : Group) (k : Kernel) (p : CPos) (f : CFields),
    let c := f.c.toNat
    let src (e : CEnv) (j : Nat) : Word := if (g.present ||| helpers g.present).getLsbD j then e.av j else 0
    let joined (e : CEnv) (op : RedOp) (ls : List Nat) : Nat :=
      (ls.foldl (fun t j => redJoin (stepOf e op) t (redLeaf e j)) none).getD (redIdentity e.ty op)
    (IssuesC (.vqswp f) s gid g k p → LaneResult (.vqswp f) s gid g k fun e l v =>
      v = src e (if c < 4 then l ^^^ c else l / 4 * 4 + (c - 4)))
    ∧ (IssuesC (.vshfl f) s gid g k p → LaneResult (.vshfl f) s gid g k fun e l v => v = src e ((e.bv l).toNat % 32))
    ∧ (IssuesC (.vbcast f) s gid g k p → LaneResult (.vbcast f) s gid g k fun e l v => v = src e ((e.bv l).toNat % 32))
    ∧ (IssuesC (.vballot f) s gid g k p →
      let ok (e : CEnv) (v : Word) : Prop := ∀ l, v.getLsbD l = true ↔ l < 32 ∧ e.lset.getLsbD l = true ∧ e.av l ≠ 0
      (f.dk = 0 → LaneResult (.vballot f) s gid g k fun e _ v => ok e v)
      ∧ (f.dk ≠ 0 → UniformResult (.vballot f) s gid g k ok))
    ∧ (IssuesC (.vprefix f) s gid g k p → let e := cEnv k g (.vprefix f)
      ∃ val, exec (.vprefix f) s = .next (cNext s gid e (putLanes { e with wide := e.lset } (popLq e g) val)) ∧
        ∀ l, l < 32 → e.lset.getLsbD l = true →
          val l = BitVec.ofNat 64 (joined e (prefixOp (c % 4)) (lanesUpTo e.lset (c / 4 % 2 = 1) l)))
    ∧ (IssuesC (.vred f) s gid g k p →
      let tree (e : CEnv) : Nat := (redTree (stepOf e (redOp c)) (redLeaf e) 5 0).getD (redIdentity e.ty (redOp c))
      (f.dk = 0 → LaneResult (.vred f) s gid g k fun e _ v => v = BitVec.ofNat 64 (tree e))
      ∧ (f.dk ≠ 0 → UniformResult (.vred f) s gid g k fun e v =>
        v = if f.ty = 0 then (BitVec.ofNat 32 (tree e)).signExtend 64 else BitVec.ofNat 64 (tree e)))
    ∧ (IssuesC (.vqred f) s gid g k p → LaneResult (.vqred f) s gid g k fun e l v =>
      let q (j : Nat) : Option Nat := redLeaf e (l / 4 * 4 + j)
      let j2 := redJoin (stepOf e (redOp c))
      v = BitVec.ofNat 64 ((j2 (j2 (q 0) (q 1)) (j2 (q 2) (q 3))).getD (redIdentity e.ty (redOp c))))
    ∧ (IssuesC (.vtopk f) s gid g k p → let e := cEnv k g (.vtopk f)
      ∃ x hi lo, exec (.vtopk f) s = .next (cNext s gid e x) ∧ x = { popLq e g with pend := g.pend ++
          [{ reg := .v f.d.toNat, val := onLanes (g.present ||| helpers g.present) hi, left := 6 },
           { reg := .v (f.d.toNat + 1), val := onLanes (g.present ||| helpers g.present) lo, left := 6 }] } ∧
        ∀ r, r < 32 → (r < c ∧ r < (lanesOf e.lset).length → ∃ j ∈ lanesOf e.lset, topRank e j = r ∧
            hi r = e.av j &&& 0xFFFFFFFF ∧ lo r = BitVec.ofNat 64 j)
          ∧ (¬ (r < c ∧ r < (lanesOf e.lset).length) → hi r = 0 ∧ lo r = 0xFF))
    ∧ (IssuesC (.kfromv f) s gid g k p → UniformResult (.kfromv f) s gid g k fun e v =>
      v = src e ((e.bv 0).toNat % 32) &&& 0xFFFFFFFF)
    ∧ (IssuesC (.vfromk f) s gid g k p → LaneResult (.vfromk f) s gid g k fun _ l v =>
      v = if (kReg g f.a.toNat).getLsbD l then 0xFFFFFFFF else 0))
  ∧
  (∀ (e : CEnv), e.ty = 0 ∨ e.ty = 1 → e.f.mod = 0 →
    let step := stepOf e .add
    let sum (ls : List Nat) : Nat := (ls.map fun l => (e.av l).toNat).sum % 2 ^ 32
    (redTree step (redLeaf e) 5 0).getD 0 = sum (lanesOf e.lset)
    ∧ (∀ q < 8, (redTree step (redLeaf e) 2 (4 * q)).getD 0 = sum ((lanesOf e.lset).filter fun l => l / 4 = q))
    ∧ ∀ l < 32, ∀ incl, ((lanesUpTo e.lset incl l).foldl (fun t j => redJoin step t (redLeaf e j)) none).getD 0
        = sum (lanesUpTo e.lset incl l))

/-- Moves, index registers, masks, counters and the operand buffer (R307, R323 to R328, R332): VMOV and XSET write lanes,
XBOUND, EMNARROW, EMRESTORE and the counters act at once, NOP and REGION change nothing that a program reads, and END leaves
the C-stream between blocks with every write of the block made.

KOP (R321): the sixteen operations on its two uniform operands, on 64 bits, or on 32 bits with the result
zero-extended. -/
def Obligations.MaskMoveAndUniformResults : Prop :=
  (∀ (s : State) (gid : Nat) (g : Group) (k : Kernel) (p : CPos) (f : CFields),
    let low (e : CEnv) : BitVec 32 := (e.av 0).truncate 32
    let c := f.c.toNat
    let does (i : Instr) (q : CEnv → Group → Prop) : Prop :=
      ∃ x, exec i s = .next (cNext s gid (cEnv k g i) x) ∧ q (cEnv k g i) x
    let kept (e : CEnv) (l : Nat) (v : Word) : Word := if e.zero.getLsbD l then 0 else v
    (IssuesC (.nop f) s gid g k p → does (.nop f) fun _ x => x = g)
    ∧ (IssuesC (.end_ f) s gid g k p → Leaves (.end_ f) s gid fun t g' =>
      g'.cpos = none ∧ g'.pend = [] ∧ g'.pc = g.pc ∧ g'.s = g.s ∧ g'.a = g.a ∧ g'.lq = g.lq ∧ t.mem = s.mem)
    ∧ (IssuesC (.vmov f) s gid g k p → (f.ak = 3 ∨ f.imm.getLsbD 0 = false) →
      LaneResult (.vmov f) s gid g k fun e l v => v = e.av l)
    ∧ (IssuesC (.vmov f) s gid g k p → f.ak ≠ 3 → f.imm.getLsbD 0 = true → f.ty = 13 → does (.vmov f) fun e x =>
      x = { popLq e g with pend := g.pend ++ ((lanesOf e.wide).filter fun l => !idxBad g k.hdr.nv false f.d.toNat l).map fun l =>
        { reg := .v (idxReg g f.d.toNat l), val := [(l, kept e l (e.av l &&& 0xFFFFFFFF))], left := 2 } })
    ∧ (IssuesC (.xset f) s gid g k p → does (.xset f) fun e x => x = { popLq e g with
        pend := g.pend ++ [{ reg := .x c, val := onLanes e.wide fun l => kept e l (e.av l &&& 0xFFFF), left := 2 }] })
    ∧ (IssuesC (.xbound f) s gid g k p → does (.xbound f) fun e x => x = { popLq e g with xb := x.xb } ∧
        ∀ j, xBounds x j = if j = c then ((e.av 0).toNat % 256, (e.bv 0).toNat % 256) else xBounds g j)
    ∧ (IssuesC (.emnarrow f) s gid g k p → does (.emnarrow f) fun e x =>
        x = { popLq e g with cmask := g.cmask &&& low e &&& g.present })
    ∧ (IssuesC (.emrestore f) s gid g k p → does (.emrestore f) fun e x =>
        x = { popLq e g with cmask := (g.cmask ||| low e) &&& g.snap &&& g.present })
    ∧ (∀ y ∈ ([(.nif f, fun e l v => if v ≠ 0 then Nat.min (v + 1) 65535 else if e.av l = 0 then 1 else 0),
        (.nelse f, fun _ _ v => if v = 1 then 0 else if v = 0 then 1 else v), (.nend f, fun _ _ v => v - 1),
        (.nbreak f, fun e l v => if v = 0 ∧ e.av l ≠ 0 then c else v)] : List (Instr × (CEnv → Nat → Nat → Nat))),
      IssuesC y.1 s gid g k p → does y.1 fun e x => x = { popLq e g with ctr := x.ctr } ∧ ∀ l, l < 32 →
        (SMap.get x.ctr 0 l).toNat = (if (withHelpers g (mselMask g f)).getLsbD l = true
          then y.2 e l (SMap.get g.ctr 0 l).toNat else (SMap.get g.ctr 0 l).toNat))
    ∧ (IssuesC (.region f) s gid g k p → does (.region f) fun e x => ∃ b, x = { popLq e g with obuf := b } ∧
        ∀ n, n ∈ b ↔ ∃ j < 24, f.imm.getLsbD j = true ∧ n = f.d.toNat + j))
  ∧
  (∀ (s : State) (gid : Nat) (g : Group) (k : Kernel) (p : CPos) (f : CFields), IssuesC (.kop f) s gid g k p →
    UniformResult (.kop f) s gid g k fun e v =>
      let n := if f.ty = 13 then 32 else 64
      let x : Nat := (e.av 0).toNat % 2 ^ n
      let y : Nat := (e.bv 0).toNat % 2 ^ n
      let i : Int := if f.ty = 12 ∨ f.ty = 13 then x else sAt n (e.av 0)
      let j : Int := if f.ty = 12 ∨ f.ty = 13 then y else sAt n (e.bv 0)
      let m := y % n
      let z : Int := v.toNat
      v.toNat < 2 ^ n ∧ match f.c.toNat with
        | 0 => z = ((x : Int) + y) % 2 ^ n
        | 1 => z = ((x : Int) - y) % 2 ^ n
        | 2 => z = (x : Int) * y % 2 ^ n
        | 3 => ∀ b < n, v.getLsbD b = (x.testBit b && y.testBit b)
        | 4 => ∀ b < n, v.getLsbD b = (x.testBit b || y.testBit b)
        | 5 => ∀ b < n, v.getLsbD b = (x.testBit b ^^ y.testBit b)
        | 6 => ∀ b < n, v.getLsbD b = (x.testBit b && !y.testBit b)
        | 7 => ∀ b < n, v.getLsbD b = (decide (m ≤ b) && x.testBit (b - m))
        | 8 => ∀ b < n, v.getLsbD b = x.testBit (b + m)
        | 9 => ∀ b < n, v.getLsbD b = x.testBit (Nat.min (b + m) (n - 1))
        | 10 => z = Min.min i j % 2 ^ n
        | 11 => z = Max.max i j % 2 ^ n
        | 12 => v.toNat = ((List.range n).map fun b => x / 2 ^ b % 2).sum
        | 13 => v.toNat ≤ n ∧ x < 2 ^ (n - v.toNat) ∧ (v.toNat < n → 2 ^ (n - 1 - v.toNat) ≤ x)
        | 14 => v.toNat ≤ n ∧ x % 2 ^ v.toNat = 0 ∧ (v.toNat < n → x / 2 ^ v.toNat % 2 = 1)
        | _ => z = flag (x = y))

/-- VPACK and VUNPK (R241 to R245, R329, R330): the nibbles of the i4 form; the MX forms' record bytes from the quantised
block and their decode; the two registers of a K4V super-block and the twelve of its decode. -/
def Obligations.PackResults : Prop :=
  ∀ (s : State) (gid : Nat) (g : Group) (k : Kernel) (p : CPos) (f : CFields),
    let c := f.c.toNat
    let inSet (e : CEnv) (l : Nat) (v : Nat) : FVal := if e.lset.getLsbD l then fmtF32.val v else .num false 0 (-149)
    let kept (e : CEnv) (l : Nat) (v : Word) : Word := if e.zero.getLsbD l then 0 else v
    (c = 0 → IssuesC (.vpack f) s gid g k p → LaneResult (.vpack f) s gid g k fun e l v => ∀ j < 8,
      let x := if j < 4 then elemAt 8 j (e.av l) else elemAt 8 (j - 4) (e.bv l)
      (elemAt 4 j v : Int) = (if f.mod.getLsbD 0 then (if f.ty = 4 then Max.max (-8) (Min.min 7 (toI 4 x)) else Min.min x 15) else x) % 16)
    ∧ (c ≠ 0 → c ≠ 6 → IssuesC (.vpack f) s gid g k p → LaneResult (.vpack f) s gid g k fun e l v =>
      let q := mxQuant c ((List.range 32).map fun j => inSet e j ((e.av j).toNat % 2 ^ 32))
      v.toNat = mxRecord c q.1 q.2 / 2 ^ (8 * (l + 1)) % 256 + 256 * q.1)
    ∧ (c = 6 → IssuesC (.vpack f) s gid g k p → let e := cEnv k g (.vpack f)
      let r := k4vEncode ((List.range 384).map fun n => inSet e (n % 32) (vReg g (f.a.toNat + n / 32) (n % 32)).toNat)
      exec (.vpack f) s = .next (cNext s gid e { popLq e g with pend := g.pend ++ [0, 1].map fun j =>
        { reg := .v (f.d.toNat + j), val := onLanes e.wide fun l => kept e l (BitVec.ofNat 64 (r / 2 ^ (64 * l + 32 * j) % 2 ^ 32)), left := 4 } }))
    ∧ (c % 16 = 0 → IssuesC (.vunpk f) s gid g k p → LaneResult (.vunpk f) s gid g k fun e l v => ∀ j < 4,
      toI f.ty.toNat (elemAt 8 j v) = (let x := elemAt 4 (c / 16 * 4 + j) (e.av l)
        if f.ty = 4 ∧ 8 ≤ x then (x : Int) - 16 else x))
    ∧ (c % 16 ≠ 0 → c % 16 ≠ 6 → IssuesC (.vunpk f) s gid g k p → LaneResult (.vunpk f) s gid g k fun e l v =>
      let at_ (j : Nat) : Nat := (sourceVal g e.a j).toNat
      let bytes := (List.range 32).foldl (fun x j => x + at_ j % 256 * 2 ^ (8 * j)) 0
      v.toNat = fmtF32.enc .rne false (decodeMX (at_ 0 / 256 % 256) (mxField (c % 16) l bytes) (c % 16)))
    ∧ (c % 16 = 6 → IssuesC (.vunpk f) s gid g k p → let e := cEnv k g (.vunpk f)
      let word (n l : Nat) : Nat := if (sourceLanes g).getLsbD l then (vReg g (f.a.toNat + n) l).toNat else 0
      let r := (List.range 32).foldl (fun x l => x + (word 0 l + word 1 l * 2 ^ 32) * 2 ^ (64 * l)) 0
      exec (.vunpk f) s = .next (cNext s gid e { popLq e g with pend := g.pend ++ (List.range 12).map fun n =>
        { reg := .v (f.d.toNat + n)
          val := onLanes e.wide fun l => kept e l (BitVec.ofNat 64 (fmtF32.enc .rne false (k4vDecode r (32 * n + l)))), left := 4 } }))

/-- The cut of R244: any 384 values are cut into 1 to 16 blocks of 8 to 128 elements, the first at element 0, as R243 asks
of a well-formed super-block.

Element fields of a packed record (R137, R239): reading position `p` of the packed fields gives the field put there. -/
def Obligations.RecordFormats : Prop :=
  (∀ (xs : List FVal), xs.length = 384 →
    let starts := k4vCut xs
    starts.head? = some 0 ∧ starts.length ≤ 16 ∧ starts.Pairwise (· < ·) ∧ (blockLens starts).sum = 384
    ∧ ∀ n ∈ blockLens starts, 8 ≤ n ∧ n ≤ 128)
  ∧
  (∀ code ∈ [1, 2, 3, 4, 5, 7], ∀ (fields : List Nat), (∀ x ∈ fields, x < 2 ^ mxWidth code) →
    ∀ p, p < fields.length → mxField code p (mxPack code fields) = fields.getD p 0)

/-- Latencies and queues of the C-stream (R21, R28, R264, R305): a lane write reaches its register exactly when the stall counts
behind it reach its latency, in the lanes of L and helper lanes only, with zero in a helper lane that would fault; an SDQ push
carries L and zeros outside it; a pop takes the operands' entries. -/
def Obligations.LaneWritesLand : Prop :=
  ∀ (g : Group) (e : CEnv) (val : Nat → Word) (n : Nat), g.pend = [] →
    let out (l : Nat) : Word := if e.zero.getLsbD l then 0 else val l
    (e.f.dk = 0 → isPair e.ty = false →
      let x := agePend (putLanes e g val) n
      ∀ r l, l < 32 → vReg x r l =
        if latency e.i ≤ n ∧ r = e.f.d.toNat ∧ e.wide.getLsbD l = true then (out l).truncate 32 else vReg g r l)
    ∧ (e.f.dk = 0 → isPair e.ty = true → latency e.i ≤ n →
      let x := agePend (putLanes e g val) n
      ∀ l, l < 32 → e.wide.getLsbD l = true → vReg x e.f.d.toNat l = (out l).truncate 32
        ∧ vReg x (e.f.d.toNat + 1) l = ((out l) >>> 32).truncate 32)
    ∧ (e.f.dk = 2 → let x := putLanes e g val
      x.v = g.v ∧ x.pend = [] ∧ x.sdq.length = g.sdq.length + 1 ∧ ∀ y, x.sdq.getLast? = some y → y.mask = e.lset ∧
        ∀ l, l < 32 → SMap.get y.data 0 l = if e.lset.getLsbD l = true then (val l).truncate 32 else 0)
    ∧ (∀ v, (e.f.dk = 3 → putUniform e g v = { g with xq := g.xq ++ [v] })
      ∧ (e.f.dk = 1 → latency e.i ≤ n → ∀ r, kReg (agePend (putUniform e g v) n) r =
          if r = e.f.d.toNat ∧ r ≠ 0 then v else kReg g r))
    ∧ (popLq e g).lq = g.lq.drop e.pops

/-- The faults of the C-stream in their order (R25, R32, R264, R268, R305, R306): ILLEGAL first, then the waits, during which nothing
changes, then STALL, BOUND and ECC; each is taken at the instruction, with nothing popped. -/
def Obligations.CStreamFaults : Prop :=
  ∀ (s : State) (gid : Nat) (g : Group) (k : Kernel) (p : CPos) (i : Instr), (cSpec i).isSome = true →
    Acts s gid g k → g.cpos = some p → canIssueC g = true →
    let e := cEnv k g i
    let reads := regsRead g i e.b e.lset
    let stalled := checkedStalls k && reads.any fun r => (g.pend.map (·.reg)).contains r.1
    (cIllegal k p i = true → exec i s = .next (takeFault s gid { code := 0x01, pc := g.pc, w7 := cLow i, cside := true }))
    ∧ (cIllegal k p i = false → cWaits g i e = true → exec i s = .next s)
    ∧ (cIllegal k p i = false → cWaits g i e = false →
      (stalled = true → exec i s = .next (takeFault s gid { code := 0x0A, pc := g.pc, cside := true }))
      ∧ (stalled = false → ∀ m w, boundFault k g i e.lset = some (m, w) →
        exec i s = .next (takeFault s gid { code := 0x08, pc := g.pc, w5 := m, w7 := w, cside := true }))
      ∧ (stalled = false → boundFault k g i e.lset = none → reads.any (readBad g.badRegs) = true →
        exec i s = .next (takeFault s gid { code := 0x0E, pc := g.pc, w5 := eccLanes g.badRegs g i e, cside := true })))

/-! ### Matrix instructions (R246, R248, R334 to R344) -/

/-- Issue of the matrix instructions and the batch instructions: a multiply or tile move captures its operands, joins the
group's open operations and goes on; MBF numbers and closes the batch; MBW goes on when its batch is complete; MBIND binds. -/
def Obligations.MatrixIssue : Prop :=
  ∀ (s : State) (gid : Nat) (g : Group) (k : Kernel) (p : CPos) (f : CFields),
    let fa := f.imm.toNat % 16
    let fb := f.imm.toNat / 16 % 16
    let cb := f.imm.toNat % 8
    let at_ (m : SMap (BitVec 32)) (reg l : Nat) : BitVec 32 := SMap.get m 0 (32 * reg + l)
    let src (r l : Nat) : BitVec 32 := if (sourceLanes g).getLsbD l = true then vReg g r l else 0
    let issued (i : Instr) (q : MOp → Prop) : Prop := Leaves i s gid fun t g' => ∃ o, g'.mops = g.mops ++ [o] ∧
      o.batch = none ∧ q o ∧ g'.v = (cAdvance (cEnv k g i) g).v ∧ g'.cpos = some { p with idx := p.idx + 1 } ∧ g'.pc = g.pc ∧ t.mem = s.mem
    (opRoom s g = true →
      (IssuesC (.mma f) s gid g k p → issued (.mma f) fun o => o.kind = .mma fa fb ∧ o.tile = f.d.toNat
        ∧ o.lanes = (cEnv k g (.mma f)).wide ∧ ∀ l < 32,
          (∀ r < 2 * mmaWords fa, at_ o.cap r l = src (f.a.toNat + r) l)
          ∧ (∀ r < 2 * mmaWords fb, at_ o.cap (64 + r) l = src (f.b.toNat + r) l)
          ∧ (4 ≤ mmaClass fa → ∀ r < 2, at_ o.cap (128 + r) l = src (f.c.toNat + r) l))
      ∧ (IssuesC (.mzero f) s gid g k p → issued (.mzero f) fun o => o.kind = .mzero ∧ o.tile = f.d.toNat
        ∧ o.lanes = (cEnv k g (.mzero f)).wide)
      ∧ (IssuesC (.mload f) s gid g k p → issued (.mload f) fun o => o.kind = .mload cb ∧ o.tile = f.d.toNat
        ∧ o.lanes = (cEnv k g (.mload f)).wide ∧ ∀ l < 32, ∀ r < 16, at_ o.cap r l = src (f.a.toNat + r) l)
      ∧ (IssuesC (.mstore f) s gid g k p → issued (.mstore f) fun o => o.kind = .mstore cb f.d.toNat ∧ o.tile = f.a.toNat
        ∧ o.lanes = (cEnv k g (.mstore f)).wide)
      ∧ (IssuesC (.mdrain f) s gid g k p → let e := cEnv k g (.mdrain f)
        let asp := fb % 4
        (e.lset = 0 → exec (.mdrain f) s = .next (setGrp (takeToken s g.ctx) gid (cAdvance e g)))
        ∧ (e.lset ≠ 0 → ∀ s1 s2 l dst pages, checkBarrier s (cView g) (f.imm.toNat / 64 % 4) (kReg g f.c.toNat) = (s1, .ok l) →
          drainDest s1 (cView g) asp (kReg g f.b.toNat) fa = (s2, .ok (dst, pages)) →
          let n := newSerial s2
          let r := cmdRanges n.2 (coreDie g.core) g.ctx [⟨asp, dst, 64 * drainRow fa, true⟩]
          ∀ s3, lockAll r.1 g.core (.engine n.1) r.2.1 = some s3 → (SMap.find? s3.ctxs g.ctx).isSome = true →
            Leaves (.mdrain f) s gid fun t g' => (∃ o, g'.mops = g'.mops.dropLast ++ [o] ∧ o.kind = .mdrain n.1 ∧ o.tile = f.a.toNat)
              ∧ ∃ c, SMap.find? t.engines n.1 = some c ∧ c.kind = .mdrain dst fa (rowSet e.lset) pages ∧ c.barrier = some l
                ∧ c.ready = false ∧ c.token = (ctxOf s3 g.ctx).token + 1))
      ∧ (IssuesC (.mdrainWindow f) s gid g k p → fb % 4 = 0 → ∀ s1 s2 d m, drainWindow s (cView g) (kReg g f.b.toNat) = (s1, .ok d) →
        windowPages s1 (cView g) (kReg g f.b.toNat) (drainSize d)
          (drainOffsets (laneRows (cEnv k g (.mdrainWindow f)).lset) (drainSize d)) = (s2, .ok m) →
        Leaves (.mdrainWindow f) s gid fun _ g' => ∃ o, g'.mops = g'.mops.dropLast ++ [o]
          ∧ o.kind = .mdrainWindow (kReg g f.b.toNat) m ∧ o.tile = f.a.toNat))
    ∧ (IssuesC (.mbf f) s gid g k p → UniformResult (.mbf f) s gid (closeBatch g) k fun _ v => v = BitVec.ofNat 64 g.batchN)
    ∧ (IssuesC (.mbw f) s gid g k p → let e := cEnv k g (.mbw f)
      (∀ b ∈ g.batches, b.n = (e.av 0).toNat % 65536 → b.open_ = []) → exec (.mbw f) s = .next (cNext s gid e g))
    ∧ (IssuesC (.mbind f) s gid g k p → let addr := kReg g f.a.toNat
      let e := cEnv k g (.mbind f)
      (addr = 0 → exec (.mbind f) s = .next (cNext s gid e { g with mbind := none }))
      ∧ (addr ≠ 0 → ∀ s1 l, checkBarrier s (cView g) (f.imm.toNat % 4) addr = (s1, .ok l) → grp? s1 gid = some g →
        exec (.mbind f) s = .next (cNext s1 gid e { g with mbind := some (addr, f.imm.toNat % 4) })))

/-- MATRIX_OP_COMPLETE and BATCH_COMPLETE (R335, R339 to R341): an operation that is first on its tile leaves the group's
list, and its rows hold zeros, the captured registers or the multiply's results, or its registers hold the tile's elements;
a batch all of whose members are complete leaves the list, and sends its arrival when it is bound. -/
def Obligations.MatrixCompletion : Prop :=
  ∀ (s : State) (gid : Nat) (g : Group) (o : MOp) (n : Nat), grp? s gid = some g →
    (g.mops.find? fun x => x.id = n) = some o → opFirst s g o = true → tileErrors s g (tileAt s g o.tile) o.kind = 0 →
    g.stop = none → n = o.id →
    let t := tileAt s g o.tile
    let done (q : State → Group → Prop) : Prop := Leaves (.matrixOpComplete gid n) s gid fun u g' =>
      (∀ x ∈ g'.mops, x.id ≠ n) ∧ g'.pc = g.pc ∧ q u g'
    let tiles (row : Nat → Nat → Option (BitVec 32)) : Prop := done fun u _ => ∀ r c, r < 64 → c < 64 →
      accGet u g.core t r c = (row r c).getD (accGet s g.core t r c)
    let named (r : Nat) : Bool := o.lanes.getLsbD (r / 2)
    (o.kind = .mzero → tiles fun r _ => if named r then some 0 else none)
    ∧ (∀ cb, o.kind = .mload cb → cb < 8 → tiles fun r c =>
      if named r ∧ c / 8 = cb then some (SMap.get o.cap 0 (32 * (8 * (r % 2) + c % 8) + r / 2)) else none)
    ∧ (∀ fa fb, o.kind = .mma fa fb → tiles fun r c => if named r then some (BitVec.ofNat 32
        (if mmaClass fa = 3 then mmaInt o.cap r c (accGet s g.core t r c).toNat
          else (mmaElem o.cap fa fb r c (accGet s g.core t r c).toNat).1)) else none)
    ∧ (∀ cb base, o.kind = .mstore cb base → done fun _ g' => ∀ r l, l < 32 → vReg g' r l =
        if o.lanes.getLsbD l = true ∧ base ≤ r ∧ r < base + 16
        then accGet s g.core t (2 * l + (r - base) / 8) (8 * cb + (r - base) % 8) else vReg g r l)
    ∧ (∀ id, o.kind = .mdrain id → done fun u _ => ∀ c, SMap.find? s.engines id = some c → ∀ a b rows pg,
        c.kind = .mdrain a b rows pg → ∃ c', SMap.find? u.engines id = some c' ∧ c'.ready = true
          ∧ ∀ r j, r < 64 → j < 64 → rows.getLsbD r = true → SMap.get c'.cap 0 (64 * r + j) = accGet s g.core t r j)
    ∧ (∀ m b, (g.batches.find? fun x => x.n = m) = some b → b.open_ = [] → b.bound = none →
      exec (.batchComplete gid m) s = .next (setGrp s gid { g with batches := g.batches.filter fun x => x.n ≠ m }))
    ∧ (∀ m b addr, (g.batches.find? fun x => x.n = m) = some b → b.open_ = [] → b.bound = some (addr, 1) → addr.toNat % 32 = 0 →
      ∀ l, scratchLoc s g addr.toNat 32 = some l → Does (.batchComplete gid m) s fun u =>
        u.homeQ = s.homeQ ++ [{ home := l, core := g.core, slot := slotOf s g.ctx, from_ := none,
                                op := .arrive 1 { b.status with member := g.handle % 65536 } }])

/-! ### Damask (R376 to R394) -/

/-- The scalar, control, waiting and signalling instructions of Odnar (R384, R385, R388, R391): what each writes, where it
goes on, when it waits, and what it sends.

The end of a round (R382, R388): ACKW of a window not yet acknowledged makes one arrival at its barrier with the round
status and reopens its area; END leaves the instance free and no message of the round held. -/
def Obligations.OdnarControlResults : Prop :=
  (∀ (s : State) (n : Nat) (x : Inst) (p : Plan) (o : OFields), RunsO s n x p →
    let a := gReg x o.a
    let b := gReg x o.b
    let imm : Word := BitVec.ofInt 64 o.imm.toInt
    let goes (i : Instr) (y : Inst) : Prop := exec i s = .next (modInst s n fun _ => y)
    let puts (i : Instr) (v : Word) : Prop := goes i (oAdvance (wg x o.d v))
    let nat (v : Nat) : Word := BitVec.ofNat 64 v
    let none_ : Word := BitVec.allOnes 64
    let q := o.imm.toNat % 256
    let off : Int := (o.imm.extractLsb' 0 20).toInt
    let c := cReg x (o.d.toNat % 4)
    let setC (v : BitVec 32) : Inst := { x with c := SMap.set x.c 0 (o.d.toNat % 4) v }
    let nc : BitVec 32 := (a + BitVec.ofInt 64 (o.imm.extractLsb' 20 20).toInt).truncate 32
    goes (.odnarNop o) (oAdvance x)
    ∧ (∀ y ∈ [(0, imm), (1, nat p.rank), (2, nat p.nranks), (3, x.arg), (4, p.sig), (5, nat x.seq), (6, nat (s.now / 17)),
        (7, nat p.chunk), (9, (cReg x 0).zeroExtend 64), (10, (cReg x 1).zeroExtend 64), (11, (cReg x 2).zeroExtend 64),
        (12, (cReg x 3).zeroExtend 64)], o.f = y.1 → puts (.setg o) y.2)
    ∧ (∀ w win, planWin s p (o.imm.toNat % 16) = some (w, win) → let len := win.desc.length
      let j := a.toNat
      (o.f = 8 → puts (.setg o) (nat len))
      ∧ (o.f = 0 → 0 < p.chunk → puts (.chunk o) (nat ((len + p.chunk - 1) / p.chunk)))
      ∧ (o.f = 1 → puts (.chunk o) (nat (Nat.min p.chunk (len - j * p.chunk))))
      ∧ (o.f = 2 → puts (.chunk o) (nat (Nat.min (j * p.chunk) len)))
      ∧ (goes (.waitWin o) (if win.desc.closers ≤ win.closes then oAdvance x else x)))
    ∧ (∀ y ∈ [(0, a + b), (1, a - b), (2, a * b), (3, a &&& b), (4, a ||| b), (5, a ^^^ b), (6, nat (Nat.min a.toNat b.toNat)),
        (7, nat (Nat.max a.toNat b.toNat))], o.f = y.1 → puts (.addg o) (y.2 + imm))
    ∧ (o.f = 0 → puts (.peer o) (BitVec.ofInt 64 (((p.rank : Int) + a.toInt + o.imm.toInt) % p.nranks)))
    ∧ (o.f = 1 → let r := nat p.rank ^^^ (a + imm)
      puts (.peer o) (if r.toNat < p.nranks then r else none_))
    ∧ (o.f = 2 → puts (.peer o) (if p.rank = 0 then none_ else nat ((p.rank - 1) / q)))
    ∧ (o.f = 3 → puts (.peer o) (if a.toNat < q ∧ p.rank * q + 1 + a.toNat < p.nranks then nat (p.rank * q + 1 + a.toNat) else none_))
    ∧ (o.f = 4 → puts (.peer o) (nat (Nat.min q (p.nranks - (p.rank * q + 1)))))
    ∧ goes (.loop o) (if nc = 0 then oBranch (setC nc) off else oAdvance (setC nc))
    ∧ goes (.endl o) (if c = 0 then oAdvance x else if c = 1 then oAdvance (setC 0) else oBranch (setC (c - 1)) off)
    ∧ (∀ y ∈ ([(0, a = b), (1, a ≠ b), (2, a.toNat < b.toNat), (3, b.toNat ≤ a.toNat), (4, a.toInt < b.toInt),
        (5, b.toInt ≤ a.toInt), (6, True)] : List (BitVec 4 × Prop)), o.f = y.1 →
      (y.2 → goes (.brg o) (oBranch x o.imm.toInt)) ∧ (¬ y.2 → goes (.brg o) (oAdvance x)))
    ∧ (let key (m : DMsg) : Prop := m ∈ p.bufs ∧ m.seq = x.seq ∧ m.source = a.toNat ∧ m.chunk = b.toNat ∧ m.tag = o.imm.extractLsb' 4 16
       ((∃ m, key m) → puts (.match_ o) 1) ∧ ((∀ m, ¬ key m) → puts (.match_ o) 0))
    ∧ goes (.waitSig o) (if p.sig = a then x else oAdvance x)
    ∧ goes (.waitTime o) (if a.toNat ≤ s.now / 17 then oAdvance x else { x with timed := some a })
    ∧ goes (.bset o) (oAdvance { x with status := mergeStatus x.status {
        bits := o.imm.extractLsb' 0 12
        failures := if o.imm.extractLsb' 0 12 &&& failMask = 0 then 0 else 1, member := a.toNat % 65536 } })
    ∧ (x.timed = none → skewedRank s p = none →
      (s.now / 17 < a.toNat → goes (.tstart o) { x with timed := some a })
      ∧ (a.toNat = s.now / 17 → puts (.tstart o) 0)
      ∧ (a.toNat < s.now / 17 → ∃ y, goes (.tstart o) (oAdvance (wg y o.d 1)) ∧ y = { x with status := y.status }
        ∧ ∀ i < 12, y.status.testBit i = (x.status.testBit i || stLate.getLsbD i)))
    ∧ (∀ s1 l, barrierHome s p.ctx a = (s1, .ok l) →
      (exec (.waitBar o) s = .next (if barPh (barRead s1 0 (slotOf s1 p.ctx) l).ctl = o.imm.getLsbD 0 then s1 else modInst s1 n oAdvance))
      ∧ ∀ y ∈ [(Instr.signal o, BarOp.arrive (o.imm.toNat % 65536) {}), (.signalSub o, .complete (b.toNat % 2 ^ 32) {})],
        Does y.1 s fun t => inst? t n = some (oAdvance x) ∧ t.homeQ = s1.homeQ ++
          [{ home := l, core := 0, slot := slotOf s1 p.ctx, from_ := none, op := y.2 }])
    ∧ (∀ s1 e, barrierHome s p.ctx a = (s1, .error e) → ∀ i ∈ [Instr.waitBar o, .signal o, .signalSub o],
      Does i s fun t => t.homeQ = s1.homeQ ∧ inst? t n = some (oAdvance (mergeRound x (stProto ||| stFpart) p.rank)))
    ∧ (p.prio < 4 → Does (.yieldc o) s fun t => inst? t n = some (oAdvance x) ∧ ∀ d,
        SMap.find? t.damask.served (4 * d + p.prio) = (SMap.find? s.damask.served (4 * d + p.prio)).map fun _ => n))
  ∧
  (∀ (s : State) (n : Nat) (x : Inst) (p : Plan) (o : OFields), RunsO s n x p →
    let idx := o.imm.toNat % 16
    (x.acked.contains idx = true → exec (.ackw o) s = .next (modInst s n fun _ => oAdvance x))
    ∧ (x.acked.contains idx = false → ∀ w win s1 l, planWin s p idx = some (w, win) →
      barrierHome s p.ctx win.desc.bva = (s1, .ok l) → Does (.ackw o) s fun t =>
        inst? t n = some (oAdvance { x with acked := idx :: x.acked })
        ∧ t.homeQ = s1.homeQ ++ [{
            home := l, core := 0, slot := slotOf s1 p.ctx, from_ := none, win := some (w, x.seq)
            op := .arrive 1 { bits := BitVec.ofNat 12 x.status, failures := x.status / 2 ^ 32, member := bits x.status 16 16 } }]
        ∧ SMap.find? t.damask.wins w = some { win with area := [], closes := 0, scales := [] })
    ∧ Does (.odnarEnd o) s fun t => inst? t n = none ∧ ∀ q, plan? t x.plan = some q → ∀ m ∈ q.bufs, m.seq ≠ x.seq)

/-- The data steps of Odnar (R386, R387, R389): what a step that begins sends, receives, combines, delivers and copies. -/
def Obligations.OdnarDataSteps : Prop :=
  ∀ (s : State) (d n : Nat) (x : Inst) (p : Plan) (o : OFields) (w : Nat) (win : Win),
    planWin s p (o.imm.toNat % 16) = some (w, win) →
    let a := (gReg x o.a).toNat
    let b := (gReg x o.b).toNat
    let reduce := win.desc.kind = 2
    let elems (j : Nat) : List (Option (BitVec 32)) := (List.range (chunkElems p win j)).map fun k => SMap.find? x.acc k
    let used (i : Instr) (m : DMsg) : State := useMsg (stepBegun s d n x p i) x.plan p m
    let after (i : Instr) (y : Inst) (q : State → Prop) : Prop := Does i s fun t => inst? t n = some (oAdvance y) ∧ q t
    let sends (i : Instr) (y : Inst) (peer : Nat) (m : DMsg) : Prop := after i y fun t => MsgSent t m ∧
      (plan? t x.plan).map (fun q => SMap.get q.used 0 peer) = some (SMap.get p.used 0 peer + 1)
    let fresh (peer j : Nat) (form : DForm) (items : List (Option (BitVec 32))) : DMsg :=
      {
        comm := p.comm, seq := x.seq, source := p.rank, dest := peer, chunk := j, tag := o.imm.extractLsb' 4 16,
        origin := p.rank, window := o.imm.toNat % 16, form := form, items := items }
    (∀ i, i = Instr.sendAcc o → StepBegins s d n x p i → Routed s p a → reduce → x.accRaw = false → sends i x a (fresh a b .fp32 (elems b)))
    ∧ (∀ i, i = Instr.sendOwn o → StepBegins s d n x p i → Routed s p a →
      sends i x a (fresh a b (ownItems p win b).1 (ownItems p win b).2))
    ∧ (∀ i, i = Instr.sendMem o → StepBegins s d n x p i → Routed s p a → ∀ s1 bs,
      damRead (stepBegun s d n x p i) p (gReg x o.d).toNat (chunkLen p win b) = (s1, .ok bs) →
        sends i x a (fresh a b .raw (bs.map fun v => some (v.zeroExtend 32))))
    ∧ (∀ m, namedMsg p x o = some m →
      (∀ i, i = Instr.recvAcc o → StepBegins s d n x p i →
        (∀ xs, reduce → msgElems m.form m.items = some xs → after i (setAcc x false xs) fun _ => True)
        ∧ (¬ reduce → m.form = .raw → after i (setAcc x true m.items) fun _ => True))
      ∧ (∀ i, i = Instr.recvDest o → StepBegins s d n x p i → ¬ reduce → m.form = .raw → ∀ s1 s2,
        damWrite (used i m) p (destAt p win m.origin m.chunk)
          (((m.items.filterMap id).take (chunkLen p win m.chunk)).map fun v => v.truncate 8) = (some s1, s2) →
        after i x fun t => t.mem = s1.mem)
      ∧ (reduce → x.accRaw = false → ∀ xs, msgElems m.form m.items = some xs →
        let comb (y : Inst) : Prop := y = { x with acc := y.acc } ∧ ∀ k < chunkElems p win b,
          SMap.find? y.acc k = combineItem (SMap.find? x.acc k) ((xs[k]?).getD none)
        (∀ i, i = Instr.combine o → StepBegins s d n x p i → ∃ y, comb y ∧ after i y fun _ => True)
        ∧ (∀ i, i = Instr.rrs o → StepBegins s d n x p i → Routed s p (gReg x o.d).toNat → ∃ y, comb y ∧
          sends i y (gReg x o.d).toNat (fresh (gReg x o.d).toNat b .fp32
            ((List.range (chunkElems p win b)).map fun k => SMap.find? y.acc k))))
      ∧ (∀ i, i = Instr.forward o → StepBegins s d n x p i → o.f = 0 → Routed s p (gReg x o.d).toNat →
        sends i x (gReg x o.d).toNat { m with source := p.rank, dest := (gReg x o.d).toNat }))
    ∧ (∀ i, i = Instr.copyOwn o → StepBegins s d n x p i → reduce → win.desc.wire ≠ 1 → after i
      (setAcc x false ((List.range (chunkElems p win b)).map fun k =>
        some (SMap.get win.area 0x80000000 (b * p.chunk / storeSize win.desc + k)))) fun _ => True)
    ∧ (∀ i, i = Instr.copyLoad o → StepBegins s d n x p i → ∀ s1 bs, damRead (stepBegun s d n x p i) p b (chunkLen p win a) = (s1, .ok bs) →
      ¬ reduce → after i (setAcc x true (bs.map fun v => some (v.zeroExtend 32))) fun _ => True)
    ∧ (reduce → x.accRaw = false →
      (∀ i, i = Instr.copyDest o → StepBegins s d n x p i → ∀ s1 s2, damWrite (stepBegun s d n x p i) p (destAt p win p.rank b)
        ((elems b).flatMap (destBytes win.desc)) = (some s1, s2) → after i x fun t => t.mem = s1.mem)
      ∧ (∀ i, i = Instr.copyStore o → StepBegins s d n x p i → ∀ s1 s2,
        damWrite (stepBegun s d n x p i) p b ((elems a).flatMap (toStore win.desc)) = (some s1, s2) →
        after i x fun t => t.mem = s1.mem))
    ∧ (∀ i, i = Instr.scalex o → StepBegins s d n x p i → reduce → p.rank = 0 → p.nranks ≤ 1 → x.scale = 0 →
      Does i s fun t => ∃ y win', inst? t n = some y ∧ y.pc = x.pc + 1 ∧ SMap.find? t.damask.wins w = some win' ∧
        let g := magnitude (areaElems p win a)
        SMap.find? win'.scales a = some (rootScale g.1 g.2))
    ∧ ∀ t0, SMap.find? s.damask.paths d = some (n, t0) → t0 ≤ s.now →
        let s1 : State := { s with damask := { s.damask with paths := SMap.erase s.damask.paths d } }
        ∀ e, freePath s1 = some e → (chosen s1 e = none → exec (.datapathStepComplete d) s = .next s1)
          ∧ ∀ j y q i, chosen s1 e = some j → readyStep s1 j = some (y, q, i) →
            exec (.datapathStepComplete d) s = .next (stepRun i j y q (stepBegun s1 e j y q i))

/-- What reaches a member (R378, R390, R391, R394): stores enter an open area and their close counts are added; a message of
a later seq is held, one of this round with a new key too; a credit lowers the count toward its rank; a notice merges FPART
once; time reached lets the instance go on; a round past its limit ends. -/
def Obligations.DamaskEvents : Prop :=
  ∀ (s : State) (n h i : Nat) (x : Inst) (p : Plan), inst? s i = some x → plan? s x.plan = some p →
    (∀ st w, SMap.find? s.fabric.stores n = some st → SMap.find? s.damask.wins st.window = some w → w.plan = st.plan →
      w.closes < w.desc.closers → storeBehind s n st = false → Does (.windowStoreArrival n) s fun t =>
        ∃ w', SMap.find? t.damask.wins st.window = some w' ∧ w' = { w with area := w'.area, closes := w'.closes } ∧
        w'.closes = Nat.min (w.closes + st.closes) w.desc.closers ∧ (w.desc.kind ≠ 2 → (st.items.map (·.1)).Nodup →
          ∀ e ∈ st.items, (SMap.get w'.area 0 e.1).truncate 8 = e.2))
    ∧ (∀ m, SMap.find? s.fabric.msgs n = some m → memberPlan s m.comm m.dest = some (h, p) → plan? s h = some p →
      Does (.damaskMessageArrival n) s fun t => SMap.find? t.fabric.msgs n = none ∧
        ((p.seq < m.seq ∨ (runningInst s h = some (i, x) ∧ m.seq = x.seq ∧ x.keys.contains (m.source, m.chunk, m.tag) = false ∧
          (x.senders.contains m.source = true ∨ x.senders.length < p.fanin))) → (plan? t h).map (·.bufs) = some (p.bufs ++ [m])))
    ∧ (∀ c, SMap.find? s.fabric.credits n = some c → memberPlan s c.comm c.to_ = some (h, p) → plan? s h = some p →
      Does (.creditReturn n) s fun t =>
        (plan? t h).map (fun q => SMap.get q.used 0 c.from_) = some (SMap.get p.used 0 c.from_ - 1))
    ∧ (∀ d, SMap.find? s.fabric.notes n = some d → memberPlan s d.comm d.dest = some (h, p) → runningInst s h = some (i, x) →
      x.seq = d.seq → x.noticed.contains d.member = false → allAcked p x = false → Does (.failureNoticeArrival n) s fun t =>
        ∃ y, inst? t i = some y ∧ y.pc = x.pc ∧ y.noticed = d.member :: x.noticed ∧ y.status.testBit 6 = true)
    ∧ (∀ t, x.timed = some t → t.toNat ≤ s.now / 17 →
      (∀ o, fetchO s i = some (.tstart o) → exec (.fabricTimeReached i) s = .next (modInst s i fun _ => oAdvance (wg x o.d 0)))
      ∧ (∀ o, fetchO s i = some (.waitTime o) → exec (.fabricTimeReached i) s = .next (modInst s i fun _ => oAdvance x)))
    ∧ (onPath s i = false → x.began + 17000 * p.limit ≤ s.now → Does (.roundLimitExpiry i) s fun t => inst? t i = none)

/-! ### Mailboxes, registers, paging, start-up (R74 to R84, R142 to R194, R406 to R414) -/

/-- The mailbox commands (R163 to R172, R375, R376, R411, R412): what each changes and answers when it is accepted. -/
def Obligations.MailboxCommands : Prop :=
  ∀ (s : State) (who : Requester) (cmd : List Byte), boxOpen s who = true → (boxOf s who).busy = false → s.imqua.safe = false →
    cmd = boxCmd (boxOf s who) → zeroAt cmd 10 6 = true →
    let f := recField cmd
    let id := f 0 8
    let code := f 8 2
    let cn := f 16 2
    let own := owns s who cn = true
    let c := ctxOf s cn
    let answers (i : Instr) (status : Nat) (results : List Byte) (q : State → Prop) : Prop :=
      Does i s fun t => Replied t who id status 0 results ∧ q t
    (code = 0x0001 → answers (.ping who) 0 [] fun t => Untouched s t ∧ t.imqua.journal = s.imqua.journal)
    ∧ (code = 0x0050 → ∀ e, entry? s who (f 16 8) = some e → let o := e.reply.getD (6, [])
      answers (.query who) 0 ((e.cmd.drop 8).take 2 ++ natToBytes 2 o.1 ++ List.replicate 12 0 ++ o.2.take 224) (Untouched s))
    ∧ (code = 0x0050 → entry? s who (f 16 8) = none → answers (.query who) 5 [] (Untouched s))
    ∧ (id ≠ 0 → entry? s who id = none →
      (code = 0x0002 → mayReset s who = true → Does (.reset who) s fun t => t.groups = [] ∧ t.kernels = [] ∧
        (begun s = [] → t.ctxs = [] ∧ t.parts = []) ∧
        ∃ e ∈ t.imqua.journal, isEntry who id e = true ∧ e.reply = some (0, List.replicate 240 0))
      ∧ (code = 0x0002 → mayReset s who = false → answers (.reset who) 2 [] (Untouched s))
      ∧ (code = 0x0010 → partLimits cmd = true →
        let p := f 16 1
        let old := partOf s p
        let new := askedPart s cmd
        (new.hosting = 0 → partCtxs s p = [] → answers (.partSet who) 0 (List.replicate 96 0 ++ List.replicate 4 0xFF) fun t =>
          SMap.find? t.parts p = none)
        ∧ (new.hosting ≠ 0 → (∀ e ∈ s.parts, e.1 ≠ p → partsOverlap e.2 new = false) →
          (partCtxs s p = [] ∨ old.hosting = new.hosting) → losesCore s old new = false →
          (losesRange old new = false ∨ partBusy s p = false) → ∀ fs, (List.range 4).mapM (placeShare s p old new) = .ok fs →
          answers (.partSet who) 0 (new.masks.flatMap (fun m => natToBytes 24 m.toNat) ++ fs.flatMap (natToBytes 1)) fun t =>
            SMap.find? t.parts p = some { new with first := fs, fencing := old.fencing }))
      ∧ (code = 0x0020 → let a := askedCtx who cmd
        hosts (partOf s a.part) who = true → ctxLimits who cmd = true → ctxRanges s a = true →
        ∀ n, ((List.range 4095).map (· + 1)).find? (numberFree s) = some n →
        answers (.ctxCreate who) 0 (natToBytes 2 n) fun t => SMap.find? t.ctxs n = some { a with cevt := 1 })
      ∧ (code = 0x0021 → own → answers (.ctxDestroy who) 0 [] fun t => (ctxOf t cn).state = .destroyed ∧
        ((ctxOf t cn).slot ≠ 0 → SMap.find? t.keys (ctxOf t cn).slot = none))
      ∧ (code = 0x0022 → own → c.keyed = true → c.state = .created →
        (f 18 1 = 1 → c.conf = false → ∀ n, ((List.range 4095).map (· + 1)).find? (fun n =>
            !(s.ctxs.any fun e => decide (e.2.slot = n) && e.2.state != .destroyed)) = some n →
          answers (.keySet who) 0 (natToBytes 2 n) fun t => (ctxOf t cn).slot = n ∧ (ctxOf t cn).state = .loaded ∧
            SMap.find? t.keys n = some (BitVec.ofNat 512 (f 24 64)))
        ∧ (f 18 1 = 2 → c.session = none → answers (.keySet who) 8 [] fun t => (ctxOf t cn).state = .created))
      ∧ (code = 0x0030 → own → zeroAt cmd 18 6 = true → zeroAt cmd 36 4 = true → zeroAt cmd 56 200 = true → f 24 8 % 64 = 0 →
        inHbm s cn (f 24 8) (f 32 4) = true → f 40 8 % 4096 = 0 → inHbm s cn (f 40 8) (f 48 8) = true →
        ∀ x ch, planImage s cn (memBytes s (slotOf s cn) (f 24 8) (f 32 4)) = some x →
        (barsOk s cn x.descs).2 = true → memberPlan s x.plan.comm x.plan.rank = none → s.damask.plans.length < 256 → stagingNeed x ≤ f 48 8 →
        pickChannel s x.plan = some ch → let ws := openWins s x.descs.length
        let h := s.damask.nextHandle
        ws.length = x.descs.length → answers (.planLoad who) 0 (natToBytes 4 h ++ natToBytes 1 ch ++ natToBytes 3 0 ++
            ((List.range 16).map fun i => (ws[i]?).getD 0xFFFF).flatMap (natToBytes 2)) fun t => t.damask.nextHandle = h + 1 ∧
          SMap.find? t.damask.plans h = some { x.plan with
            wins := ws, vc := ch, ports := planPorts s x.plan, staging := f 40 8
            reach := (remotePkgs s x.plan).filter fun j => portsTo s x.plan j ≠ 0 })
      ∧ (code = 0x0031 → ∀ p, plan? s (f 16 4) = some p → owns s who p.ctx = true → answers (.planUnload who) 0 [] fun t =>
        plan? t (f 16 4) = none ∧ ∀ w win, SMap.find? t.damask.wins w = some win → win.plan ≠ f 16 4)
      ∧ (code = 0x0040 → (cn = 0 ∨ own) → zeroAt cmd 18 6 = true → zeroAt cmd 96 160 = true → f 64 32 = 0 →
        evidencePlace s who cn (f 56 8) = true → let bs := evidence s cn cmd 0
        (f 56 8 = 0 → answers (.attest who) 0 [] fun t => t.imqua.evidence = boxPut [] 0 bs)
        ∧ (f 56 8 ≠ 0 → answers (.attest who) 0 [] fun t => t.mem = (homeWrite s 0 (f 56 8) bs).mem))
      ∧ (code = 0x0041 → answers (.marginReport who) 0 (marginReport s).results (Untouched s))
      ∧ (listedCode code = false → answers (.mailboxUnknownCommand who) 1 [] (Untouched s)))

/-- Requests that do no work (R165 to R168, R408): a request already in the journal is answered from it; a request ID of 0 is
MALFORMED; a context that is not the requester's and a command that safe mode does not perform are REFUSED; a GO while BUSY
sets LOST; a service restart with nothing begun opens the mailboxes. -/
def Obligations.MailboxReplies : Prop :=
  ∀ (s : State) (who : Requester) (cmd : List Byte), boxOpen s who = true → cmd = boxCmd (boxOf s who) →
    let id := recField cmd 0 8
    let code := recField cmd 8 2
    let idle : Prop := (boxOf s who).busy = false
    let quiet (i : Instr) (status flags : Nat) (results : List Byte) : Prop :=
      Does i s fun t => Replied t who id status flags results ∧ Untouched s t
    let journals : List (Instr × Nat) := [(.reset who, 0x0002), (.partSet who, 0x0010), (.ctxCreate who, 0x0020),
      (.ctxDestroy who, 0x0021), (.keySet who, 0x0022), (.planLoad who, 0x0030), (.planUnload who, 0x0031),
      (.attest who, 0x0040), (.marginReport who, 0x0041)]
    (∀ y ∈ journals, code = y.2 → idle → (id = 0 → quiet y.1 1 0 [])
      ∧ (id ≠ 0 → ∀ e o, entry? s who id = some e → e.reply = some o →
        quiet y.1 o.1 (if e.cmd.drop 8 = cmd.drop 8 then 1 else 3) o.2)
      ∧ (id ≠ 0 → entry? s who id = none → zeroAt cmd 10 6 = true → s.imqua.safe = true → safeCode code = false →
        quiet y.1 2 0 []))
    ∧ (∀ y ∈ ([(.ctxDestroy who, 0x0021), (.keySet who, 0x0022), (.planLoad who, 0x0030)] : List (Instr × Nat)), code = y.2 → idle →
      id ≠ 0 → entry? s who id = none → zeroAt cmd 10 6 = true → s.imqua.safe = false →
      owns s who (recField cmd 16 2) = false → quiet y.1 2 0 [])
    ∧ ((boxOf s who).busy = true → exec (.mailboxGoLost who) s = .next (modBox s who fun b => { b with lost := true }))
    ∧ (begun s = [] → exec .imquaServiceRestart s =
      .next (modBox (modBox s .host fun b => { b with busy := false }) .hc fun b => { b with busy := false }))

/-- The queue descriptors (R74, R84, R85) and the registers that have no row of their own (R8, R174, R191, R193): what a
write by the owner makes of its register. -/
def Obligations.RegisterWrites : Prop :=
  ∀ (s : State) (who : Requester) (n cn l p pa : Nat) (v : Word),
    let q := queueOf s n
    let cv := qctlCtx v
    let prio := bits v.toNat 52 2
    let idle := queueIdle q = true
    let becomes (i : Instr) (q' : Queue) : Prop := Does i s fun t => queueOf t n = q'
    (n < 1024 → q.ctx = 0 → cv ≠ 0 → owns s who cv = true → idle → becomes (.qctlBind who n v)
      { q with ctx := cv, en := v.getLsbD 63, pull := v.getLsbD 62, prio := prio })
    ∧ (n < 1024 → q.ctx ≠ 0 → owns s who q.ctx = true →
      (cv = 0 → idle → becomes (.qctlRelease who n v) { q with ctx := 0, en := false, pull := false, prio := prio })
      ∧ (cv = q.ctx → ∀ i ∈ [if v.getLsbD 63 then Instr.qctlEnable who n v else .qctlDisable who n v, .qctlPrioWrite who n v,
          .qctlPullWrite who n v],
        (idle → becomes i { q with en := v.getLsbD 63, pull := v.getLsbD 62, prio := prio })
        ∧ (¬ idle → becomes i { q with en := v.getLsbD 63, prio := prio }))
      ∧ (∀ i, i = Instr.qstatFlagClear who n v ∨ (v.getLsbD 4 = true ∧ i = .qstatClr who n v) → becomes i { q with
          refused := if v.getLsbD 4 then 0 else q.refused, lateCnt := if v.getLsbD 4 then 0 else q.lateCnt
          badbar := q.badbar && !v.getLsbD 5, badwr := q.badwr && !v.getLsbD 3, malf := q.malf && !v.getLsbD 2
          refq := q.refq && !v.getLsbD 1, refd := q.refd && !v.getLsbD 0 })
      ∧ (idle → becomes (.registerWrite who (0x40000010000 + 64 * n + 8) v) { q with
          qbase := 64 * bits v.toNat 6 50, ringHead := 0 }))
    ∧ (p < 4096 → Does (.registerWrite .hc (0x40000060000 + 8 * p) v) s fun t =>
      SMap.get t.fabric.routes 0 p = v &&& 0x80000001FFFFFFFF)
    ∧ (cn < 4096 → owns s who cn = true → Does (.registerWrite who (0x40000100000 + 64 * cn + 8) v) s fun t => (ctxOf t cn).cimg = v)
    ∧ (pa % 8 ≠ 0 → exec (.registerWrite who pa v) s = .next s)
    ∧ (l < 16 → Does (.lctlRetrain .imqua l v) s fun t => (linkOf t l).minLanes = v.truncate 5 ∧ (linkOf t l).lanes = (linkOf s l).lanes ∧
      (linkOf t l).state = if v.getLsbD 63 ∧ linkUp (linkOf s l) = true then .retraining else (linkOf s l).state)
    ∧ (who ≠ .imqua → exec (.lctlRetrain who l v) s = .next s)

/-- CCTL and MCTL (R70, R155, R156, R174, R175, R181): what each action does for the owner when its conditions hold, and the LAST
value when they do not. -/
def Obligations.ControlBlockActions : Prop :=
  ∀ (s : State) (who : Requester) (cn n : Nat) (v : Word), owns s who cn = true →
    let c := ctxOf s cn
    let last (i : Instr) (x : Nat) : Prop := exec i s = .next (setLast s cn x)
    let open_ := c.state = .loaded ∨ c.state = .running
    let free := ∀ e ∈ ctxGroups s cn, e.2.stop = none
    (¬ open_ → last (.cctlSave who cn) 1)
    ∧ (open_ → ¬ free → last (.cctlSave who cn) 2)
    ∧ (open_ → free → poolFree c < saveWorst s cn → last (.cctlSave who cn) 3)
    ∧ (open_ → free → saveWorst s cn ≤ poolFree c → Does (.cctlSave who cn) s fun t => (ctxOf t cn).state = .quiescing ∧
      ∀ e ∈ ctxTeams s cn, e.2.1.placed = true → ∀ j x, grp? t j = some x → x.kern = e.1 / 2 ^ 32 → x.team = e.1 % 2 ^ 32 → x.yreq = true)
    ∧ (c.state ≠ .saved → last (.cctlRestore who cn) 1)
    ∧ (let at_ := c.cimg.toNat
      let rd (o k : Nat) : Nat := memNat s c.slot (at_ + o) k
      c.state = .saved → at_ % 4096 = 0 → imagePlace s c at_ 256 = true → badRun s at_ 256 = false →
      imagePlace s c at_ (Nat.max 256 (Nat.min (rd 8 8) c.saveLen)) = true → badRun s at_ (Nat.min (rd 8 8) c.saveLen) = false →
      ∀ rs, imageRecs s cn rd = some rs → capacityFail s cn rd rs = none → Does (.cctlRestore who cn) s fun t =>
        (ctxOf t cn).state = .loaded ∧ (ctxOf t cn).last = 0 ∧ (ctxOf t cn).used = rs.map fun r => (r.2.1, inUnits r.2.2))
    ∧ (Does (.cctlKill who cn) s fun t => (ctxOf t cn).last = 0 ∧ ∀ j k, kern? s j = some k → k.ctx = cn →
      isLive k = true ∨ k.state = .ready → ∃ k', kern? t j = some k' ∧ k'.state = .killed ∧ k'.reason = 6)
    ∧ ((∀ e ∈ s.groups, e.2.afaults = [] ∧ ∀ x, e.2.stop = some x → x.fault = none) → Does (.cctlResume who cn) s fun t => (ctxOf t cn).last = 0 ∧
      ∀ j g x, grp? s j = some g → g.ctx = cn → g.stop = some x → stoppedTeam s (j, g) = true →
        ∃ g', grp? t j = some g' ∧ g'.stop = none ∧ g'.st = if x.prior = .blocked ∧ g.yreq = true then .yielding else x.prior)
    ∧ (n < 64 → let m := migrOf s n
      let cv := bits v.toNat 36 12
      let sz := bits v.toNat 34 2
      let plain := v.getLsbD 63 = false ∧ v.getLsbD 62 = false ∧ v.getLsbD 61 = false
      let becomes (i : Instr) (q : Migr → Prop) : Prop := Does i s fun t => q (migrOf t n)
      (m.ctx = 0 → cv = cn → cn ≠ 0 → plain →
        becomes (.mctlClaim who n v) (· = { m with ctx := cn, size := sz }))
      ∧ (m.ctx = cn → cn ≠ 0 →
        (m.state = 0 → m.waiting = false → cv = 0 → plain → becomes (.mctlFree who n v) (· = { m with ctx := 0, size := sz }))
        ∧ (m.state = 0 → m.waiting = false → cv = cn → v.getLsbD 63 = true → let m1 : Migr := { m with size := sz }
          let s1 := modMigr s n fun _ => m1
          let z := migrBytes sz
          (migrSource s1 m1 = none ∨ isHbm (m.dst + z - 1) = false → becomes (.mctlGo who n v) fun y => y.state = 3)
          ∧ ∀ src s2, sz ≠ 3 → migrSource s1 m1 = some src → isHbm (m.dst + z - 1) = true →
            anyLocked s1 src z = false → anyLocked s1 m.dst z = false → lockAll s1 0 (.migration n)
              [⟨m.va.toNat, lockPlace src, src, z, true⟩, ⟨m.va.toNat, lockPlace m.dst, m.dst, z, true⟩] = some s2 →
            becomes (.mctlGo who n v) fun y => y.state = 1 ∧ y.src = src ∧ y.to_ = m.dst)
        ∧ (m.state = 2 → v.getLsbD 62 = true → Does (.mctlRel who n v) s fun t =>
          (migrOf t n).state = 0 ∧ t.dies = (unlock s (.migration n)).dies)
        ∧ (m.state = 1 → v.getLsbD 61 = true → Does (.mctlAbort who n v) s fun t =>
          (migrOf t n).state = 0 ∧ ∀ d, (dieSt t d).locks = (dieSt (unlock s (.migration n)) d).locks)))

/-- Fences and copies (R142 to R145, R156): a request not yet done drops the translations it covers and waits for what is under
way; when that has finished its result and its sequence number are written, if the mailbox still holds the request; a copy whose page's accesses have finished ends in
STATE 2 with the destination holding the page, or in STATE 3. -/
def Obligations.FencesAndCopies : Prop :=
  ∀ (s : State) (part n : Nat) (who : Requester) (r : FenceReq),
    let p := partOf s part
    let at_ := (proxyOf p who).mailbox
    (hosts p who = true → (∀ x ∈ p.fencing, x.who ≠ who) → r = readFence s who at_ → memNat s 0 (at_ + 40) 8 ≠ r.seq.toNat → r.bad = false →
      Does (.proxyFenceInterrupt part who) s fun t =>
        (partOf t part).fencing = p.fencing ++ [{ r with wait := underWay s part }]
        ∧ let gone (e : TlbEnt) : Prop := covered s part r.kind r.va.toNat r.len.toNat r.asid e = true
          (∀ c, ∀ e ∈ (coreOf t c).tlb, e ∈ (coreOf s c).tlb ∧ ¬ gone e) ∧ ∀ d, ∀ e ∈ (dieSt t d).tlb, e ∈ (dieSt s d).tlb ∧ ¬ gone e)
    ∧ (p.fencing.find? (fun x => x.who = who) = some r → let u := flushAll s
      (r.wait.all (finished u) = false → exec (.remoteFenceDone part who) s = .next u)
      ∧ (r.wait.all (finished u) = true → settledPart u part = true → Does (.remoteFenceDone part who) s fun t =>
        (∀ x ∈ (partOf t part).fencing, x.who ≠ who) ∧
        (readFence u who at_ = { r with wait := [] } →
          t.mem = (homeWrite (homeWrite u 0 (at_ + 9) [if r.bad then 1 else 0]) 0 (at_ + 40) (natToBytes 8 r.seq.toNat)).mem)))
    ∧ (let m := migrOf s n
      let z := migrBytes m.rsize
      let u := evictEverywhere (evictEverywhere s m.src z) m.to_ z
      m.waiting = false → m.state = 1 → m.wait.all (finished s) = true → m.bar = 0 → onWay u m.src z = false → onWay u m.to_ z = false →
      (badRun u m.src z = false → inStruct u m.rctx m.src z = true → inStruct u m.rctx m.to_ z = true →
        Does (.migrationCopyComplete n true) s fun t => (migrOf t n).state = 2 ∧
          t.mem = (homeWrite u (slotOf u m.rctx) m.to_ (memBytes u (slotOf u m.rctx) m.src z)).mem)
      ∧ Does (.migrationCopyComplete n false) s fun t => (migrOf t n).state = 3 ∧ t.mem = u.mem)

/-- Start-up, the host's port, margins, power and cooling (R184, R190, R211, R406 to R411, R414). -/
def Obligations.BootAndHostEvents : Prop :=
  ∀ (s : State) (ok fb : BitVec 10) (failed : List Nat) (pa d : Nat) (b : Bool) (bytes : List (BitVec 8)) (drift : List Nat),
    let q := s.imqua
    (q.bootCnt = [] → begun s = [] → ok = BitVec.allOnes 10 → Does (.coldPowerUp ok fb failed) s fun t =>
      t.imqua.booted = true ∧ t.imqua.safe = false ∧ t.imqua.image = 0 ∧ t.imqua.starts = q.starts + 1 ∧ t.imqua.bootCnt = []
      ∧ t.fabric.pkgId = q.flashId ∧ t.fabric.portsUp = true ∧ t.fabric.routes = q.flashRoutes ∧ t.imqua.margin = q.flashMargin
      ∧ t.groups = [] ∧ t.ctxs = [] ∧ (∀ l < 16, (linkOf t l).state = .training) ∧ ∀ c ∈ failed, (coreOf t c).failed = true)
    ∧ (stepCount s 1 = 2 → ok.getLsbD 0 = false → Does (.coldPowerUp ok fb failed) s fun t =>
      t.imqua.safe = true ∧ t.imqua.booted = false ∧ stepCount t 1 = 3)
    ∧ ((∀ e ∈ begun s, e.box ≠ .host) → Does .hostHotReset s fun t => (Requester.hc, Irq.hostReset) ∈ t.irqs ∧ ∀ cn c,
      SMap.find? s.ctxs cn = some c → c.owner = .host → c.state ≠ .destroyed →
        (ctxOf t cn).state = .faulted ∧ (ctxOf t cn).why = 1)
    ∧ ((∀ e ∈ begun s, e.box ≠ .host) → (∀ e ∈ s.ctxs, e.2.owner ≠ .host) →
      exec .hostHotReset s = .next (interrupt (resetPort s) .hc .hostReset))
    ∧ exec .hostPortResetExit s = .next { s with fabric := { s.fabric with hostReset := false } }
    ∧ (q.booted = true → q.safe = false → s.fabric.hostReset = false →
      (noSuchPlace pa = true → exec (.hostCxlMemAccess b pa bytes) s = .fault (.unmapped pa))
      ∧ (isHbm pa = true → isHbm (pa + bytes.length - 1) = true →
        exec (.hostCxlMemAccess false pa bytes) s = .next { s with cxlData := memBytes s 0 pa bytes.length }
        ∧ exec (.hostCxlMemAccess true pa bytes) s = .next (homeWrite s 0 pa bytes)))
    ∧ (isHostMem pa = true → isHostMem (pa + bytes.length - 1) = true →
      exec (.hostCxlMemAccess true pa bytes) s = .next (homeWrite s 0 pa bytes))
    ∧ (q.lastSample + 17000000000 ≤ s.now → exec (.marginSample drift) s = .next { s with imqua := { q with
        drift := (List.range 4).map fun i => Nat.max (q.drift.getD i 0) (drift.getD i 0)
        powered := q.powered + (s.now - q.lastSample), lastSample := s.now } })
    ∧ (q.booted = true → 1000 * hourTicks ≤ q.powered ∨ (∃ x ∈ q.drift, 200 < x) → Does .marginReplan s fun t =>
      t.imqua.marginV = q.marginV + 1 ∧ t.imqua.flashMarginV = q.marginV + 1 ∧ t.imqua.flashMargin = t.imqua.margin ∧
      t.imqua.powered = 0 ∧ t.irqs = s.irqs ++ [(.hc, .replan)] ∧ t.imqua.volts = q.volts)
    ∧ (q.lastVolt + 17000000 ≤ s.now → Does .voltageStep s fun t => t.imqua.lastVolt = s.now ∧ ∀ c < 768,
      voltOf t.imqua.volts c = voltToward (voltOf q.volts c) (voltOf q.margin c) ∧ voltOf t.imqua.volts c ≤ voltOf q.volts c + 5
      ∧ voltOf q.volts c ≤ voltOf t.imqua.volts c + 5)
    ∧ exec (.powerLimitThrottle b) s = .next { s with imqua := { q with throttled := b } }
    ∧ (d < 4 → Does (.junctionThrottle d b) s fun t => (dieSt t d).throttled = b ∧ (dieSt t d).powered = (dieSt s d).powered)
    ∧ (Does .thermalShutdown s fun t => (∀ i < 4, (dieSt t i).powered = false) ∧ ∀ j k, kern? s j = some k → unended k = true →
      ∃ k', kern? t j = some k' ∧ k'.state = .killed ∧ k'.reason = 9)

/-! ### Queues, kernels, graphs (R76 to R83, R109 to R127, R415) -/

/-- Work queues and copies (R76, R80, R82, R83, R223, R347, R415): what an enqueue, the passing of time, a handover, a
registration, a portion and a copy's end each do. -/
def Obligations.QueueEvents : Prop :=
  ∀ (s : State) (who : Requester) (pa n p : Nat) (bytes : List Byte),
    let q := queueOf s n
    let arrival := Instr.enqueueArrival who pa bytes
    let turned (f : Queue → Queue) : Prop := Does arrival s fun t => queueOf t n = f q
    let up (x : Queue) : Queue := { x with refused := (x.refused + 1) % 2 ^ 24 }
    (isEnq pa = true → n = (pa - 0x30000000000) / 64 →
      (pa % 64 ≠ 0 ∨ bytes.length ≠ 64 → turned fun x => { x with badwr := true })
      ∧ (pa % 64 = 0 → bytes.length = 64 →
        (q.en = false → turned fun x => { up x with refd := true })
        ∧ (q.en = true → queueState q = 3 → turned fun x => { up x with refq := true })
        ∧ (q.en = true → queueState q ≠ 3 → badRecord bytes = true → turned fun x => { up x with malf := true })
        ∧ (q.en = true → badRecord bytes = false → q.res.length < 16 → q.spilled = 0 → Does arrival s fun t =>
          ∃ r, (queueOf t n).res = q.res ++ [r] ∧ r.bytes = bytes ∧ r.notBefore = recField bytes 32 8)
        ∧ (q.en = true → badRecord bytes = false → queueState q ≠ 3 → 16 ≤ q.res.length ∨ q.spilled ≠ 0 → Does arrival s fun t =>
          (queueOf t n).res = q.res ∧ (queueOf t n).spilled = q.spilled + 1 ∧ t.mem = (homeWrite s 0 (ringPlace q q.spilled) bytes).mem)))
    ∧ (∀ i ∈ [Instr.queueHeadEligible n, .queuePriorityAge n], ∀ r rest, q.res = r :: rest →
      let e : Option Nat := if r.eligible = none ∧ 17 * r.notBefore ≤ s.now then some (17 * r.notBefore) else r.eligible
      Does i s fun t => queueOf t n = { q with res :=
        { r with eligible := e, rise := (e.map fun t0 => Nat.min 3 ((s.now - t0) / 17000000)).getD 0 } :: rest })
    ∧ (∀ t0 r, bestQueue s (s.queues.map (·.1)) = some (n, p, t0) → readyHead s n = some r → recField r.bytes 0 2 = 1 →
      recField r.bytes 24 8 = 0 → Does .queueHandover s fun t => ∃ k, kern? t s.serial = some k ∧ k.state = .ready ∧ k.ctx = q.ctx
        ∧ k.prio = p ∧ k.handed = s.now ∧ k.image.toNat = recField r.bytes 8 8 ∧ k.origin = .record n r.late
        ∧ (queueOf t n).res.length + (queueOf t n).spilled + 1 = q.res.length + q.spilled)
    ∧ (∀ c src dst len, SMap.find? s.engines n = some c → c.registered = false → c.kind = .cpy src dst len →
      let r := cmdRanges s c.die c.ctx [⟨0, src, len, false⟩, ⟨0, dst, len, true⟩]
      (tryRegister r.1 c.core (.engine n) r.2.1 = none → exec (.rangeLockRegister n) s = .next r.1)
      ∧ ∀ s1, tryRegister r.1 c.core (.engine n) r.2.1 = some s1 → Does (.rangeLockRegister n) s fun t => ∃ c',
        SMap.find? t.engines n = some c' ∧ c'.registered = true ∧ c'.token = (ctxOf s1 c.ctx).token + 1 ∧ c'.todo = portions c.kind)
    ∧ (∀ c off k s1 r, SMap.find? s.engines n = some c → c.todo[p]? = some (off, k) → c.ready = true → c.registered = true →
      inOrder c p = true → let s0 := match c.for_ with | .group j _ => settleFences s j | .record _ _ => s
      engFree s0 c = true → runPortion s0 c off k = (s1, r) → r ≠ .wait → let left := c.todo.eraseIdx p
      (left ≠ [] → Does (.enginePortion n p) s fun t => ∃ c', SMap.find? t.engines n = some c' ∧ c'.todo = left)
      ∧ (left = [] → (∃ j h, c.for_ = .group j h) → Does (.enginePortion n p) s fun t => SMap.find? t.engines n = none)
      ∧ (left = [] → (∃ o b, c.for_ = .record o b) → Does (.enginePortion n p) s fun t => ∃ c', SMap.find? t.engines n = some c' ∧
        c'.todo = []))
    ∧ (∀ c j i b, SMap.find? s.engines n = some c → c.for_ = .record (.node j i) b → c.registered = true → c.todo = [] →
      ∀ g, SMap.find? s.graphs j = some g → Does (.copyRecordComplete n) s fun t => SMap.find? t.engines n = none ∧
        ∃ g' st, SMap.find? t.graphs j = some g' ∧ g' = { g with done := g.done ++ [(i, st)] } ∧
          st.bits = (if c.failed then stCpyf else 0) ||| (if c.oecc then stOecc else 0))

/-- The dispatcher (R44, R109, R115 to R122): a kernel in turn is taken, or refused with its reason; a span that fits is placed;
a kernel that waits makes a lower one yield; a drained kernel retires; a budget that ends first asks, then kills.

Task graphs (R124 to R127): a malformed graph ends, a good one starts with its ready nodes; a completed node leaves the
launched ones, and with the last of them the graph ends. -/
def Obligations.KernelAndGraphEvents : Prop :=
  (∀ (s : State) (n die : Nat) (k : Kernel), kern? s n = some k →
    let ends (i : Instr) (st : KState) (reason : Nat) : Prop :=
      Does i s fun t => ∃ k', kern? t n = some k' ∧ k'.state = st ∧ k'.reason = reason
    let turn := k.state = .ready ∧ mayHand s k.ctx = true ∧
      ∀ e ∈ s.kernels, e.2.state = .ready → mayHand s e.2.ctx = true → kernBefore e (n, k) = false
    (turn → ∀ s1, readHeader s k.ctx k.image = (s1, none) → ends (.kernelTake n) .faulted 1)
    ∧ (turn → ∀ s1 h tab, readHeader s k.ctx k.image = (s1, some (h, tab)) →
      (launchValues k h = none → ends (.kernelTake n) .faulted 2)
      ∧ ∀ e sc, launchValues k h = some (e, sc) →
        let k1 : Kernel := { k with hdr := h, table := tab, perSpan := e, scratch := sc, state := .placing, waitFrom := s.now }
        let s2 : State := { s1 with kernels := SMap.put s1.kernels n k1 }
        let s3 := if (ctxOf s2 k.ctx).state = .loaded then setCState s2 k.ctx .running 0 else s2
        (fits s3 k1 = true → exec (.kernelTake n) s = .next s3 ∧ kern? s3 n = some k1)
        ∧ (fits s3 k1 = false → ends (.kernelTake n) .faulted 3))
    ∧ (placing s k = true → (∀ e ∈ s.kernels, kernBefore e (n, k) = true → (placing s e.2 = true → placeable s e.1 e.2 = none) ∧
        ¬ (e.2.state = .ready ∧ mayHand s e.2.ctx = true)) →
      savedBad s n k = false →
      (∀ s1, placeable s n k = some s1 → exec (.teamPlace n) s = .next s1 ∧ ∃ k', kern? s1 n = some k' ∧ k'.state = .running)
      ∧ (placeable s n k = none → exec (.teamPlace n) s = .next (markCores s n k)))
    ∧ (placing s k = true → openSpans s n k ≠ [] → k.waitFrom + 850000 ≤ s.now →
      (lowestKern s die k.prio = none → exec (.preemptionTimeout n die) s = .next s)
      ∧ ∀ v kv t0 x, lowestKern s die k.prio = some (v, kv) → kern? s v = some kv →
        ((kernTeams s v).filter fun e => e.2.placed && coreDie e.2.core == die).map (fun e => e.1 % 4294967296) = [t0] →
        (∀ e ∈ kernTeams s v, e.2.reserved = 0) → wouldFit s n k die [] = false → team? s v t0 = some x →
        t0 < 2 ^ 32 → (reserveTeams s v kv (yieldTeams s v t0 kv)).isSome = true → Does (.preemptionTimeout n die) s fun t =>
          ∀ j g, grp? t j = some g → g.kern = v → g.team = t0 → g.yreq = true)
    ∧ (k.state = .draining → enginesDone s n = true → Does (.kernelRetire n) s fun t => ∃ k', kern? t n = some k' ∧ k'.state = .retired)
    ∧ (isLive k = true → k.first = false → budgetOf s k ≤ k.count / 17 → Does (.watchdogFirstExpiry n) s fun t =>
      (∃ k', kern? t n = some k' ∧ k' = { k with first := true }) ∧ ∀ e ∈ kernTeams s n, ∀ j g, grp? t j = some g →
        g.kern = n → g.team = e.1 % 2 ^ 32 → g.yreq = true)
    ∧ (isLive k = true → k.state ≠ .suspended → 2 * budgetOf s k ≤ k.count / 17 → ends (.watchdogSecondExpiry n) .killed 5))
  ∧
  (∀ (s : State) (n i : Nat) (g : Graph), SMap.find? s.graphs n = some g →
    (g.started = false → mayHand s g.ctx = true → graphsAt s g.die < 256 → ∀ s1 r, readGraph s g.ctx g.va g.area = (s1, r) →
      (r = none → Does (.graphStart n) s fun t => SMap.find? t.graphs n = none)
      ∧ ∀ x s2, r = some [x] → x.kind = 4 → x.preds = 0 → g.ready = [] →
        pkgWrite s1 g.ctx g.area.toNat (natToBytes 4 x.preds) = (s2, true) → Does (.graphStart n) s fun t =>
          SMap.find? t.graphs n = some { g with started := true, nodes := [x], ready := [0] })
    ∧ (∀ x e, g.started = true → g.nodes[i]? = some x → g.done.find? (fun e => e.1 = i) = some e → e.2.bits &&& failMask = 0 →
      x.barrier = 0 → x.succs = [] → let live := g.live.erase i
      let done := g.done.erase (i, e.2)
      (live ≠ [] → Does (.graphNodeComplete n i) s fun t => SMap.find? t.graphs n = some { g with live := live, done := done })
      ∧ (live = [] → done = [] → g.ready = [] → Does (.graphNodeComplete n i) s fun t => SMap.find? t.graphs n = none)))

/-! ### Groups of a core (R36, R46 to R70, R175, R210, R226) -/

/-- The active set, waking, cuts and stops (R36, R40, R46, R48 to R50, R52, R61, R67, R69, R176): which group each event moves,
and as what it then stands. -/
def Obligations.GroupEvents : Prop :=
  ∀ (s : State) (gid core : Nat) (g : Group), grp? s gid = some g →
    let next_ := eldest (readyPending s core)
    let entered : Group :=
      { g with st := if g.st = .pending then .active else g.st, out := false, obuf := [], setSince := s.now }
    let left (x : Group) : Group := { x with st := .pending, setSince := s.now, obuf := [] }
    let woken := exec (.groupWake gid) s =
      .next (setGrp s gid { g with st := .pending, woken := true, obuf := [], setSince := s.now })
    (setSize s core < 8 → ∀ e, next_ = some (gid, e) → exec (.activeSetFill core) s = .next (setGrp s gid entered))
    ∧ (∀ out x e y, grp? s out = some x → out ≠ gid → next_ = some (gid, e) →
      (activeSet s core).find? (fun e => waitsLong s e.1 e.2 && !readyA s e.1 e.2) = some (out, y) →
      Does (.activeSwap core) s fun t => grp? t out = some (left x) ∧ grp? t gid = some entered)
    ∧ (∀ out x e y, grp? s out = some x → out ≠ gid → (coreOf s core).lastPromotion + cycles 4096 ≤ s.now →
      eldest ((readyPending s core).filter fun e => e.2.setSince + cycles 4096 ≤ s.now) = some (gid, e) →
      eldest (activeSet s core) = some (out, y) → Does (.pendingPromotion core) s fun t =>
        (coreOf t core).lastPromotion = s.now ∧ grp? t out = some (left x) ∧ grp? t gid = some entered)
    ∧ (g.st = .blocked → (g.wake = some .join → spawns s g = 0 → woken) ∧ (g.wake = some .xpop → g.xq ≠ [] → woken)
      ∧ (g.wake = some .lda → g.ldaDone = true → woken)
      ∧ (g.wake = some .mwait → g.woken = true ∨ (∀ l, g.mon ≠ some (l, false)) → woken)
      ∧ (∀ h asp a p, g.wake = some (.bwait h asp a p) → g.woken = true → woken)
      ∧ (∀ q s1, g.wake = some (.deq q) → wakeDeq s gid g q = some s1 → exec (.groupWake gid) s = .next (wakeUp s1 gid)))
    ∧ (∀ k, kern? s g.kern = some k → let others := ∃ j x, grp? s j = some x ∧ j ≠ gid ∧ x.kern = g.kern ∧ x.team = g.team ∧ x.st ≠ .saved
      let kept (g' : Group) : Prop := g'.st = .saved ∧ g'.s = g.s ∧ g'.a = g.a ∧ g'.lq = g.lq ∧ g'.handle = g.handle ∧ g'.yreq = false
      (g.st = .yielding → cutReady s gid g = true → cutBad s k g = false →
        (g.evict = true → g.yreq = false → Leaves (.cutComplete gid) s gid fun _ g' => g'.st = .saved ∧ g'.evict = true ∧
          g'.kern = g.kern ∧ g'.handle = g.handle)
        ∧ (g.evict = false → others → Leaves (.cutComplete gid) s gid fun _ g' => kept g' ∧ g'.whole = g.whole))
      ∧ (g.st = .parked → g.yreq = true → unitsDone s gid g = true → spillOut s gid g true = false → others →
        Leaves (.cutComplete gid) s gid fun _ g' => kept g' ∧ g'.whole = true))
    ∧ (∀ cn c, SMap.find? s.ctxs cn = some c → c.state = .quiescing → quiet s cn = true → Does (.contextSaveComplete cn) s fun t =>
      (ctxOf t cn).state = .saved ∧ (ctxOf t cn).last = 0 ∧
        (ctxOf t cn).cisize = recField (imageHeader s cn (ctxTeams s cn)) 8 8)
    ∧ (∀ k x, kern? s g.kern = some k → g.stop = some x → x.written = false → g.mops = [] →
      Leaves (.stopRecordWrite gid) s gid fun _ g' => g'.st = .stopped ∧ g'.stop = some { x with written := true } ∧ g'.pc = g.pc)
    ∧ (∀ k slot, kern? s g.kern = some k → (freeSlots s g.core).head? = some slot → restorable s g = true →
      (∀ e ∈ teamGroups s g.kern g.team, restorable s e.2 = true → e.2.evict = false → g.handle ≤ e.2.handle) →
      (g.evict = false → Leaves (.evictedGroupRestore gid) s gid fun _ g' => g' =
        { g with slot := slot, st := if g.whole then .parked else .pending, whole := false, setSince := s.now })
      ∧ (g.evict = true → badRun s ((ctxOf s g.ctx).savePool + g.saveAt) (recSize k g) = false →
        Leaves (.evictedGroupRestore gid) s gid fun _ g' => g'.slot = slot ∧ g'.handle = g.handle ∧ (g'.st = .pending ∨ g'.st = .parked)))
    ∧ (∀ line, g.wake = some .mwait → g.mon = some (line, true) → exec (.monitorTrigger gid) s = .next (setGrp s gid { g with woken := true }))
    ∧ (exec (.monitorDrop gid) s =
      .next (setGrp s gid { g with mon := none, woken := g.woken || decide (g.wake = some .mwait) }))
    ∧ (∀ line x, SMap.find? (coreOf s core).l1 line = some x → let u := writeBack s (coreDie core) line x
      (Does (.l1WritebackTimeout core line) s fun t => t.mem = u.mem ∧ t.dies = u.dies ∧
        SMap.find? (coreOf t core).l1 line = some { x with dirty := 0 })
      ∧ (x.dirty = 0 → Does (.l1CleanDrop core line) s fun t => ∀ y, SMap.find? (coreOf t core).l1 line = some y → y.dirty ≠ 0))

/-- Bramble (R57 to R61): a record joins its open entry or opens one; an entry that is full, old or waited for launches; a
launched entry becomes a group of its records, or makes the group blocked longest give up its slot. -/
def Obligations.SpawnEvents : Prop :=
  ∀ (s : State) (die e : Nat) (f : Forming),
    let entryIs (t : State) (n : Nat) (f' : Forming) : Prop := SMap.find? (dieSt t die).forming n = some f'
    (∀ cn i rest, (dieSt s die).waiting = (cn, i) :: rest → let kn := recRead s cn i 0 8
      let tn := recRead s cn i 12 4
      let target := BitVec.ofNat 64 (recRead s cn i 16 8)
      let found := (openEntries s die).find? fun e => e.2.kern = kn ∧ e.2.team = tn ∧ e.2.target = target ∧ e.2.records.length < 32
      (found = none → (openEntries s die).length < 64 → Does (.spawnRecordArrival die) s fun t => (dieSt t die).waiting = rest ∧
        entryIs t s.serial { kern := kn, team := tn, target := target, records := [i], opened := s.now })
      ∧ (found = some (e, f) → entryIs s e f → Does (.spawnRecordArrival die) s fun t => (dieSt t die).waiting = rest ∧
        ∃ f', entryIs t e f' ∧ f'.records = f.records ++ [i] ∧ f'.opened = f.opened ∧
          (f.records.length = 31 → teamHeld s f.kern f.team = false → f'.launched = some s.now)))
    ∧ (mayLaunch s die e = some f → let f' : Forming := { f with launched := some s.now }
      (f.opened + cycles 2048 ≤ s.now ∨ f.records.length = 32 → Does (.formingTimeout die e) s fun t => entryIs t e f')
      ∧ ((∃ x ∈ teamGroups s f.kern f.team, x.2.st = .blocked ∧ x.2.wake = some .join) →
        (∀ x ∈ slotHolders s (((team? s f.kern f.team).map (·.core)).getD 0), ready s x.1 x.2 = false) →
        Does (.formingJoinStallLaunch die e) s fun t => entryIs t e f'))
    ∧ (∀ n k x, entryIs s e f → f.launched = some n → kern? s f.kern = some k → team? s f.kern f.team = some x →
      teamHeld s f.kern f.team = false →
      (cycleOf n < cycleOf s.now → (∀ y ∈ (dieSt s die).forming, ∀ m, y.2.launched = some m → launchedBefore y.1 m e n = false) →
        (∀ y ∈ s.groups, y.2.core = x.core → restorable s y.2 = false) →
        ∀ slot en, (freeSlots s x.core).head? = some slot → freeEntry s k.ctx = some en →
        Leaves (.formedGroupPlace die e) s (gidAt k.ctx en) fun t g' => SMap.find? (dieSt t die).forming e = none ∧
          g'.kern = f.kern ∧ g'.team = f.team ∧ g'.handle = 16 + x.serial ∧ g'.spawned = true ∧ g'.slot = slot ∧ g'.pc = f.target
          ∧ g'.em = maskOf (List.range f.records.length) ∧ g'.present = g'.em ∧ g'.st = .pending)
      ∧ ((∀ y ∈ teamGroups s f.kern f.team, y.2.st = .yielding → y.2.evict = false) → freeSlots s x.core = [] →
        ∀ j g off s1, victim s k f.kern f.team = some (j, g) → poolTake s k.ctx (recSize k g) = some (off, s1) →
        Leaves (.spawnedGroupEvict die e) s j fun _ g' => g' =
          { g with st := .yielding, evict := true, saveAt := off, bqMark := g.bq.length }))

/-! ### Fabric and links (R186 to R204) -/

/-- Packets (R193, R195 to R204): what leaves the package and on which port, what an answer frees, and what is tried again or given
up.

The die-to-die links (R187 to R190): power-up and training, retraining on errors, what a flit does at its sender and its receiver,
and the striping of a flit over any number of working lanes. -/
def Obligations.FabricAndLinkEvents : Prop :=
  (∀ (s : State) (n core : Nat), s.fabric.portsUp = true →
    let sends (i : Instr) (p : Packet) (part : Option Nat) (idem : Bool) (seq line : Nat) (q : State → Prop) : Prop :=
      ∀ port, pickPort (match part with | some x => partRoute s x p.dst | none => routeMask s p.dst)
          (Config.portHash (lineKeyOf p.dst line)) = some port →
        Does i s fun t => t.fabric.out = s.fabric.out ++ [{
          src := s.fabric.pkgId, part := part, dst := p.dst, port := port, idem := idem, seq := seq, bytes := packetBytes p }] ∧ q t
    let packet (r : RReq) (tag : Nat) (ls : List LineReq) : Packet :=
      { op := r.op, src := s.fabric.pkgId, dst := r.dst, tag := tag, reqs := ls, status := [], words := [] }
    let answers (p : Packet) (op : Nat) (st : List Nat) (ws : List Word) : Packet :=
      { op := op, src := s.fabric.pkgId, dst := p.src, tag := p.tag, reqs := [], status := st, words := ws }
    let gone (i : Instr) (m : Nat) : Prop := Does i s fun t => SMap.find? t.fabric.reqs m = none
    (∀ r e ms tag, SMap.find? s.fabric.reqs n = some r → r.core = core → openPacket s core r = e :: ms →
      (15 ≤ ms.length ∨ e.2.opened + cycles 32 ≤ s.now) → partRoute s r.part r.dst ≠ 0 →
      pickTags s core (ms.length + 1) = some tag → sends (.coalescerPacketSend core n)
        (packet r (packetTag core tag) ((e :: ms).map fun e => e.2.line)) (some r.part) false s.serial e.2.line.line fun t =>
          (coreOf t core).nextTag = (tag + ms.length + 1) % 4096 ∧ (SMap.find? t.fabric.sent s.serial).map (·.reqs) = some ((e :: ms).map (·.1)))
    ∧ (∀ p, SMap.find? s.fabric.net n = some p → p.op = 1 ∨ p.op = 3 ∨ p.op = 4 → (∀ l ∈ p.reqs, enterHeld s (128 * l.line) = false) →
      let r := performEntries (takeNet s n) p.src p.op p.reqs
      (s.fabric.rxFull = false → sends (.remoteRequestArrival n)
        (answers p (if p.op = 1 then 2 else if p.op = 3 then 7 else 5) r.2.1 r.2.2) none false r.1.serial (firstLine p) fun t =>
          SMap.find? t.fabric.net n = none ∧ t.mem = r.1.mem)
      ∧ (s.fabric.rxFull = true → sends (.remoteRequestArrival n) (answers p 6 (p.reqs.map fun _ => 2) []) none false s.serial
        (firstLine p) fun t => SMap.find? t.fabric.net n = none ∧ t.mem = s.mem))
    ∧ (∀ p m r, SMap.find? s.fabric.net n = some p → p.status = [0] → answered s p 0 = some (m, r) → r.sync = false →
      (p.op = 2 → r.op = 1 → Does (.remoteReadResponse n) s fun t => SMap.find? t.fabric.reqs m = none ∧
        ∀ g, grp? s r.g = some g → grp? t r.g = some (addWords g r.stamp
          ((((List.range 16).filter fun i => r.line.mask.getLsbD i).map fun i => fabricAddr r.dst (128 * r.line.line) / 8 + i).zip
            (p.words.take (wordCount r)))))
      ∧ (p.op = 7 → r.op = 3 → r.line.rv = false → gone (.storeAcknowledgement n) m)
      ∧ (p.op = 5 → r.op = 4 → gone (.atomicResponse n) m))
    ∧ (∀ r, SMap.find? s.fabric.reqs n = some r →
      (∀ t0, r.retryAt = some t0 → t0 ≤ s.now → sends (.retryLaterResend n) (packet r (packetTag r.core r.tag) [r.line]) (some r.part)
        false s.serial r.line.line fun t => SMap.find? t.fabric.reqs n = some { r with retryAt := none })
      ∧ (r.op = 3 → r.sync = false →
        (∀ t0, r.refusedAt = some t0 → t0 + 17000000 ≤ s.now → gone (.retryLaterExpiry n) n)
        ∧ (r.sent = true → r.refusedAt = none → r.began + 17000000 ≤ s.now → gone (.transportTimeout n) n)))
    ∧ (∀ x, SMap.find? s.fabric.sent n = some x → sends (.transportTimeoutResend n) x.pkt (some x.part) (x.pkt.op == 1) x.seq
      (firstLine x.pkt) fun t => SMap.find? t.fabric.sent n = some { x with tries := x.tries + 1, at_ := s.now }))
  ∧
  (∀ (s : State) (die l : Nat) (pass : BitVec 16) (toDie : Bool) (flit : BitVec 2048) (lanes : List (List (BitVec 64))),
    let x := linkOf s l
    let ok := pass &&& ~~~x.dropped
    let training := x.state = .training ∨ x.state = .retraining
    let ends (q : Link → Prop) : Prop := Does (.linkTrainingEnd l pass) s fun t => q (linkOf t l)
    let to_ (y : Link) : LinkEnd := if toDie then y.die else y.switch
    let from_ (y : Link) : LinkEnd := if toDie then y.switch else y.die
    let receives (q : LinkEnd → LinkEnd → Prop) : Prop :=
      Does (.flitReceive l toDie ⟨flit, lanes⟩) s fun t => q (to_ (linkOf t l)) (from_ (linkOf t l))
    let h := flitHeader flit
    let pay := flitPay flit
    let got := unstripe (linkN x) (workingStreams x.lanes lanes)
    (die < 4 → (dieSt s die).powered = true → Does (.linkPowerUp die) s fun t => ∀ i < 4, let y := linkOf s (4 * die + i)
      linkOf t (4 * die + i) = if y.state = .down then { y with state := .training, tries := 0 } else y)
    ∧ (l < 16 → training →
      (1 ≤ popc 16 ok.toNat → ends fun y => y.lanes = ok ∧ y.tries = 0 ∧
        y.state = if minLanes x ≤ popc 16 ok.toNat then .up else .degraded)
      ∧ (popc 16 ok.toNat = 0 → 2 ≤ x.tries → ends fun y => y.state = .failed ∧ y.lanes = 0)
      ∧ (popc 16 ok.toNat = 0 → x.tries < 2 → ends fun y => y.state = x.state ∧ y.tries = x.tries + 1))
    ∧ (linkUp x = true → linkErrors s.now x.die = true ∨ linkErrors s.now x.switch = true → Does (.linkErrorRetrain l) s fun t =>
      (linkOf t l).state = .retraining ∧ (linkOf t l).die.replay.map (·.bytes) = x.die.replay.map (·.bytes))
    ∧ (l < 16 → linkUp x = true → flitGood flit = true → canSendFlit (from_ x) (to_ x) h pay = true →
      (flitGood got = false → receives fun y z => y = { to_ x with nakDue := true } ∧ z = endSent (from_ x) h pay)
      ∧ (got = flit → hKind h = 1 →
        (receives fun y _ => if hSeq h = (to_ x).rxSeq then y.rxSeq = (hSeq h + 1) % 4096 ∧ y.got = (to_ x).got ++ [(hClass h, pay)]
          else y.rxSeq = (to_ x).rxSeq ∧ y.got = (to_ x).got)
        ∧ ((from_ x).again = [] → receives fun _ z => z.txSeq = ((from_ x).txSeq + 1) % 4096 ∧ z.owed = (from_ x).owed.drop 1 ∧
          z.replay = (from_ x).replay ++ [{ seq := hSeq h, cls := hClass h, bytes := pay }])
        ∧ (∀ a rest, (from_ x).again = a :: rest → receives fun _ z => z = { from_ x with again := rest }))
      ∧ (got = flit → hKind h = 2 → receives fun y z => z.nakDue = false ∧ y.again = y.replay.map (·.seq) ∧
        y.replay.map (·.bytes) = (unackedFlits (to_ x).replay (bits h 12 12)).map (·.bytes)))
    ∧ ∀ k, 1 ≤ k → k ≤ 16 → unstripe k (stripe k flit) = flit ∧ (stripe k flit).length = k ∧
      ∀ ls ∈ stripe k flit, ls.length = ((256 + k - 1) / k + 7) / 8)
end

