-- ==== Sys2Proof/Laws/Store.lean ====
section
/-! SUPPORT. What the operations of a sparse table do: reads after writes, and the canonical form. None of the read laws
needs the table to be sorted. -/

namespace Sys2Proof.Machine

variable {α : Type}

@[simp] theorem SMap.find?_nil (k : Nat) : SMap.find? ([] : SMap α) k = none := rfl

theorem SMap.find?_cons (e : Nat × α) (m : SMap α) (k : Nat) :
    SMap.find? (e :: m) k = if k = e.1 then some e.2 else SMap.find? m k := rfl

@[simp] theorem SMap.find?_put_same (m : SMap α) (k : Nat) (x : α) : SMap.find? (SMap.put m k x) k = some x := by
  induction m with
  | nil => simp [SMap.put, SMap.find?]
  | cons e m ih =>
    simp only [SMap.put]
    split
    · simp [SMap.find?]
    · split
      · simp [SMap.find?]
      · simp_all [SMap.find?]

theorem SMap.find?_put_other (m : SMap α) {k j : Nat} (x : α) (h : j ≠ k) :
    SMap.find? (SMap.put m k x) j = SMap.find? m j := by
  induction m with
  | nil => simp [SMap.put, SMap.find?, h]
  | cons e m ih =>
    simp only [SMap.put]
    split
    · simp [SMap.find?, h]
    · split
      · next _ hk => simp [SMap.find?, h, ← hk]
      · simp [SMap.find?, ih]

theorem SMap.put_put (m : SMap α) (k : Nat) (x y : α) : SMap.put (SMap.put m k x) k y = SMap.put m k y := by
  induction m with
  | nil => simp [SMap.put]
  | cons e m ih =>
    simp only [SMap.put]
    split
    · simp [SMap.put]
    · split
      · simp [SMap.put]
      · next h1 h2 => simp [SMap.put, h1, h2, ih]

theorem SMap.find?_put (m : SMap α) (k j : Nat) (x : α) :
    SMap.find? (SMap.put m k x) j = if j = k then some x else SMap.find? m j := by
  by_cases h : j = k
  · simp [h]
  · simp [h, SMap.find?_put_other m x h]

@[simp] theorem SMap.find?_erase_same (m : SMap α) (k : Nat) : SMap.find? (SMap.erase m k) k = none := by
  induction m with
  | nil => rfl
  | cons e m ih =>
    simp only [SMap.erase]
    split
    · exact ih
    · next h => simp [SMap.find?, h, ih]

theorem SMap.find?_erase_other (m : SMap α) {k j : Nat} (h : j ≠ k) : SMap.find? (SMap.erase m k) j = SMap.find? m j := by
  induction m with
  | nil => rfl
  | cons e m ih =>
    simp only [SMap.erase]
    split
    · next hk => simp [SMap.find?, ih, ← hk, h]
    · simp [SMap.find?, ih]

theorem SMap.find?_erase (m : SMap α) (k j : Nat) :
    SMap.find? (SMap.erase m k) j = if j = k then none else SMap.find? m j := by
  by_cases h : j = k
  · simp [h]
  · simp [h, SMap.find?_erase_other m h]

@[simp] theorem SMap.get_nil (d : α) (k : Nat) : SMap.get ([] : SMap α) d k = d := rfl

@[simp] theorem SMap.get_set_same [DecidableEq α] (m : SMap α) (d : α) (k : Nat) (x : α) :
    SMap.get (SMap.set m d k x) d k = x := by
  unfold SMap.get SMap.set
  split
  · next h => simp [h]
  · simp

theorem SMap.get_set_other [DecidableEq α] (m : SMap α) (d : α) {k j : Nat} (x : α) (h : j ≠ k) :
    SMap.get (SMap.set m d k x) d j = SMap.get m d j := by
  unfold SMap.get SMap.set
  split
  · simp [SMap.find?_erase_other m h]
  · simp [SMap.find?_put_other m x h]

theorem SMap.get_set [DecidableEq α] (m : SMap α) (d : α) (k j : Nat) (x : α) :
    SMap.get (SMap.set m d k x) d j = if j = k then x else SMap.get m d j := by
  by_cases h : j = k
  · simp [h]
  · simp [h, SMap.get_set_other m d x h]

theorem SMap.find?_modify (m : SMap α) (k j : Nat) (f : α → α) :
    SMap.find? (SMap.modify m k f) j = if j = k then (SMap.find? m k).map f else SMap.find? m j := by
  unfold SMap.modify
  split
  · next x hx => simp [SMap.find?_put, hx]
  · next hx => by_cases h : j = k <;> simp [h, hx]

@[simp] theorem SMap.find?_modify_same (m : SMap α) (k : Nat) (f : α → α) :
    SMap.find? (SMap.modify m k f) k = (SMap.find? m k).map f := by simp [SMap.find?_modify]

theorem SMap.find?_modify_other (m : SMap α) {k j : Nat} (f : α → α) (h : j ≠ k) :
    SMap.find? (SMap.modify m k f) j = SMap.find? m j := by simp [SMap.find?_modify, h]

/-- A change of each entry's value that keeps its key is a change of what is found. -/
theorem SMap.find?_map (m : SMap α) (k : Nat) (f : Nat × α → Nat × α) (h : ∀ e, (f e).1 = e.1) :
    SMap.find? (m.map f) k = (SMap.find? m k).map fun x => (f (k, x)).2 := by
  induction m with
  | nil => rfl
  | cons e m ih =>
    simp only [List.map_cons, SMap.find?, h]
    split
    · next hk => subst hk; rfl
    · exact ih

/-! ### The canonical form -/

theorem SMap.sorted_cons (e : Nat × α) (m : SMap α) :
    SMap.sorted (e :: m) = true ↔ (∀ e' ∈ m.head?, e.1 < e'.1) ∧ SMap.sorted m = true := by
  cases m <;> simp [SMap.sorted]

theorem SMap.sorted_tail {e : Nat × α} {m : SMap α} (h : SMap.sorted (e :: m) = true) : SMap.sorted m = true :=
  ((SMap.sorted_cons e m).1 h).2

theorem SMap.sorted_lt {e : Nat × α} {m : SMap α} (h : SMap.sorted (e :: m) = true) : ∀ e' ∈ m, e.1 < e'.1 := by
  induction m generalizing e with
  | nil => simp
  | cons f m ih =>
    have hf : e.1 < f.1 := by simpa using ((SMap.sorted_cons e (f :: m)).1 h).1
    intro e' he'
    rcases List.mem_cons.1 he' with rfl | hm
    · exact hf
    · exact Nat.lt_trans hf (ih (SMap.sorted_tail h) e' hm)

theorem SMap.sorted_of_lt {e : Nat × α} {m : SMap α} (h : ∀ e' ∈ m, e.1 < e'.1) (hm : SMap.sorted m = true) :
    SMap.sorted (e :: m) = true :=
  (SMap.sorted_cons e m).2 ⟨fun e' he' => h e' (List.mem_of_mem_head? he'), hm⟩

theorem SMap.mem_put {m : SMap α} {k : Nat} {x : α} {e : Nat × α} (h : e ∈ SMap.put m k x) : e = (k, x) ∨ e ∈ m := by
  induction m with
  | nil => simpa [SMap.put] using h
  | cons f m ih =>
    simp only [SMap.put] at h
    split at h
    · simpa using h
    · split at h
      · rcases List.mem_cons.1 h with h | h
        · exact .inl h
        · exact .inr (List.mem_cons_of_mem _ h)
      · rcases List.mem_cons.1 h with h | h
        · exact .inr (h ▸ List.mem_cons_self)
        · rcases ih h with h | h
          · exact .inl h
          · exact .inr (List.mem_cons_of_mem _ h)

theorem SMap.mem_erase {m : SMap α} {k : Nat} {e : Nat × α} (h : e ∈ SMap.erase m k) : e ∈ m := by
  induction m with
  | nil => simp [SMap.erase] at h
  | cons f m ih =>
    simp only [SMap.erase] at h
    split at h
    · exact List.mem_cons_of_mem _ (ih h)
    · rcases List.mem_cons.1 h with h | h
      · exact h ▸ List.mem_cons_self
      · exact List.mem_cons_of_mem _ (ih h)

theorem SMap.sorted_put {m : SMap α} (k : Nat) (x : α) (h : SMap.sorted m = true) : SMap.sorted (SMap.put m k x) = true := by
  induction m with
  | nil => rfl
  | cons e m ih =>
    simp only [SMap.put]
    split
    · next hk => exact (SMap.sorted_cons _ _).2 ⟨by simpa using hk, h⟩
    · split
      · next _ hk => exact SMap.sorted_of_lt (fun e' he' => hk ▸ SMap.sorted_lt h e' he') (SMap.sorted_tail h)
      · next h1 h2 =>
        refine SMap.sorted_of_lt (fun e' he' => ?_) (ih (SMap.sorted_tail h))
        rcases SMap.mem_put he' with rfl | hm
        · show e.1 < k
          omega
        · exact SMap.sorted_lt h e' hm

theorem SMap.sorted_erase {m : SMap α} (k : Nat) (h : SMap.sorted m = true) : SMap.sorted (SMap.erase m k) = true := by
  induction m with
  | nil => rfl
  | cons e m ih =>
    simp only [SMap.erase]
    split
    · exact ih (SMap.sorted_tail h)
    · exact SMap.sorted_of_lt (fun e' he' => SMap.sorted_lt h e' (SMap.mem_erase he')) (ih (SMap.sorted_tail h))

theorem SMap.wf_nil [DecidableEq α] (d : α) : SMap.wf ([] : SMap α) d = true := rfl

theorem SMap.wf_set [DecidableEq α] {m : SMap α} {d : α} (k : Nat) (x : α) (h : SMap.wf m d = true) :
    SMap.wf (SMap.set m d k x) d = true := by
  simp only [SMap.wf, Bool.and_eq_true, List.all_eq_true] at h ⊢
  unfold SMap.set
  split
  · exact ⟨SMap.sorted_erase k h.1, fun e he => h.2 e (SMap.mem_erase he)⟩
  · next hx =>
    refine ⟨SMap.sorted_put k x h.1, fun e he => ?_⟩
    rcases SMap.mem_put he with rfl | hm
    · simpa using hx
    · exact h.2 e hm

end Sys2Proof.Machine
end

