-- ==== Sys2Proof/Laws/State.lean ====
section
/-! SUPPORT. What each update of a part of the state leaves of every field, and what is then read back. -/

namespace Sys2Proof.Machine

open Sys2Proof

variable (s : State)

/-! ### setGrp -/

@[simp] theorem setGrp_agenda (g : Nat) (x : Group) : (setGrp s g x).agenda = s.agenda := rfl
@[simp] theorem setGrp_cur (g : Nat) (x : Group) : (setGrp s g x).cur = s.cur := rfl
@[simp] theorem setGrp_free (g : Nat) (x : Group) : (setGrp s g x).free = s.free := rfl
@[simp] theorem setGrp_now (g : Nat) (x : Group) : (setGrp s g x).now = s.now := rfl
@[simp] theorem setGrp_serial (g : Nat) (x : Group) : (setGrp s g x).serial = s.serial := rfl
@[simp] theorem setGrp_mem (g : Nat) (x : Group) : (setGrp s g x).mem = s.mem := rfl
@[simp] theorem setGrp_lineKey (g : Nat) (x : Group) : (setGrp s g x).lineKey = s.lineKey := rfl
@[simp] theorem setGrp_bad (g : Nat) (x : Group) : (setGrp s g x).bad = s.bad := rfl
@[simp] theorem setGrp_keys (g : Nat) (x : Group) : (setGrp s g x).keys = s.keys := rfl
@[simp] theorem setGrp_groups (g : Nat) (x : Group) : (setGrp s g x).groups = SMap.put s.groups g x := rfl
@[simp] theorem setGrp_teams (g : Nat) (x : Group) : (setGrp s g x).teams = s.teams := rfl
@[simp] theorem setGrp_spans (g : Nat) (x : Group) : (setGrp s g x).spans = s.spans := rfl
@[simp] theorem setGrp_kernels (g : Nat) (x : Group) : (setGrp s g x).kernels = s.kernels := rfl
@[simp] theorem setGrp_graphs (g : Nat) (x : Group) : (setGrp s g x).graphs = s.graphs := rfl
@[simp] theorem setGrp_ctxs (g : Nat) (x : Group) : (setGrp s g x).ctxs = s.ctxs := rfl
@[simp] theorem setGrp_parts (g : Nat) (x : Group) : (setGrp s g x).parts = s.parts := rfl
@[simp] theorem setGrp_cores (g : Nat) (x : Group) : (setGrp s g x).cores = s.cores := rfl
@[simp] theorem setGrp_dies (g : Nat) (x : Group) : (setGrp s g x).dies = s.dies := rfl
@[simp] theorem setGrp_queues (g : Nat) (x : Group) : (setGrp s g x).queues = s.queues := rfl
@[simp] theorem setGrp_engines (g : Nat) (x : Group) : (setGrp s g x).engines = s.engines := rfl
@[simp] theorem setGrp_migr (g : Nat) (x : Group) : (setGrp s g x).migr = s.migr := rfl
@[simp] theorem setGrp_homeQ (g : Nat) (x : Group) : (setGrp s g x).homeQ = s.homeQ := rfl
@[simp] theorem setGrp_fabric (g : Nat) (x : Group) : (setGrp s g x).fabric = s.fabric := rfl
@[simp] theorem setGrp_links (g : Nat) (x : Group) : (setGrp s g x).links = s.links := rfl
@[simp] theorem setGrp_damask (g : Nat) (x : Group) : (setGrp s g x).damask = s.damask := rfl
@[simp] theorem setGrp_imqua (g : Nat) (x : Group) : (setGrp s g x).imqua = s.imqua := rfl
@[simp] theorem setGrp_irqs (g : Nat) (x : Group) : (setGrp s g x).irqs = s.irqs := rfl

/-! ### modGrp -/

@[simp] theorem modGrp_agenda (g : Nat) (f : Group → Group) : (modGrp s g f).agenda = s.agenda := rfl
@[simp] theorem modGrp_cur (g : Nat) (f : Group → Group) : (modGrp s g f).cur = s.cur := rfl
@[simp] theorem modGrp_free (g : Nat) (f : Group → Group) : (modGrp s g f).free = s.free := rfl
@[simp] theorem modGrp_now (g : Nat) (f : Group → Group) : (modGrp s g f).now = s.now := rfl
@[simp] theorem modGrp_serial (g : Nat) (f : Group → Group) : (modGrp s g f).serial = s.serial := rfl
@[simp] theorem modGrp_mem (g : Nat) (f : Group → Group) : (modGrp s g f).mem = s.mem := rfl
@[simp] theorem modGrp_lineKey (g : Nat) (f : Group → Group) : (modGrp s g f).lineKey = s.lineKey := rfl
@[simp] theorem modGrp_bad (g : Nat) (f : Group → Group) : (modGrp s g f).bad = s.bad := rfl
@[simp] theorem modGrp_keys (g : Nat) (f : Group → Group) : (modGrp s g f).keys = s.keys := rfl
@[simp] theorem modGrp_groups (g : Nat) (f : Group → Group) : (modGrp s g f).groups = SMap.modify s.groups g f := rfl
@[simp] theorem modGrp_teams (g : Nat) (f : Group → Group) : (modGrp s g f).teams = s.teams := rfl
@[simp] theorem modGrp_spans (g : Nat) (f : Group → Group) : (modGrp s g f).spans = s.spans := rfl
@[simp] theorem modGrp_kernels (g : Nat) (f : Group → Group) : (modGrp s g f).kernels = s.kernels := rfl
@[simp] theorem modGrp_graphs (g : Nat) (f : Group → Group) : (modGrp s g f).graphs = s.graphs := rfl
@[simp] theorem modGrp_ctxs (g : Nat) (f : Group → Group) : (modGrp s g f).ctxs = s.ctxs := rfl
@[simp] theorem modGrp_parts (g : Nat) (f : Group → Group) : (modGrp s g f).parts = s.parts := rfl
@[simp] theorem modGrp_cores (g : Nat) (f : Group → Group) : (modGrp s g f).cores = s.cores := rfl
@[simp] theorem modGrp_dies (g : Nat) (f : Group → Group) : (modGrp s g f).dies = s.dies := rfl
@[simp] theorem modGrp_queues (g : Nat) (f : Group → Group) : (modGrp s g f).queues = s.queues := rfl
@[simp] theorem modGrp_engines (g : Nat) (f : Group → Group) : (modGrp s g f).engines = s.engines := rfl
@[simp] theorem modGrp_migr (g : Nat) (f : Group → Group) : (modGrp s g f).migr = s.migr := rfl
@[simp] theorem modGrp_homeQ (g : Nat) (f : Group → Group) : (modGrp s g f).homeQ = s.homeQ := rfl
@[simp] theorem modGrp_fabric (g : Nat) (f : Group → Group) : (modGrp s g f).fabric = s.fabric := rfl
@[simp] theorem modGrp_links (g : Nat) (f : Group → Group) : (modGrp s g f).links = s.links := rfl
@[simp] theorem modGrp_damask (g : Nat) (f : Group → Group) : (modGrp s g f).damask = s.damask := rfl
@[simp] theorem modGrp_imqua (g : Nat) (f : Group → Group) : (modGrp s g f).imqua = s.imqua := rfl
@[simp] theorem modGrp_irqs (g : Nat) (f : Group → Group) : (modGrp s g f).irqs = s.irqs := rfl

/-! ### modCtx -/

@[simp] theorem modCtx_agenda (c : Nat) (f : Context → Context) : (modCtx s c f).agenda = s.agenda := rfl
@[simp] theorem modCtx_cur (c : Nat) (f : Context → Context) : (modCtx s c f).cur = s.cur := rfl
@[simp] theorem modCtx_free (c : Nat) (f : Context → Context) : (modCtx s c f).free = s.free := rfl
@[simp] theorem modCtx_now (c : Nat) (f : Context → Context) : (modCtx s c f).now = s.now := rfl
@[simp] theorem modCtx_serial (c : Nat) (f : Context → Context) : (modCtx s c f).serial = s.serial := rfl
@[simp] theorem modCtx_mem (c : Nat) (f : Context → Context) : (modCtx s c f).mem = s.mem := rfl
@[simp] theorem modCtx_lineKey (c : Nat) (f : Context → Context) : (modCtx s c f).lineKey = s.lineKey := rfl
@[simp] theorem modCtx_bad (c : Nat) (f : Context → Context) : (modCtx s c f).bad = s.bad := rfl
@[simp] theorem modCtx_keys (c : Nat) (f : Context → Context) : (modCtx s c f).keys = s.keys := rfl
@[simp] theorem modCtx_groups (c : Nat) (f : Context → Context) : (modCtx s c f).groups = s.groups := rfl
@[simp] theorem modCtx_teams (c : Nat) (f : Context → Context) : (modCtx s c f).teams = s.teams := rfl
@[simp] theorem modCtx_spans (c : Nat) (f : Context → Context) : (modCtx s c f).spans = s.spans := rfl
@[simp] theorem modCtx_kernels (c : Nat) (f : Context → Context) : (modCtx s c f).kernels = s.kernels := rfl
@[simp] theorem modCtx_graphs (c : Nat) (f : Context → Context) : (modCtx s c f).graphs = s.graphs := rfl
@[simp] theorem modCtx_ctxs (c : Nat) (f : Context → Context) : (modCtx s c f).ctxs = SMap.modify s.ctxs c f := rfl
@[simp] theorem modCtx_parts (c : Nat) (f : Context → Context) : (modCtx s c f).parts = s.parts := rfl
@[simp] theorem modCtx_cores (c : Nat) (f : Context → Context) : (modCtx s c f).cores = s.cores := rfl
@[simp] theorem modCtx_dies (c : Nat) (f : Context → Context) : (modCtx s c f).dies = s.dies := rfl
@[simp] theorem modCtx_queues (c : Nat) (f : Context → Context) : (modCtx s c f).queues = s.queues := rfl
@[simp] theorem modCtx_engines (c : Nat) (f : Context → Context) : (modCtx s c f).engines = s.engines := rfl
@[simp] theorem modCtx_migr (c : Nat) (f : Context → Context) : (modCtx s c f).migr = s.migr := rfl
@[simp] theorem modCtx_homeQ (c : Nat) (f : Context → Context) : (modCtx s c f).homeQ = s.homeQ := rfl
@[simp] theorem modCtx_fabric (c : Nat) (f : Context → Context) : (modCtx s c f).fabric = s.fabric := rfl
@[simp] theorem modCtx_links (c : Nat) (f : Context → Context) : (modCtx s c f).links = s.links := rfl
@[simp] theorem modCtx_damask (c : Nat) (f : Context → Context) : (modCtx s c f).damask = s.damask := rfl
@[simp] theorem modCtx_imqua (c : Nat) (f : Context → Context) : (modCtx s c f).imqua = s.imqua := rfl
@[simp] theorem modCtx_irqs (c : Nat) (f : Context → Context) : (modCtx s c f).irqs = s.irqs := rfl

/-! ### modKern -/

@[simp] theorem modKern_agenda (k : Nat) (f : Kernel → Kernel) : (modKern s k f).agenda = s.agenda := rfl
@[simp] theorem modKern_cur (k : Nat) (f : Kernel → Kernel) : (modKern s k f).cur = s.cur := rfl
@[simp] theorem modKern_free (k : Nat) (f : Kernel → Kernel) : (modKern s k f).free = s.free := rfl
@[simp] theorem modKern_now (k : Nat) (f : Kernel → Kernel) : (modKern s k f).now = s.now := rfl
@[simp] theorem modKern_serial (k : Nat) (f : Kernel → Kernel) : (modKern s k f).serial = s.serial := rfl
@[simp] theorem modKern_mem (k : Nat) (f : Kernel → Kernel) : (modKern s k f).mem = s.mem := rfl
@[simp] theorem modKern_lineKey (k : Nat) (f : Kernel → Kernel) : (modKern s k f).lineKey = s.lineKey := rfl
@[simp] theorem modKern_bad (k : Nat) (f : Kernel → Kernel) : (modKern s k f).bad = s.bad := rfl
@[simp] theorem modKern_keys (k : Nat) (f : Kernel → Kernel) : (modKern s k f).keys = s.keys := rfl
@[simp] theorem modKern_groups (k : Nat) (f : Kernel → Kernel) : (modKern s k f).groups = s.groups := rfl
@[simp] theorem modKern_teams (k : Nat) (f : Kernel → Kernel) : (modKern s k f).teams = s.teams := rfl
@[simp] theorem modKern_spans (k : Nat) (f : Kernel → Kernel) : (modKern s k f).spans = s.spans := rfl
@[simp] theorem modKern_kernels (k : Nat) (f : Kernel → Kernel) : (modKern s k f).kernels = SMap.modify s.kernels k f := rfl
@[simp] theorem modKern_graphs (k : Nat) (f : Kernel → Kernel) : (modKern s k f).graphs = s.graphs := rfl
@[simp] theorem modKern_ctxs (k : Nat) (f : Kernel → Kernel) : (modKern s k f).ctxs = s.ctxs := rfl
@[simp] theorem modKern_parts (k : Nat) (f : Kernel → Kernel) : (modKern s k f).parts = s.parts := rfl
@[simp] theorem modKern_cores (k : Nat) (f : Kernel → Kernel) : (modKern s k f).cores = s.cores := rfl
@[simp] theorem modKern_dies (k : Nat) (f : Kernel → Kernel) : (modKern s k f).dies = s.dies := rfl
@[simp] theorem modKern_queues (k : Nat) (f : Kernel → Kernel) : (modKern s k f).queues = s.queues := rfl
@[simp] theorem modKern_engines (k : Nat) (f : Kernel → Kernel) : (modKern s k f).engines = s.engines := rfl
@[simp] theorem modKern_migr (k : Nat) (f : Kernel → Kernel) : (modKern s k f).migr = s.migr := rfl
@[simp] theorem modKern_homeQ (k : Nat) (f : Kernel → Kernel) : (modKern s k f).homeQ = s.homeQ := rfl
@[simp] theorem modKern_fabric (k : Nat) (f : Kernel → Kernel) : (modKern s k f).fabric = s.fabric := rfl
@[simp] theorem modKern_links (k : Nat) (f : Kernel → Kernel) : (modKern s k f).links = s.links := rfl
@[simp] theorem modKern_damask (k : Nat) (f : Kernel → Kernel) : (modKern s k f).damask = s.damask := rfl
@[simp] theorem modKern_imqua (k : Nat) (f : Kernel → Kernel) : (modKern s k f).imqua = s.imqua := rfl
@[simp] theorem modKern_irqs (k : Nat) (f : Kernel → Kernel) : (modKern s k f).irqs = s.irqs := rfl

/-! ### setCore -/

@[simp] theorem setCore_agenda (c : Nat) (x : Core) : (setCore s c x).agenda = s.agenda := rfl
@[simp] theorem setCore_cur (c : Nat) (x : Core) : (setCore s c x).cur = s.cur := rfl
@[simp] theorem setCore_free (c : Nat) (x : Core) : (setCore s c x).free = s.free := rfl
@[simp] theorem setCore_now (c : Nat) (x : Core) : (setCore s c x).now = s.now := rfl
@[simp] theorem setCore_serial (c : Nat) (x : Core) : (setCore s c x).serial = s.serial := rfl
@[simp] theorem setCore_mem (c : Nat) (x : Core) : (setCore s c x).mem = s.mem := rfl
@[simp] theorem setCore_lineKey (c : Nat) (x : Core) : (setCore s c x).lineKey = s.lineKey := rfl
@[simp] theorem setCore_bad (c : Nat) (x : Core) : (setCore s c x).bad = s.bad := rfl
@[simp] theorem setCore_keys (c : Nat) (x : Core) : (setCore s c x).keys = s.keys := rfl
@[simp] theorem setCore_groups (c : Nat) (x : Core) : (setCore s c x).groups = s.groups := rfl
@[simp] theorem setCore_teams (c : Nat) (x : Core) : (setCore s c x).teams = s.teams := rfl
@[simp] theorem setCore_spans (c : Nat) (x : Core) : (setCore s c x).spans = s.spans := rfl
@[simp] theorem setCore_kernels (c : Nat) (x : Core) : (setCore s c x).kernels = s.kernels := rfl
@[simp] theorem setCore_graphs (c : Nat) (x : Core) : (setCore s c x).graphs = s.graphs := rfl
@[simp] theorem setCore_ctxs (c : Nat) (x : Core) : (setCore s c x).ctxs = s.ctxs := rfl
@[simp] theorem setCore_parts (c : Nat) (x : Core) : (setCore s c x).parts = s.parts := rfl
@[simp] theorem setCore_cores (c : Nat) (x : Core) : (setCore s c x).cores = SMap.set s.cores {} c x := rfl
@[simp] theorem setCore_dies (c : Nat) (x : Core) : (setCore s c x).dies = s.dies := rfl
@[simp] theorem setCore_queues (c : Nat) (x : Core) : (setCore s c x).queues = s.queues := rfl
@[simp] theorem setCore_engines (c : Nat) (x : Core) : (setCore s c x).engines = s.engines := rfl
@[simp] theorem setCore_migr (c : Nat) (x : Core) : (setCore s c x).migr = s.migr := rfl
@[simp] theorem setCore_homeQ (c : Nat) (x : Core) : (setCore s c x).homeQ = s.homeQ := rfl
@[simp] theorem setCore_fabric (c : Nat) (x : Core) : (setCore s c x).fabric = s.fabric := rfl
@[simp] theorem setCore_links (c : Nat) (x : Core) : (setCore s c x).links = s.links := rfl
@[simp] theorem setCore_damask (c : Nat) (x : Core) : (setCore s c x).damask = s.damask := rfl
@[simp] theorem setCore_imqua (c : Nat) (x : Core) : (setCore s c x).imqua = s.imqua := rfl
@[simp] theorem setCore_irqs (c : Nat) (x : Core) : (setCore s c x).irqs = s.irqs := rfl

/-! ### modCore -/

@[simp] theorem modCore_agenda (c : Nat) (f : Core → Core) : (modCore s c f).agenda = s.agenda := rfl
@[simp] theorem modCore_cur (c : Nat) (f : Core → Core) : (modCore s c f).cur = s.cur := rfl
@[simp] theorem modCore_free (c : Nat) (f : Core → Core) : (modCore s c f).free = s.free := rfl
@[simp] theorem modCore_now (c : Nat) (f : Core → Core) : (modCore s c f).now = s.now := rfl
@[simp] theorem modCore_serial (c : Nat) (f : Core → Core) : (modCore s c f).serial = s.serial := rfl
@[simp] theorem modCore_mem (c : Nat) (f : Core → Core) : (modCore s c f).mem = s.mem := rfl
@[simp] theorem modCore_lineKey (c : Nat) (f : Core → Core) : (modCore s c f).lineKey = s.lineKey := rfl
@[simp] theorem modCore_bad (c : Nat) (f : Core → Core) : (modCore s c f).bad = s.bad := rfl
@[simp] theorem modCore_keys (c : Nat) (f : Core → Core) : (modCore s c f).keys = s.keys := rfl
@[simp] theorem modCore_groups (c : Nat) (f : Core → Core) : (modCore s c f).groups = s.groups := rfl
@[simp] theorem modCore_teams (c : Nat) (f : Core → Core) : (modCore s c f).teams = s.teams := rfl
@[simp] theorem modCore_spans (c : Nat) (f : Core → Core) : (modCore s c f).spans = s.spans := rfl
@[simp] theorem modCore_kernels (c : Nat) (f : Core → Core) : (modCore s c f).kernels = s.kernels := rfl
@[simp] theorem modCore_graphs (c : Nat) (f : Core → Core) : (modCore s c f).graphs = s.graphs := rfl
@[simp] theorem modCore_ctxs (c : Nat) (f : Core → Core) : (modCore s c f).ctxs = s.ctxs := rfl
@[simp] theorem modCore_parts (c : Nat) (f : Core → Core) : (modCore s c f).parts = s.parts := rfl
@[simp] theorem modCore_cores (c : Nat) (f : Core → Core) : (modCore s c f).cores = SMap.set s.cores {} c (f (coreOf s c)) := rfl
@[simp] theorem modCore_dies (c : Nat) (f : Core → Core) : (modCore s c f).dies = s.dies := rfl
@[simp] theorem modCore_queues (c : Nat) (f : Core → Core) : (modCore s c f).queues = s.queues := rfl
@[simp] theorem modCore_engines (c : Nat) (f : Core → Core) : (modCore s c f).engines = s.engines := rfl
@[simp] theorem modCore_migr (c : Nat) (f : Core → Core) : (modCore s c f).migr = s.migr := rfl
@[simp] theorem modCore_homeQ (c : Nat) (f : Core → Core) : (modCore s c f).homeQ = s.homeQ := rfl
@[simp] theorem modCore_fabric (c : Nat) (f : Core → Core) : (modCore s c f).fabric = s.fabric := rfl
@[simp] theorem modCore_links (c : Nat) (f : Core → Core) : (modCore s c f).links = s.links := rfl
@[simp] theorem modCore_damask (c : Nat) (f : Core → Core) : (modCore s c f).damask = s.damask := rfl
@[simp] theorem modCore_imqua (c : Nat) (f : Core → Core) : (modCore s c f).imqua = s.imqua := rfl
@[simp] theorem modCore_irqs (c : Nat) (f : Core → Core) : (modCore s c f).irqs = s.irqs := rfl

/-! ### modDie -/

@[simp] theorem modDie_agenda (d : Nat) (f : Die → Die) : (modDie s d f).agenda = s.agenda := rfl
@[simp] theorem modDie_cur (d : Nat) (f : Die → Die) : (modDie s d f).cur = s.cur := rfl
@[simp] theorem modDie_free (d : Nat) (f : Die → Die) : (modDie s d f).free = s.free := rfl
@[simp] theorem modDie_now (d : Nat) (f : Die → Die) : (modDie s d f).now = s.now := rfl
@[simp] theorem modDie_serial (d : Nat) (f : Die → Die) : (modDie s d f).serial = s.serial := rfl
@[simp] theorem modDie_mem (d : Nat) (f : Die → Die) : (modDie s d f).mem = s.mem := rfl
@[simp] theorem modDie_lineKey (d : Nat) (f : Die → Die) : (modDie s d f).lineKey = s.lineKey := rfl
@[simp] theorem modDie_bad (d : Nat) (f : Die → Die) : (modDie s d f).bad = s.bad := rfl
@[simp] theorem modDie_keys (d : Nat) (f : Die → Die) : (modDie s d f).keys = s.keys := rfl
@[simp] theorem modDie_groups (d : Nat) (f : Die → Die) : (modDie s d f).groups = s.groups := rfl
@[simp] theorem modDie_teams (d : Nat) (f : Die → Die) : (modDie s d f).teams = s.teams := rfl
@[simp] theorem modDie_spans (d : Nat) (f : Die → Die) : (modDie s d f).spans = s.spans := rfl
@[simp] theorem modDie_kernels (d : Nat) (f : Die → Die) : (modDie s d f).kernels = s.kernels := rfl
@[simp] theorem modDie_graphs (d : Nat) (f : Die → Die) : (modDie s d f).graphs = s.graphs := rfl
@[simp] theorem modDie_ctxs (d : Nat) (f : Die → Die) : (modDie s d f).ctxs = s.ctxs := rfl
@[simp] theorem modDie_parts (d : Nat) (f : Die → Die) : (modDie s d f).parts = s.parts := rfl
@[simp] theorem modDie_cores (d : Nat) (f : Die → Die) : (modDie s d f).cores = s.cores := rfl
@[simp] theorem modDie_dies (d : Nat) (f : Die → Die) : (modDie s d f).dies = SMap.set s.dies {} d (f (dieSt s d)) := rfl
@[simp] theorem modDie_queues (d : Nat) (f : Die → Die) : (modDie s d f).queues = s.queues := rfl
@[simp] theorem modDie_engines (d : Nat) (f : Die → Die) : (modDie s d f).engines = s.engines := rfl
@[simp] theorem modDie_migr (d : Nat) (f : Die → Die) : (modDie s d f).migr = s.migr := rfl
@[simp] theorem modDie_homeQ (d : Nat) (f : Die → Die) : (modDie s d f).homeQ = s.homeQ := rfl
@[simp] theorem modDie_fabric (d : Nat) (f : Die → Die) : (modDie s d f).fabric = s.fabric := rfl
@[simp] theorem modDie_links (d : Nat) (f : Die → Die) : (modDie s d f).links = s.links := rfl
@[simp] theorem modDie_damask (d : Nat) (f : Die → Die) : (modDie s d f).damask = s.damask := rfl
@[simp] theorem modDie_imqua (d : Nat) (f : Die → Die) : (modDie s d f).imqua = s.imqua := rfl
@[simp] theorem modDie_irqs (d : Nat) (f : Die → Die) : (modDie s d f).irqs = s.irqs := rfl

/-! ### modQueue -/

@[simp] theorem modQueue_agenda (q : Nat) (f : Queue → Queue) : (modQueue s q f).agenda = s.agenda := rfl
@[simp] theorem modQueue_cur (q : Nat) (f : Queue → Queue) : (modQueue s q f).cur = s.cur := rfl
@[simp] theorem modQueue_free (q : Nat) (f : Queue → Queue) : (modQueue s q f).free = s.free := rfl
@[simp] theorem modQueue_now (q : Nat) (f : Queue → Queue) : (modQueue s q f).now = s.now := rfl
@[simp] theorem modQueue_serial (q : Nat) (f : Queue → Queue) : (modQueue s q f).serial = s.serial := rfl
@[simp] theorem modQueue_mem (q : Nat) (f : Queue → Queue) : (modQueue s q f).mem = s.mem := rfl
@[simp] theorem modQueue_lineKey (q : Nat) (f : Queue → Queue) : (modQueue s q f).lineKey = s.lineKey := rfl
@[simp] theorem modQueue_bad (q : Nat) (f : Queue → Queue) : (modQueue s q f).bad = s.bad := rfl
@[simp] theorem modQueue_keys (q : Nat) (f : Queue → Queue) : (modQueue s q f).keys = s.keys := rfl
@[simp] theorem modQueue_groups (q : Nat) (f : Queue → Queue) : (modQueue s q f).groups = s.groups := rfl
@[simp] theorem modQueue_teams (q : Nat) (f : Queue → Queue) : (modQueue s q f).teams = s.teams := rfl
@[simp] theorem modQueue_spans (q : Nat) (f : Queue → Queue) : (modQueue s q f).spans = s.spans := rfl
@[simp] theorem modQueue_kernels (q : Nat) (f : Queue → Queue) : (modQueue s q f).kernels = s.kernels := rfl
@[simp] theorem modQueue_graphs (q : Nat) (f : Queue → Queue) : (modQueue s q f).graphs = s.graphs := rfl
@[simp] theorem modQueue_ctxs (q : Nat) (f : Queue → Queue) : (modQueue s q f).ctxs = s.ctxs := rfl
@[simp] theorem modQueue_parts (q : Nat) (f : Queue → Queue) : (modQueue s q f).parts = s.parts := rfl
@[simp] theorem modQueue_cores (q : Nat) (f : Queue → Queue) : (modQueue s q f).cores = s.cores := rfl
@[simp] theorem modQueue_dies (q : Nat) (f : Queue → Queue) : (modQueue s q f).dies = s.dies := rfl
@[simp] theorem modQueue_queues (q : Nat) (f : Queue → Queue) : (modQueue s q f).queues = SMap.set s.queues {} q (f (queueOf s q)) := rfl
@[simp] theorem modQueue_engines (q : Nat) (f : Queue → Queue) : (modQueue s q f).engines = s.engines := rfl
@[simp] theorem modQueue_migr (q : Nat) (f : Queue → Queue) : (modQueue s q f).migr = s.migr := rfl
@[simp] theorem modQueue_homeQ (q : Nat) (f : Queue → Queue) : (modQueue s q f).homeQ = s.homeQ := rfl
@[simp] theorem modQueue_fabric (q : Nat) (f : Queue → Queue) : (modQueue s q f).fabric = s.fabric := rfl
@[simp] theorem modQueue_links (q : Nat) (f : Queue → Queue) : (modQueue s q f).links = s.links := rfl
@[simp] theorem modQueue_damask (q : Nat) (f : Queue → Queue) : (modQueue s q f).damask = s.damask := rfl
@[simp] theorem modQueue_imqua (q : Nat) (f : Queue → Queue) : (modQueue s q f).imqua = s.imqua := rfl
@[simp] theorem modQueue_irqs (q : Nat) (f : Queue → Queue) : (modQueue s q f).irqs = s.irqs := rfl

/-! ### modMigr -/

@[simp] theorem modMigr_agenda (m : Nat) (f : Migr → Migr) : (modMigr s m f).agenda = s.agenda := rfl
@[simp] theorem modMigr_cur (m : Nat) (f : Migr → Migr) : (modMigr s m f).cur = s.cur := rfl
@[simp] theorem modMigr_free (m : Nat) (f : Migr → Migr) : (modMigr s m f).free = s.free := rfl
@[simp] theorem modMigr_now (m : Nat) (f : Migr → Migr) : (modMigr s m f).now = s.now := rfl
@[simp] theorem modMigr_serial (m : Nat) (f : Migr → Migr) : (modMigr s m f).serial = s.serial := rfl
@[simp] theorem modMigr_mem (m : Nat) (f : Migr → Migr) : (modMigr s m f).mem = s.mem := rfl
@[simp] theorem modMigr_lineKey (m : Nat) (f : Migr → Migr) : (modMigr s m f).lineKey = s.lineKey := rfl
@[simp] theorem modMigr_bad (m : Nat) (f : Migr → Migr) : (modMigr s m f).bad = s.bad := rfl
@[simp] theorem modMigr_keys (m : Nat) (f : Migr → Migr) : (modMigr s m f).keys = s.keys := rfl
@[simp] theorem modMigr_groups (m : Nat) (f : Migr → Migr) : (modMigr s m f).groups = s.groups := rfl
@[simp] theorem modMigr_teams (m : Nat) (f : Migr → Migr) : (modMigr s m f).teams = s.teams := rfl
@[simp] theorem modMigr_spans (m : Nat) (f : Migr → Migr) : (modMigr s m f).spans = s.spans := rfl
@[simp] theorem modMigr_kernels (m : Nat) (f : Migr → Migr) : (modMigr s m f).kernels = s.kernels := rfl
@[simp] theorem modMigr_graphs (m : Nat) (f : Migr → Migr) : (modMigr s m f).graphs = s.graphs := rfl
@[simp] theorem modMigr_ctxs (m : Nat) (f : Migr → Migr) : (modMigr s m f).ctxs = s.ctxs := rfl
@[simp] theorem modMigr_parts (m : Nat) (f : Migr → Migr) : (modMigr s m f).parts = s.parts := rfl
@[simp] theorem modMigr_cores (m : Nat) (f : Migr → Migr) : (modMigr s m f).cores = s.cores := rfl
@[simp] theorem modMigr_dies (m : Nat) (f : Migr → Migr) : (modMigr s m f).dies = s.dies := rfl
@[simp] theorem modMigr_queues (m : Nat) (f : Migr → Migr) : (modMigr s m f).queues = s.queues := rfl
@[simp] theorem modMigr_engines (m : Nat) (f : Migr → Migr) : (modMigr s m f).engines = s.engines := rfl
@[simp] theorem modMigr_migr (m : Nat) (f : Migr → Migr) : (modMigr s m f).migr = SMap.set s.migr {} m (f (migrOf s m)) := rfl
@[simp] theorem modMigr_homeQ (m : Nat) (f : Migr → Migr) : (modMigr s m f).homeQ = s.homeQ := rfl
@[simp] theorem modMigr_fabric (m : Nat) (f : Migr → Migr) : (modMigr s m f).fabric = s.fabric := rfl
@[simp] theorem modMigr_links (m : Nat) (f : Migr → Migr) : (modMigr s m f).links = s.links := rfl
@[simp] theorem modMigr_damask (m : Nat) (f : Migr → Migr) : (modMigr s m f).damask = s.damask := rfl
@[simp] theorem modMigr_imqua (m : Nat) (f : Migr → Migr) : (modMigr s m f).imqua = s.imqua := rfl
@[simp] theorem modMigr_irqs (m : Nat) (f : Migr → Migr) : (modMigr s m f).irqs = s.irqs := rfl

/-! ### modLink -/

@[simp] theorem modLink_agenda (l : Nat) (f : Link → Link) : (modLink s l f).agenda = s.agenda := rfl
@[simp] theorem modLink_cur (l : Nat) (f : Link → Link) : (modLink s l f).cur = s.cur := rfl
@[simp] theorem modLink_free (l : Nat) (f : Link → Link) : (modLink s l f).free = s.free := rfl
@[simp] theorem modLink_now (l : Nat) (f : Link → Link) : (modLink s l f).now = s.now := rfl
@[simp] theorem modLink_serial (l : Nat) (f : Link → Link) : (modLink s l f).serial = s.serial := rfl
@[simp] theorem modLink_mem (l : Nat) (f : Link → Link) : (modLink s l f).mem = s.mem := rfl
@[simp] theorem modLink_lineKey (l : Nat) (f : Link → Link) : (modLink s l f).lineKey = s.lineKey := rfl
@[simp] theorem modLink_bad (l : Nat) (f : Link → Link) : (modLink s l f).bad = s.bad := rfl
@[simp] theorem modLink_keys (l : Nat) (f : Link → Link) : (modLink s l f).keys = s.keys := rfl
@[simp] theorem modLink_groups (l : Nat) (f : Link → Link) : (modLink s l f).groups = s.groups := rfl
@[simp] theorem modLink_teams (l : Nat) (f : Link → Link) : (modLink s l f).teams = s.teams := rfl
@[simp] theorem modLink_spans (l : Nat) (f : Link → Link) : (modLink s l f).spans = s.spans := rfl
@[simp] theorem modLink_kernels (l : Nat) (f : Link → Link) : (modLink s l f).kernels = s.kernels := rfl
@[simp] theorem modLink_graphs (l : Nat) (f : Link → Link) : (modLink s l f).graphs = s.graphs := rfl
@[simp] theorem modLink_ctxs (l : Nat) (f : Link → Link) : (modLink s l f).ctxs = s.ctxs := rfl
@[simp] theorem modLink_parts (l : Nat) (f : Link → Link) : (modLink s l f).parts = s.parts := rfl
@[simp] theorem modLink_cores (l : Nat) (f : Link → Link) : (modLink s l f).cores = s.cores := rfl
@[simp] theorem modLink_dies (l : Nat) (f : Link → Link) : (modLink s l f).dies = s.dies := rfl
@[simp] theorem modLink_queues (l : Nat) (f : Link → Link) : (modLink s l f).queues = s.queues := rfl
@[simp] theorem modLink_engines (l : Nat) (f : Link → Link) : (modLink s l f).engines = s.engines := rfl
@[simp] theorem modLink_migr (l : Nat) (f : Link → Link) : (modLink s l f).migr = s.migr := rfl
@[simp] theorem modLink_homeQ (l : Nat) (f : Link → Link) : (modLink s l f).homeQ = s.homeQ := rfl
@[simp] theorem modLink_fabric (l : Nat) (f : Link → Link) : (modLink s l f).fabric = s.fabric := rfl
@[simp] theorem modLink_links (l : Nat) (f : Link → Link) : (modLink s l f).links = SMap.set s.links {} l (f (linkOf s l)) := rfl
@[simp] theorem modLink_damask (l : Nat) (f : Link → Link) : (modLink s l f).damask = s.damask := rfl
@[simp] theorem modLink_imqua (l : Nat) (f : Link → Link) : (modLink s l f).imqua = s.imqua := rfl
@[simp] theorem modLink_irqs (l : Nat) (f : Link → Link) : (modLink s l f).irqs = s.irqs := rfl

/-! ### modTeam -/

@[simp] theorem modTeam_agenda (k t : Nat) (f : Team → Team) : (modTeam s k t f).agenda = s.agenda := rfl
@[simp] theorem modTeam_cur (k t : Nat) (f : Team → Team) : (modTeam s k t f).cur = s.cur := rfl
@[simp] theorem modTeam_free (k t : Nat) (f : Team → Team) : (modTeam s k t f).free = s.free := rfl
@[simp] theorem modTeam_now (k t : Nat) (f : Team → Team) : (modTeam s k t f).now = s.now := rfl
@[simp] theorem modTeam_serial (k t : Nat) (f : Team → Team) : (modTeam s k t f).serial = s.serial := rfl
@[simp] theorem modTeam_mem (k t : Nat) (f : Team → Team) : (modTeam s k t f).mem = s.mem := rfl
@[simp] theorem modTeam_lineKey (k t : Nat) (f : Team → Team) : (modTeam s k t f).lineKey = s.lineKey := rfl
@[simp] theorem modTeam_bad (k t : Nat) (f : Team → Team) : (modTeam s k t f).bad = s.bad := rfl
@[simp] theorem modTeam_keys (k t : Nat) (f : Team → Team) : (modTeam s k t f).keys = s.keys := rfl
@[simp] theorem modTeam_groups (k t : Nat) (f : Team → Team) : (modTeam s k t f).groups = s.groups := rfl
@[simp] theorem modTeam_teams (k t : Nat) (f : Team → Team) : (modTeam s k t f).teams = SMap.modify s.teams (teamKey k t) f := rfl
@[simp] theorem modTeam_spans (k t : Nat) (f : Team → Team) : (modTeam s k t f).spans = s.spans := rfl
@[simp] theorem modTeam_kernels (k t : Nat) (f : Team → Team) : (modTeam s k t f).kernels = s.kernels := rfl
@[simp] theorem modTeam_graphs (k t : Nat) (f : Team → Team) : (modTeam s k t f).graphs = s.graphs := rfl
@[simp] theorem modTeam_ctxs (k t : Nat) (f : Team → Team) : (modTeam s k t f).ctxs = s.ctxs := rfl
@[simp] theorem modTeam_parts (k t : Nat) (f : Team → Team) : (modTeam s k t f).parts = s.parts := rfl
@[simp] theorem modTeam_cores (k t : Nat) (f : Team → Team) : (modTeam s k t f).cores = s.cores := rfl
@[simp] theorem modTeam_dies (k t : Nat) (f : Team → Team) : (modTeam s k t f).dies = s.dies := rfl
@[simp] theorem modTeam_queues (k t : Nat) (f : Team → Team) : (modTeam s k t f).queues = s.queues := rfl
@[simp] theorem modTeam_engines (k t : Nat) (f : Team → Team) : (modTeam s k t f).engines = s.engines := rfl
@[simp] theorem modTeam_migr (k t : Nat) (f : Team → Team) : (modTeam s k t f).migr = s.migr := rfl
@[simp] theorem modTeam_homeQ (k t : Nat) (f : Team → Team) : (modTeam s k t f).homeQ = s.homeQ := rfl
@[simp] theorem modTeam_fabric (k t : Nat) (f : Team → Team) : (modTeam s k t f).fabric = s.fabric := rfl
@[simp] theorem modTeam_links (k t : Nat) (f : Team → Team) : (modTeam s k t f).links = s.links := rfl
@[simp] theorem modTeam_damask (k t : Nat) (f : Team → Team) : (modTeam s k t f).damask = s.damask := rfl
@[simp] theorem modTeam_imqua (k t : Nat) (f : Team → Team) : (modTeam s k t f).imqua = s.imqua := rfl
@[simp] theorem modTeam_irqs (k t : Nat) (f : Team → Team) : (modTeam s k t f).irqs = s.irqs := rfl

/-! ### setCell -/

@[simp] theorem setCell_agenda (pa : Nat) (b : Byte) : (setCell s pa b).agenda = s.agenda := rfl
@[simp] theorem setCell_cur (pa : Nat) (b : Byte) : (setCell s pa b).cur = s.cur := rfl
@[simp] theorem setCell_free (pa : Nat) (b : Byte) : (setCell s pa b).free = s.free := rfl
@[simp] theorem setCell_now (pa : Nat) (b : Byte) : (setCell s pa b).now = s.now := rfl
@[simp] theorem setCell_serial (pa : Nat) (b : Byte) : (setCell s pa b).serial = s.serial := rfl
@[simp] theorem setCell_mem (pa : Nat) (b : Byte) : (setCell s pa b).mem = SMap.set s.mem 0 pa b := rfl
@[simp] theorem setCell_lineKey (pa : Nat) (b : Byte) : (setCell s pa b).lineKey = s.lineKey := rfl
@[simp] theorem setCell_bad (pa : Nat) (b : Byte) : (setCell s pa b).bad = s.bad := rfl
@[simp] theorem setCell_keys (pa : Nat) (b : Byte) : (setCell s pa b).keys = s.keys := rfl
@[simp] theorem setCell_groups (pa : Nat) (b : Byte) : (setCell s pa b).groups = s.groups := rfl
@[simp] theorem setCell_teams (pa : Nat) (b : Byte) : (setCell s pa b).teams = s.teams := rfl
@[simp] theorem setCell_spans (pa : Nat) (b : Byte) : (setCell s pa b).spans = s.spans := rfl
@[simp] theorem setCell_kernels (pa : Nat) (b : Byte) : (setCell s pa b).kernels = s.kernels := rfl
@[simp] theorem setCell_graphs (pa : Nat) (b : Byte) : (setCell s pa b).graphs = s.graphs := rfl
@[simp] theorem setCell_ctxs (pa : Nat) (b : Byte) : (setCell s pa b).ctxs = s.ctxs := rfl
@[simp] theorem setCell_parts (pa : Nat) (b : Byte) : (setCell s pa b).parts = s.parts := rfl
@[simp] theorem setCell_cores (pa : Nat) (b : Byte) : (setCell s pa b).cores = s.cores := rfl
@[simp] theorem setCell_dies (pa : Nat) (b : Byte) : (setCell s pa b).dies = s.dies := rfl
@[simp] theorem setCell_queues (pa : Nat) (b : Byte) : (setCell s pa b).queues = s.queues := rfl
@[simp] theorem setCell_engines (pa : Nat) (b : Byte) : (setCell s pa b).engines = s.engines := rfl
@[simp] theorem setCell_migr (pa : Nat) (b : Byte) : (setCell s pa b).migr = s.migr := rfl
@[simp] theorem setCell_homeQ (pa : Nat) (b : Byte) : (setCell s pa b).homeQ = s.homeQ := rfl
@[simp] theorem setCell_fabric (pa : Nat) (b : Byte) : (setCell s pa b).fabric = s.fabric := rfl
@[simp] theorem setCell_links (pa : Nat) (b : Byte) : (setCell s pa b).links = s.links := rfl
@[simp] theorem setCell_damask (pa : Nat) (b : Byte) : (setCell s pa b).damask = s.damask := rfl
@[simp] theorem setCell_imqua (pa : Nat) (b : Byte) : (setCell s pa b).imqua = s.imqua := rfl
@[simp] theorem setCell_irqs (pa : Nat) (b : Byte) : (setCell s pa b).irqs = s.irqs := rfl

/-! ### Reads after writes -/

@[simp] theorem grp?_setGrp_same (g : Nat) (x : Group) : grp? (setGrp s g x) g = some x := SMap.find?_put_same _ _ _

theorem grp?_setGrp_other {g j : Nat} (x : Group) (h : j ≠ g) : grp? (setGrp s g x) j = grp? s j :=
  SMap.find?_put_other _ _ h

@[simp] theorem grp?_modGrp_same (g : Nat) (f : Group → Group) : grp? (modGrp s g f) g = (grp? s g).map f :=
  SMap.find?_modify_same _ _ _

theorem grp?_modGrp_other {g j : Nat} (f : Group → Group) (h : j ≠ g) : grp? (modGrp s g f) j = grp? s j :=
  SMap.find?_modify_other _ f h

@[simp] theorem kern?_setGrp (g k : Nat) (x : Group) : kern? (setGrp s g x) k = kern? s k := rfl

@[simp] theorem kern?_modKern_same (k : Nat) (f : Kernel → Kernel) : kern? (modKern s k f) k = (kern? s k).map f :=
  SMap.find?_modify_same _ _ _

@[simp] theorem coreOf_setCore_same (c : Nat) (x : Core) : coreOf (setCore s c x) c = x := SMap.get_set_same _ _ _ _

theorem coreOf_setCore_other {c j : Nat} (x : Core) (h : j ≠ c) : coreOf (setCore s c x) j = coreOf s j :=
  SMap.get_set_other _ _ _ h

@[simp] theorem coreOf_modCore_same (c : Nat) (f : Core → Core) : coreOf (modCore s c f) c = f (coreOf s c) :=
  SMap.get_set_same _ _ _ _

theorem coreOf_modCore_other {c j : Nat} (f : Core → Core) (h : j ≠ c) : coreOf (modCore s c f) j = coreOf s j :=
  SMap.get_set_other _ _ _ h

@[simp] theorem dieSt_modDie_same (d : Nat) (f : Die → Die) : dieSt (modDie s d f) d = f (dieSt s d) :=
  SMap.get_set_same _ _ _ _

@[simp] theorem queueOf_modQueue_same (q : Nat) (f : Queue → Queue) : queueOf (modQueue s q f) q = f (queueOf s q) :=
  SMap.get_set_same _ _ _ _

@[simp] theorem migrOf_modMigr_same (m : Nat) (f : Migr → Migr) : migrOf (modMigr s m f) m = f (migrOf s m) :=
  SMap.get_set_same _ _ _ _

@[simp] theorem linkOf_modLink_same (l : Nat) (f : Link → Link) : linkOf (modLink s l f) l = f (linkOf s l) :=
  SMap.get_set_same _ _ _ _

theorem linkOf_modLink_other {l j : Nat} (f : Link → Link) (h : j ≠ l) : linkOf (modLink s l f) j = linkOf s j :=
  SMap.get_set_other _ _ _ h

@[simp] theorem cell_setCell_same (pa : Nat) (b : Byte) : cell (setCell s pa b) pa = b := SMap.get_set_same _ _ _ _

theorem cell_setCell_other {pa j : Nat} (b : Byte) (h : j ≠ pa) : cell (setCell s pa b) j = cell s j :=
  SMap.get_set_other _ _ _ h

/-! ### Registers of a group -/

variable (g : Group)

theorem sReg_ws (n : BitVec 6) (m : Nat) (v : Word) (h : inHandler g = false) :
    sReg (ws g n v) m = if m ≠ 0 ∧ m = n.toNat then v else sReg g m := by
  unfold ws sReg
  by_cases hm : m = 0
  · simp [hm]
  · by_cases hn : n.toNat = 0
    · have : m ≠ n.toNat := by omega
      simp [h, hn, hm]
    · simp [h, hn, hm, SMap.get_set]

theorem aReg_wa (n l m j : Nat) (v : Word) (hl : l < 32) (hj : j < 32) :
    aReg (wa g n l v) m j = if m = n ∧ j = l then v else aReg g m j := by
  unfold aReg wa
  by_cases h : m = n ∧ j = l
  · simp [h.1, h.2]
  · have : 32 * m + j ≠ 32 * n + l := by omega
    simp [SMap.get_set_other _ _ _ this, h]

theorem vReg_wv (n l m j : Nat) (v : BitVec 32) (hl : l < 32) (hj : j < 32) :
    vReg (wv g n l v) m j = if m = n ∧ j = l then v else vReg g m j := by
  unfold vReg wv
  by_cases h : m = n ∧ j = l
  · simp [h.1, h.2]
  · have : 32 * m + j ≠ 32 * n + l := by omega
    simp [SMap.get_set_other _ _ _ this, h]

theorem kReg_wk (n m : Nat) (v : Word) : kReg (wk g n v) m = if m ≠ 0 ∧ m = n then v else kReg g m := by
  unfold kReg wk
  by_cases hm : m = 0
  · simp [hm]
  · by_cases hn : n = 0
    · have : m ≠ n := by omega
      simp [hn, hm]
    · simp [hn, hm, SMap.get_set]

end Sys2Proof.Machine
end

