-- ==== Sys2Proof/Laws/Access.lean ====
section
/-! SUPPORT. Translations that the core's TLB answers, and accesses that pass by them. -/

namespace Sys2Proof.Machine

open Sys2Proof

variable (s : State) (gid : Nat) (x : Group)

@[simp] theorem coreOf_setGrp (c : Nat) : coreOf (setGrp s gid x) c = coreOf s c := rfl
@[simp] theorem dieSt_setGrp (d : Nat) : dieSt (setGrp s gid x) d = dieSt s d := rfl
@[simp] theorem ctxOf_setGrp (c : Nat) : ctxOf (setGrp s gid x) c = ctxOf s c := rfl
@[simp] theorem partOf_setGrp (p : Nat) : partOf (setGrp s gid x) p = partOf s p := rfl
@[simp] theorem hdrOf_setGrp (k : Nat) : hdrOf (setGrp s gid x) k = hdrOf s k := rfl
@[simp] theorem team?_setGrp (k t : Nat) : team? (setGrp s gid x) k t = team? s k t := rfl
@[simp] theorem slotOf_setGrp (c : Nat) : slotOf (setGrp s gid x) c = slotOf s c := rfl
@[simp] theorem memNat_setGrp (slot pa n : Nat) : memNat (setGrp s gid x) slot pa n = memNat s slot pa n := rfl
@[simp] theorem useEntry_setGrp (c va : Nat) (k : Access) (e : TlbEnt) : useEntry (setGrp s gid x) c va k e = useEntry s c va k e := rfl
@[simp] theorem placeFault_setGrp (c pa : Nat) : placeFault (setGrp s gid x) c pa = placeFault s c pa := rfl
@[simp] theorem lockBad_setGrp (c : Nat) (l : Loc) (n : Nat) (k : Access) (a : Word) :
    lockBad (setGrp s gid x) c l n k a = lockBad s c l n k a := rfl
@[simp] theorem scratchLoc_setGrp (g : Group) (o n : Nat) : scratchLoc (setGrp s gid x) g o n = scratchLoc s g o n := rfl
@[simp] theorem bankLoc_setGrp (g : Group) (o n : Nat) : bankLoc (setGrp s gid x) g o n = bankLoc s g o n := rfl

variable {s gid}

/-- A translation that the core's TLB answers changes nothing (R140). -/
theorem translate_hit {core c va : Nat} {k : Access} {e : TlbEnt} (hv : bits va 56 8 = 0 ∨ bits va 56 8 = 255)
    (h : tlbHit (coreOf s core).tlb c va k = some e) : translate s core c va k = (s, useEntry s c va k e) := by
  have : ¬ (bits va 56 8 ≠ 0 ∧ bits va 56 8 ≠ 255) := by tauto
  simp only [translate, this, if_false, h]

/-- An access of a virtual address passes when the TLB answers it, its place is the context's own, and no lock stands there
(R147). -/
theorem passes_of_hit {g : Group} {a : Word} {n : Nat} {k : Access} {e : TlbEnt} {t : Trans} (ha : a.toNat % n = 0)
    (hv : bits a.toNat 56 8 = 0 ∨ bits a.toNat 56 8 = 255) (h : tlbHit (coreOf s g.core).tlb g.ctx a.toNat k = some e)
    (he : useEntry s g.ctx a.toNat k e = .ok t) (hp : placeFault s g.ctx t.pa = none) (hl : isAlias t.pa = false)
    (hf : isFabric t.pa = false) (hk : lockBad s g.core (.phys t.pa t.direct) n k a = none) :
    Passes s gid g 0 a n k (.phys t.pa t.direct) := by
  refine ⟨?_, fun x => ?_⟩
  · simp [checkAccess, ha, translate_hit hv h, he, hp, hl, hf, hk]
  · have hx : tlbHit (coreOf (setGrp s gid x) g.core).tlb g.ctx a.toNat k = some e := h
    simp [checkAccess, ha, translate_hit hv hx, he, hp, hl, hf, hk]

end Sys2Proof.Machine
end

