-- ==== Sys2Proof/Laws/Memory.lean ====
section
/-! SUPPORT. Memory keeps its canonical form under every operation of Ops. -/

namespace Sys2Proof.Machine

open Sys2Proof

variable {s : State}

theorem wf_fst {α : Type} {p : State × α} {t : State} {r : α} (e : p = (t, r)) (h : Memory.wf p.1.mem = true) :
    Memory.wf t.mem = true := by subst e; exact h

theorem wf_ite {c : Prop} [Decidable c] {a b : State} (ha : Memory.wf a.mem = true) (hb : Memory.wf b.mem = true) :
    Memory.wf (if c then a else b).mem = true := by split <;> assumption

theorem wf_foldl {α : Type} (f : State → α → State) (hf : ∀ s a, Memory.wf s.mem = true → Memory.wf (f s a).mem = true)
    (l : List α) (h : Memory.wf s.mem = true) : Memory.wf (l.foldl f s).mem = true := by
  induction l generalizing s with
  | nil => exact h
  | cons a l ih => exact ih (hf s a h)

theorem wf_findSome {α : Type} {f : α → Option State} {l : List α} {u : State} (hf : ∀ a, f a = some u → Memory.wf u.mem = true)
    (e : l.findSome? f = some u) : Memory.wf u.mem = true := by
  obtain ⟨a, _, ha⟩ := List.exists_of_findSome?_eq_some e
  exact hf a ha

theorem wf_foldl_fst {α β : Type} (f : State × β → α → State × β)
    (hf : ∀ r a, Memory.wf r.1.mem = true → Memory.wf (f r a).1.mem = true) (l : List α) {r : State × β}
    (h : Memory.wf r.1.mem = true) : Memory.wf (l.foldl f r).1.mem = true := by
  induction l generalizing r with
  | nil => exact h
  | cons a l ih => exact ih (hf r a h)

theorem SMap_sorted_filter {α : Type} (m : SMap α) (p : Nat × α → Bool) (h : SMap.sorted m = true) : SMap.sorted (m.filter p) = true := by
  induction m with
  | nil => rfl
  | cons e m ih =>
    rw [List.filter_cons]
    split
    · exact SMap.sorted_of_lt (fun e' he' => SMap.sorted_lt h e' (List.mem_filter.1 he').1) (ih (SMap.sorted_tail h))
    · exact ih (SMap.sorted_tail h)

theorem SMap_wf_filter {α : Type} [DecidableEq α] (m : SMap α) (d : α) (p : Nat × α → Bool) (h : SMap.wf m d = true) :
    SMap.wf (m.filter p) d = true := by
  simp only [SMap.wf, Bool.and_eq_true, List.all_eq_true] at h ⊢
  exact ⟨SMap_sorted_filter m p h.1, fun e he => h.2 e (List.mem_filter.1 he).1⟩

theorem wf_setCell (pa : Nat) (b : Byte) (h : Memory.wf s.mem = true) : Memory.wf (setCell s pa b).mem = true := SMap.wf_set pa b h

theorem wf_setCells (pa : Nat) (bs : List Byte) (h : Memory.wf s.mem = true) : Memory.wf (setCells s pa bs).mem = true := by
  induction bs generalizing s pa with
  | nil => exact h
  | cons b bs ih => exact ih _ (wf_setCell _ _ h)

theorem wf_claimLine (slot pa : Nat) (h : Memory.wf s.mem = true) : Memory.wf (claimLine s slot pa).mem = true := by
  unfold claimLine; split
  · exact wf_setCells _ _ h
  · exact h

theorem wf_memWrite (slot pa : Nat) (bs : List Byte) (h : Memory.wf s.mem = true) :
    Memory.wf (memWrite s slot pa bs).mem = true := by
  induction bs generalizing s pa with
  | nil => exact h
  | cons b bs ih => exact ih _ (wf_setCell _ _ (wf_claimLine _ _ h))

theorem wf_setGrp (g : Nat) (x : Group) (h : Memory.wf s.mem = true) : Memory.wf (setGrp s g x).mem = true := h

theorem wf_modGrp (g : Nat) (f : Group → Group) (h : Memory.wf s.mem = true) : Memory.wf (modGrp s g f).mem = true := h

theorem wf_modCtx (c : Nat) (f : Context → Context) (h : Memory.wf s.mem = true) : Memory.wf (modCtx s c f).mem = true := h

theorem wf_modKern (k : Nat) (f : Kernel → Kernel) (h : Memory.wf s.mem = true) : Memory.wf (modKern s k f).mem = true := h

theorem wf_setCore (c : Nat) (x : Core) (h : Memory.wf s.mem = true) : Memory.wf (setCore s c x).mem = true := h

theorem wf_modCore (c : Nat) (f : Core → Core) (h : Memory.wf s.mem = true) : Memory.wf (modCore s c f).mem = true := h

theorem wf_modDie (d : Nat) (f : Die → Die) (h : Memory.wf s.mem = true) : Memory.wf (modDie s d f).mem = true := h

theorem wf_modQueue (q : Nat) (f : Queue → Queue) (h : Memory.wf s.mem = true) : Memory.wf (modQueue s q f).mem = true := h

theorem wf_modMigr (m : Nat) (f : Migr → Migr) (h : Memory.wf s.mem = true) : Memory.wf (modMigr s m f).mem = true := h

theorem wf_modLink (l : Nat) (f : Link → Link) (h : Memory.wf s.mem = true) : Memory.wf (modLink s l f).mem = true := h

theorem wf_modTeam (k t : Nat) (f : Team → Team) (h : Memory.wf s.mem = true) : Memory.wf (modTeam s k t f).mem = true := h

theorem wf_fresh (h : Memory.wf s.mem = true) : Memory.wf (fresh s).2.mem = true := h

theorem wf_newSerial (h : Memory.wf s.mem = true) : Memory.wf (newSerial s).2.mem = true := h

theorem wf_hitMonitors (pa n : Nat) (h : Memory.wf s.mem = true) : Memory.wf (hitMonitors s pa n).mem = true := h

theorem wf_homeWrite (slot pa : Nat) (bs : List Byte) (h : Memory.wf s.mem = true) :
    Memory.wf (homeWrite s slot pa bs).mem = true := by
  unfold homeWrite; split
  · exact h
  · exact wf_memWrite _ _ _ h

theorem wf_memPut (slot pa n v : Nat) (h : Memory.wf s.mem = true) : Memory.wf (memPut s slot pa n v).mem = true :=
  wf_homeWrite _ _ _ h

theorem wf_performFwd (f : Forward) (h : Memory.wf s.mem = true) : Memory.wf (performFwd s f).mem = true :=
  wf_foldl _ (fun _ _ => wf_homeWrite _ _ _) _ h

theorem wf_forwardLines (die : Nat) (on : Nat → Bool) (h : Memory.wf s.mem = true) :
    Memory.wf (forwardLines s die on).mem = true :=
  wf_foldl _ (fun _ _ => wf_performFwd _) _ (wf_modDie _ _ h)

theorem wf_forwardAll (die : Nat) (h : Memory.wf s.mem = true) : Memory.wf (forwardAll s die).mem = true := wf_forwardLines _ _ h

theorem wf_forwardOne (die : Nat) (h : Memory.wf s.mem = true) : Memory.wf (forwardOne s die).mem = true := by
  unfold forwardOne
  split
  · exact h
  · exact wf_ite (wf_performFwd _ (wf_modDie _ _ h)) h

theorem wf_dropCopy (die line : Nat) (h : Memory.wf s.mem = true) : Memory.wf (dropCopy s die line).mem = true := h

theorem wf_copyLine (die slot line : Nat) (h : Memory.wf s.mem = true) : Memory.wf (copyLine s die slot line).mem = true :=
  wf_ite (wf_modDie _ _ h) h

theorem wf_dieWrite (die slot line : Nat) (bs : List (Nat × Byte)) (h : Memory.wf s.mem = true) :
    Memory.wf (dieWrite s die slot line bs).mem = true :=
  wf_ite h (wf_ite (wf_modDie _ _ (wf_ite (wf_forwardLines _ _ h) h)) (wf_foldl _ (fun _ _ => wf_homeWrite _ _ _) _ h))

theorem wf_writeBack (die line : Nat) (x : L1Line) (h : Memory.wf s.mem = true) : Memory.wf (writeBack s die line x).mem = true :=
  wf_dieWrite _ _ _ _ h

theorem wf_evictLine (c line : Nat) (h : Memory.wf s.mem = true) : Memory.wf (evictLine s c line).mem = true := by
  unfold evictLine; split
  · exact h
  · exact wf_modCore _ _ (wf_writeBack _ _ _ h)

theorem wf_cleanLine (c line : Nat) (h : Memory.wf s.mem = true) : Memory.wf (cleanLine s c line).mem = true := by
  unfold cleanLine; split
  · exact h
  · exact wf_modCore _ _ (wf_writeBack _ _ _ h)

theorem wf_flushCore (c : Nat) (h : Memory.wf s.mem = true) : Memory.wf (flushCore s c).mem = true :=
  wf_foldl _ (fun _ _ => wf_cleanLine _ _) _ h

theorem wf_flushTo (c scope : Nat) (h : Memory.wf s.mem = true) : Memory.wf (flushTo s c scope).mem = true :=
  wf_ite (wf_forwardAll _ (wf_flushCore _ h)) (wf_flushCore _ h)

theorem wf_flushAll (h : Memory.wf s.mem = true) : Memory.wf (flushAll s).mem = true :=
  wf_foldl _ (fun _ _ => wf_forwardAll _) _ (wf_foldl _ (fun _ _ => wf_flushCore _) _ h)

theorem wf_settleLine (c line : Nat) (h : Memory.wf s.mem = true) : Memory.wf (settleLine s c line).mem = true :=
  wf_forwardLines _ _ (wf_evictLine _ _ h)

theorem wf_dropClean (c : Nat) (h : Memory.wf s.mem = true) : Memory.wf (dropClean s c).mem = true := h

theorem wf_holdLine (c line : Nat) (y : L1Line) (h : Memory.wf s.mem = true) : Memory.wf (holdLine s c line y).1.mem = true := h

theorem wf_fillLine (c slot line : Nat) (h : Memory.wf s.mem = true) : Memory.wf (fillLine s c slot line).1.mem = true := by
  unfold fillLine
  dsimp only
  repeat' split
  all_goals first
    | exact h
    | exact wf_holdLine _ _ _ (wf_copyLine _ _ _ h)
    | exact wf_holdLine _ _ _ (wf_copyLine _ _ _ (wf_evictLine _ _ h))

theorem wf_scratchWrite (c off : Nat) (bs : List Byte) (h : Memory.wf s.mem = true) :
    Memory.wf (scratchWrite s c off bs).mem = true := by
  induction bs generalizing s off with
  | nil => exact h
  | cons b bs ih => exact ih _ h

theorem wf_locWrite (core slot : Nat) (l : Loc) (bs : List Byte) (h : Memory.wf s.mem = true) :
    Memory.wf (locWrite s core slot l bs).mem = true := by
  unfold locWrite
  split <;> solve_by_elim [wf_homeWrite, wf_scratchWrite]

theorem wf_thrBytes (core slot : Nat) (p : Loc) (n : Nat) (h : Memory.wf s.mem = true) :
    Memory.wf (thrBytes s core slot p n).1.mem = true := by
  induction n generalizing s p with
  | zero => exact h
  | succ n ih =>
    unfold thrBytes
    dsimp only
    repeat' split
    all_goals solve_by_elim [wf_fillLine, wf_ite, wf_settleLine]

theorem wf_thrNat (core slot : Nat) (l : Loc) (n : Nat) (h : Memory.wf s.mem = true) :
    Memory.wf (thrNat s core slot l n).1.mem = true := wf_thrBytes _ _ _ _ h

theorem wf_thrWrite (core slot : Nat) (p : Loc) (bs : List Byte) (h : Memory.wf s.mem = true) :
    Memory.wf (thrWrite s core slot p bs).mem = true := by
  induction bs generalizing s p with
  | nil => exact h
  | cons b bs ih =>
    simp only [thrWrite]
    repeat' split
    all_goals solve_by_elim [wf_scratchWrite, wf_homeWrite, wf_modCore, wf_fillLine, wf_ite, wf_settleLine]

theorem wf_walk (m : List WalkEnt) (cn va : Nat) (k : Access) (h : Memory.wf s.mem = true) :
    Memory.wf (walk s m cn va k).1.mem = true := by
  unfold walk
  dsimp only
  repeat' split
  all_goals solve_by_elim [wf_homeWrite]

theorem wf_tlbInstall (core : Nat) (e : TlbEnt) (w : List WalkEnt) (h : Memory.wf s.mem = true) :
    Memory.wf (tlbInstall s core e w).mem = true := h

theorem wf_translate (core ctxN va : Nat) (kind : Access) (h : Memory.wf s.mem = true) :
    Memory.wf (translate s core ctxN va kind).1.mem = true := by
  unfold translate
  dsimp only
  repeat' split
  all_goals solve_by_elim [wf_walk, wf_modCore, wf_tlbInstall, wf_fst, wf_ite]

theorem wf_checkAccess (g : Group) (asp : Nat) (addr : Word) (n align : Nat) (kind : Access) (h : Memory.wf s.mem = true) :
    Memory.wf (checkAccess s g asp addr n align kind).1.mem = true := by
  unfold checkAccess
  dsimp only
  repeat' split
  all_goals solve_by_elim [wf_translate, wf_fst, wf_ite]

theorem wf_ctxWrite (cn pa : Nat) (bs : List Byte) (h : Memory.wf s.mem = true) : Memory.wf (ctxWrite s cn pa bs).mem = true :=
  wf_ite (wf_homeWrite _ _ _ h) h

theorem wf_ctxPut (cn pa n v : Nat) (h : Memory.wf s.mem = true) : Memory.wf (ctxPut s cn pa n v).mem = true :=
  wf_ctxWrite _ _ _ h

theorem wf_gtWrite (g : Group) (off n v : Nat) (h : Memory.wf s.mem = true) : Memory.wf (gtWrite s g off n v).mem = true :=
  wf_ctxPut _ _ _ _ h

theorem wf_ringPut (g : Group) (i : Nat) (e : LqEntry) (h : Memory.wf s.mem = true) :
    Memory.wf (ringPut s g i e).mem = true := wf_ctxWrite _ _ _ (wf_ctxWrite _ _ _ h)

theorem wf_freeTags (cn base : Nat) (is : List Nat) (h : Memory.wf s.mem = true) : Memory.wf (freeTags s cn base is).mem = true :=
  wf_foldl _ (fun _ _ => wf_ctxPut _ _ _ _) _ h

theorem wf_takeChunk (g : Group) (p : Nat) (h : Memory.wf s.mem = true) : Memory.wf (takeChunk s g p).mem = true :=
  wf_gtWrite _ _ _ _ (wf_gtWrite _ _ _ _ (wf_modCtx _ _ (wf_freeTags _ _ _ h)))

theorem wf_returnChunk (g : Group) (p : Nat) (h : Memory.wf s.mem = true) : Memory.wf (returnChunk s g p).mem = true := by
  unfold returnChunk
  dsimp only
  repeat' split
  all_goals solve_by_elim [wf_modCtx, wf_gtWrite, wf_ite]

theorem wf_returnChunks (g : Group) (h : Memory.wf s.mem = true) : Memory.wf (returnChunks s g).mem = true := by
  unfold returnChunks
  split
  · exact h
  · exact wf_foldl _ (fun _ _ => wf_returnChunk _ _) _ h

theorem wf_lqPut (gid num : Nat) (e : LqEntry) (h : Memory.wf s.mem = true) : Memory.wf (lqPut s gid num e).mem = true := by
  unfold lqPut
  dsimp only
  repeat' split
  all_goals solve_by_elim [wf_setGrp, wf_ringPut, wf_ite]

theorem wf_reserveOne (gid : Nat) (h : Memory.wf s.mem = true) : Memory.wf (reserveOne s gid).mem = true := by
  unfold reserveOne
  split
  · exact h
  · exact wf_ite (wf_setGrp _ _ h) (wf_ite (wf_modGrp _ _ (wf_gtWrite _ _ _ _ (wf_gtWrite _ _ _ _ (wf_ringPut _ _ _
      (wf_ite h (wf_takeChunk _ _ h)))))) (wf_setGrp _ _ h))

theorem wf_reserve (gid n : Nat) (h : Memory.wf s.mem = true) : Memory.wf (reserve s gid n).mem = true := by
  induction n generalizing s with
  | zero => exact h
  | succ n ih => exact ih (wf_reserveOne _ h)

theorem wf_settleHoldOne (gid : Nat) (chunk : Bool) (h : Memory.wf s.mem = true) :
    Memory.wf (settleHoldOne s gid chunk).mem = true := by
  unfold settleHoldOne
  split
  · exact h
  · split
    · exact h
    · exact wf_ite (wf_setGrp _ _ h) (wf_ite (wf_modGrp _ _ (wf_gtWrite _ _ _ _ (wf_gtWrite _ _ _ _ (wf_ringPut _ _ _
        (wf_ite h (wf_takeChunk _ _ h)))))) h)

theorem wf_settleHold (gid : Nat) (chunk : Bool) (h : Memory.wf s.mem = true) :
    Memory.wf (settleHold s gid chunk).mem = true := by
  unfold settleHold
  solve_by_elim [wf_settleHoldOne, wf_foldl]

theorem wf_logEvent (cn kind code w16 w24 : Nat) (h : Memory.wf s.mem = true) :
    Memory.wf (logEvent s cn kind code w16 w24).mem = true := by
  unfold logEvent
  split <;> solve_by_elim [wf_ctxWrite, wf_modCtx]

theorem wf_setCState (cn : Nat) (st : CState) (why : Nat) (h : Memory.wf s.mem = true) :
    Memory.wf (setCState s cn st why).mem = true := by
  unfold setCState
  solve_by_elim [wf_modCtx, wf_logEvent]

theorem wf_settleCtx (cn : Nat) (h : Memory.wf s.mem = true) : Memory.wf (settleCtx s cn).mem = true := by
  unfold settleCtx
  solve_by_elim [wf_setCState, wf_ite]

theorem wf_translatePkg (cn va : Nat) (kind : Access) (h : Memory.wf s.mem = true) :
    Memory.wf (translatePkg s cn va kind).1.mem = true := by
  unfold translatePkg
  split <;> solve_by_elim [wf_walk, wf_fst]

theorem wf_barrierHome (cn : Nat) (va : Word) (h : Memory.wf s.mem = true) : Memory.wf (barrierHome s cn va).1.mem = true := by
  unfold barrierHome
  repeat' split
  all_goals solve_by_elim [wf_translatePkg, wf_fst, wf_ite]

theorem wf_sendUpd (u : BarUpd) (h : Memory.wf s.mem = true) : Memory.wf (sendUpd s u).mem = true := by
  unfold sendUpd
  exact h

theorem wf_arriveAt (cn : Nat) (va : Word) (m : Nat) (st : Status) (h : Memory.wf s.mem = true) :
    Memory.wf (arriveAt s cn va m st).mem = true := by
  unfold arriveAt
  repeat' split
  all_goals solve_by_elim [wf_sendUpd, wf_barrierHome, wf_fst, wf_ite]

theorem wf_completeRecord (cn : Nat) (o : Origin) (barrier : Word) (m : Nat) (st : Status) (h : Memory.wf s.mem = true) :
    Memory.wf (completeRecord s cn o barrier m st).mem = true := by
  unfold completeRecord
  split <;> solve_by_elim [wf_modQueue, wf_arriveAt, wf_fst, wf_ite]

theorem wf_freeSave (cn off : Nat) (h : Memory.wf s.mem = true) : Memory.wf (freeSave s cn off).mem = true := by
  unfold freeSave
  solve_by_elim [wf_modCtx]

theorem wf_freeGroup (gid : Nat) (h : Memory.wf s.mem = true) : Memory.wf (freeGroup s gid).mem = true := by
  unfold freeGroup
  split
  · exact h
  · dsimp only
    exact wf_returnChunks _ (wf_ite (wf_freeSave _ _ h) h)

theorem wf_freeRecord (cn i : Nat) (h : Memory.wf s.mem = true) : Memory.wf (freeRecord s cn i).mem = true := by
  unfold freeRecord
  solve_by_elim [wf_ctxPut, wf_modCtx]

theorem wf_settleCore (c : Nat) (h : Memory.wf s.mem = true) : Memory.wf (settleCore s c).mem = true := by
  unfold settleCore
  repeat' split
  all_goals solve_by_elim [wf_flushCore, wf_modCore, wf_ite]

theorem wf_settleCores (h : Memory.wf s.mem = true) : Memory.wf (settleCores s).mem = true := by
  unfold settleCores
  solve_by_elim [wf_settleCore, wf_foldl]

theorem wf_freeSpan (k sp : Nat) (h : Memory.wf s.mem = true) : Memory.wf (freeSpan s k sp).mem = true := by
  unfold freeSpan
  solve_by_elim [wf_ite]

theorem wf_settleKernel (k : Nat) (h : Memory.wf s.mem = true) : Memory.wf (settleKernel s k).mem = true := by
  unfold settleKernel
  repeat' split
  all_goals solve_by_elim [wf_modKern, wf_ite]

theorem wf_settleTeam (k t : Nat) (h : Memory.wf s.mem = true) : Memory.wf (settleTeam s k t).mem = true := by
  unfold settleTeam
  repeat' split
  all_goals solve_by_elim [wf_settleCores, wf_freeSpan, wf_settleKernel, wf_ite]

theorem wf_freeEngines (k : Nat) (h : Memory.wf s.mem = true) : Memory.wf (freeEngines s k).mem = true := by
  unfold freeEngines
  solve_by_elim [wf_ite]

theorem wf_endKernel (k : Nat) (st : KState) (reason : Nat) (h : Memory.wf s.mem = true) :
    Memory.wf (endKernel s k st reason).mem = true := by
  unfold endKernel
  split
  · exact h
  · refine wf_settleCores (wf_settleCtx _ (wf_logEvent _ _ _ _ _ (wf_completeRecord _ _ _ _ _ (wf_modKern _ _ ?_))))
    exact wf_foldl _ (fun _ _ => wf_freeSave _ _) _ (wf_foldl _ (fun _ _ => wf_freeRecord _ _) _
      (wf_foldl _ (fun _ _ => wf_freeGroup _) _ (wf_freeEngines _ h)))

theorem wf_enterHandler (gid : Nat) (g : Group) (k : Kernel) (f : FaultInfo) (h : Memory.wf s.mem = true) :
    Memory.wf (enterHandler s gid g k f).mem = true := by
  unfold enterHandler
  solve_by_elim [wf_setGrp]

theorem wf_takeFault (gid : Nat) (f : FaultInfo) (h : Memory.wf s.mem = true) : Memory.wf (takeFault s gid f).mem = true := by
  unfold takeFault
  repeat' split
  all_goals solve_by_elim [wf_setGrp, wf_enterHandler, wf_endKernel, wf_ite]

theorem wf_yieldTeam (k t : Nat) (h : Memory.wf s.mem = true) : Memory.wf (yieldTeam s k t).mem = true := by
  unfold yieldTeam
  solve_by_elim [wf_ite]

theorem wf_postYield (k t : Nat) (h : Memory.wf s.mem = true) : Memory.wf (postYield s k t).mem = true := by
  unfold postYield
  repeat' split
  all_goals solve_by_elim [wf_yieldTeam, wf_foldl, wf_ite]

theorem wf_stopTeam (k t reason : Nat) (origin : BitVec 32) (h : Memory.wf s.mem = true) :
    Memory.wf (stopTeam s k t reason origin).mem = true := by
  unfold stopTeam
  split <;> solve_by_elim [wf_logEvent, wf_ite]

end Sys2Proof.Machine
end

