-- ==== Sys2Proof/Laws/Canonical.lean ====
section
/-! SUPPORT. Memory keeps its canonical form under the shared operations of every unit: what a step does to it is one of
these. -/

namespace Sys2Proof.Machine

open Sys2Proof

variable {s : State}

/-! ### Store -/

theorem wf_getD {o : Option State} (ho : ∀ u, o = some u → Memory.wf u.mem = true) (h : Memory.wf s.mem = true) :
    Memory.wf (o.getD s).mem = true := by
  cases o with
  | none => exact h
  | some u => exact ho u rfl

/-! ### Ops -/

theorem wf_dropCopies (pa n : Nat) (h : Memory.wf s.mem = true) :
    Memory.wf (dropCopies s pa n).mem = true := by
  unfold dropCopies
  repeat'
    first
      | with_reducible assumption | with_reducible apply wf_ite | refine wf_fst (by assumption) ?_ | dsimp only
      | split | exact h

/-! ### Operands -/

theorem wf_blockOn (gid : Nat) (g : Group) (w : Wake) (h : Memory.wf s.mem = true) :
    Memory.wf (blockOn s gid g w).mem = true := by
  unfold blockOn
  solve_by_elim [wf_setGrp, wf_ite]

theorem wf_issueCore (i : Instr) (gid : Nat) (g : Group) (k : Kernel) (body : Nat → Group → State → State)
    (hb : Memory.wf (body gid g s).mem = true) (h : Memory.wf s.mem = true) : Memory.wf (issueCore i gid g k s body).mem = true := by
  unfold issueCore
  repeat' split
  all_goals solve_by_elim [wf_takeFault, wf_setGrp]

theorem wf_issueA (i : Instr) (body : Nat → Group → State → State)
    (hb : ∀ gid g, Memory.wf (body gid g s).mem = true) (h : Memory.wf s.mem = true) :
    ∀ u, issueA i s body = .next u → Memory.wf u.mem = true := by
  intro u e
  unfold issueA at e
  repeat' split at e
  all_goals cases e
  exact wf_issueCore _ _ _ _ _ (hb _ _) h

theorem wf_issueReg (i : Instr) (f : Group → Group) (h : Memory.wf s.mem = true) :
    ∀ t, issueReg i s f = .next t → Memory.wf t.mem = true := by
  unfold issueReg
  solve_by_elim [wf_setGrp, wf_issueA]

theorem wf_codePlace (g : Group) (va : Word) (h : Memory.wf s.mem = true) :
    Memory.wf (codePlace s g va).1.mem = true := by
  unfold codePlace
  repeat'
    first
      | with_reducible assumption | with_reducible apply wf_translate | with_reducible apply wf_ite
      | refine wf_fst (by assumption) ?_ | dsimp only | split | exact h

/-! ### Remote -/

theorem wf_addReq (r : RReq) (h : Memory.wf s.mem = true) : Memory.wf (addReq s r).mem = true := by
  unfold addReq
  exact h

theorem wf_readReqs (gid : Nat) (g : Group) (l : LoadReq) (lanes : BitVec 32) (h : Memory.wf s.mem = true) :
    Memory.wf (readReqs s gid g l lanes).mem = true := by
  unfold readReqs
  solve_by_elim [wf_addReq, wf_foldl]

theorem wf_syncRemote (gid : Nat) (g : Group) (pa : Nat) (op : Nat) (line : LineReq) (h : Memory.wf s.mem = true) :
    Memory.wf (syncRemote s gid g pa op line).1.mem = true := by
  unfold syncRemote
  repeat' split
  all_goals solve_by_elim [wf_addReq, wf_ite]

theorem wf_syncRead (gid : Nat) (g : Group) (pa n : Nat) (h : Memory.wf s.mem = true) :
    Memory.wf (syncRead s gid g pa n).1.mem = true := by
  unfold syncRead
  dsimp only
  repeat' split
  all_goals solve_by_elim [wf_syncRemote, wf_fst]

theorem wf_fenceAct (core : Nat) (f : FenceRec) (h : Memory.wf s.mem = true) :
    Memory.wf (fenceAct s core f).mem = true := by
  unfold fenceAct
  repeat'
    first
      | with_reducible assumption | with_reducible apply wf_dropClean | with_reducible apply wf_flushTo
      | with_reducible apply wf_ite | refine wf_fst (by assumption) ?_ | dsimp only | split | exact h

theorem wf_settleList (gid : Nat) (g : Group) (l : List FenceRec) (h : Memory.wf s.mem = true) :
    Memory.wf (settleList s gid g l).mem = true := by
  induction l generalizing s gid g with
  | nil => exact h
  | cons x l ih =>
    unfold settleList
    repeat'
      first
        | with_reducible assumption | with_reducible apply wf_modGrp | with_reducible apply wf_fenceAct
        | with_reducible apply wf_ite | with_reducible apply ih | exact h | split

theorem wf_settleFences (gid : Nat) (h : Memory.wf s.mem = true) : Memory.wf (settleFences s gid).mem = true := by
  unfold settleFences
  split <;> solve_by_elim [wf_settleList, wf_ite]

theorem wf_scalarFetch (gid : Nat) (g : Group) (addr : Word) (l : Loc) (n : Nat) (h : Memory.wf s.mem = true) :
    Memory.wf (scalarFetch s gid g addr l n).1.mem = true := by
  unfold scalarFetch
  dsimp only
  repeat' split
  all_goals
    repeat'
      first
        | with_reducible assumption | with_reducible apply wf_thrNat | with_reducible apply wf_syncRead
        | with_reducible apply wf_ite | refine wf_fst (by assumption) ?_ | exact h | split

theorem wf_scalarRead (gid : Nat) (addr : Word) (n : Nat) (h : Memory.wf s.mem = true) :
    Memory.wf (scalarRead s gid addr n).1.mem = true := by
  unfold scalarRead
  dsimp only
  repeat' split
  all_goals (try dsimp only)
  all_goals solve_by_elim (maxDepth := 14) [wf_checkAccess, wf_settleFences, wf_scalarFetch, wf_fst, wf_ite]

/-! ### Scalar -/

theorem wf_issueVec (i : Instr) (f : Group → Group) (h : Memory.wf s.mem = true) :
    ∀ u, issueVec i s f = .next u → Memory.wf u.mem = true := wf_issueA _ _ (fun _ _ => wf_ite h h) h

/-! ### Barrier -/

theorem wf_wakeWaiters (core : Nat) (home : Loc) (h : Memory.wf s.mem = true) :
    Memory.wf (wakeWaiters s core home).mem = true := by
  unfold wakeWaiters
  solve_by_elim [wf_ite]

theorem wf_barSync (core : Nat) (l : Loc) (h : Memory.wf s.mem = true) :
    Memory.wf (barSync s core l).mem = true := by
  unfold barSync
  repeat'
    first
      | with_reducible assumption | with_reducible apply wf_settleLine | with_reducible apply wf_ite
      | refine wf_fst (by assumption) ?_ | dsimp only | split | exact h

theorem wf_unlock (by_ : LockBy) (h : Memory.wf s.mem = true) : Memory.wf (unlock s by_).mem = true := by
  unfold unlock
  exact h

theorem wf_countWin (home : Loc) (w : Nat × Nat) (h : Memory.wf s.mem = true) : Memory.wf (countWin s home w).mem = true := by
  unfold countWin
  exact h

theorem wf_freeWins (home : Loc) (h : Memory.wf s.mem = true) : Memory.wf (freeWins s home).mem = true := by
  unfold freeWins
  solve_by_elim [wf_unlock, wf_foldl]

theorem wf_performUpd (u : BarUpd) (h : Memory.wf s.mem = true) : Memory.wf (performUpd s u).mem = true := by
  unfold performUpd
  dsimp only
  repeat' split
  all_goals
    repeat'
      first
        | with_reducible assumption | with_reducible apply wf_locWrite | with_reducible apply wf_wakeWaiters
        | with_reducible apply wf_barSync | with_reducible apply wf_countWin | with_reducible apply wf_freeWins
        | with_reducible apply wf_ite | exact h | split

theorem wf_checkBarrier (g : Group) (asp : Nat) (addr : Word) (h : Memory.wf s.mem = true) :
    Memory.wf (checkBarrier s g asp addr).1.mem = true := by
  unfold checkBarrier
  repeat' split
  all_goals
    repeat'
      first
        | with_reducible assumption | with_reducible apply wf_translate | with_reducible apply wf_checkAccess
        | with_reducible apply wf_ite | refine wf_fst (by assumption) ?_ | exact h | split

theorem wf_barrierAt (gid : Nat) (g : Group) (asp : Nat) (addr : Word) (k : State → Group → Loc → State)
    (hk : ∀ t x l, Memory.wf t.mem = true → Memory.wf (k t x l).mem = true) (h : Memory.wf s.mem = true) :
    Memory.wf (barrierAt s gid g asp addr k).mem = true := by
  unfold barrierAt
  dsimp only
  split
  · next e => exact wf_takeFault _ _ (wf_fst e (wf_checkBarrier _ _ _ (wf_settleFences _ h)))
  · next e =>
    have h1 := wf_fst e (wf_checkBarrier _ _ _ (wf_settleFences _ h))
    split
    · exact h1
    · exact wf_ite (hk _ _ _ h1) h1

theorem wf_sendAndGo (gid : Nat) (g : Group) (l : Loc) (op : BarOp) (h : Memory.wf s.mem = true) :
    Memory.wf (sendAndGo s gid g l op).mem = true := by
  unfold sendAndGo
  solve_by_elim [wf_modGrp, wf_sendUpd]

theorem wf_arriveNow (gid : Nat) (g : Group) (d b : BitVec 6) (l : Loc) (h : Memory.wf s.mem = true) :
    Memory.wf (arriveNow s gid g d b l).mem = true := by
  unfold arriveNow
  split
  all_goals
    repeat'
      first
        | with_reducible assumption | with_reducible apply wf_modGrp | with_reducible apply wf_barSync
        | with_reducible apply wf_performUpd | with_reducible apply wf_sendAndGo | with_reducible apply wf_ite
        | exact h | split

theorem wf_reachHome (n : Nat) (ok : BarOp → Bool) (h : Memory.wf s.mem = true) : Memory.wf (reachHome s n ok).mem = true := by
  unfold reachHome
  dsimp only
  repeat' split
  all_goals solve_by_elim [wf_settleFences, wf_performUpd, wf_ite]

/-! ### Engine -/

theorem wf_translateDie (die cn va : Nat) (kind : Access) (h : Memory.wf s.mem = true) :
    Memory.wf (translateDie s die cn va kind).1.mem = true := by
  unfold translateDie
  dsimp only
  repeat' split
  all_goals
    repeat'
      first
        | with_reducible assumption | with_reducible apply wf_modDie | with_reducible apply wf_walk
        | with_reducible apply wf_ite | refine wf_fst (by assumption) ?_ | exact h | split

theorem wf_engPlace (die cn va : Nat) (kind : Access) (h : Memory.wf s.mem = true) :
    Memory.wf (engPlace s die cn va kind).1.mem = true := by
  unfold engPlace
  repeat' split
  all_goals solve_by_elim [wf_translateDie, wf_fst, wf_ite]

theorem wf_virtRanges (die cn va : Nat) (dst : Bool) (l : List (Nat × Nat)) (h : Memory.wf s.mem = true) :
    Memory.wf (virtRanges s die cn va dst l).1.mem = true := by
  induction l generalizing s die cn va dst with
  | nil => exact h
  | cons x l ih =>
    simp only [virtRanges]
    repeat' split
    all_goals
      repeat'
        first
          | with_reducible assumption | with_reducible apply wf_engPlace | with_reducible apply wf_ite
          | with_reducible apply ih | refine wf_fst (by assumption) ?_ | exact h | split

theorem wf_cmdRanges (die cn : Nat) (l : List CmdRange) (h : Memory.wf s.mem = true) :
    Memory.wf (cmdRanges s die cn l).1.mem = true := by
  induction l generalizing s die cn with
  | nil => exact h
  | cons x l ih =>
    simp only [cmdRanges]
    repeat' split
    all_goals solve_by_elim [wf_virtRanges, wf_foldl, wf_ite, ih]

theorem wf_setLockTab (core t : Nat) (m : SMap Lock) (h : Memory.wf s.mem = true) :
    Memory.wf (setLockTab s core t m).mem = true := by
  unfold setLockTab
  solve_by_elim [wf_modCore, wf_modDie, wf_ite]

theorem wf_lockOne (core : Nat) (by_ : LockBy) (r : LockRange) (h : Memory.wf s.mem = true) :
    ∀ u, lockOne s core by_ r = some u → Memory.wf u.mem = true := by
  unfold lockOne
  generalize tablesOf r.place = ts
  intro u e
  suffices ∀ o : Option State, (∀ t, o = some t → Memory.wf t.mem = true) → ∀ u, ts.foldl (fun (o : Option State) t =>
      o.bind fun s =>
        let m := lockTab s core t
        (SMap.lowestFree m 0 (if t = 5 then 64 else 1024)).map fun i =>
          let n := newSerial s
          setLockTab n.2 core t (SMap.put m i
            { first := r.lo / 128, last := (r.lo + r.n - 1) / 128, dst := r.dst, by_ := by_, id := n.1 })) o = some u →
      Memory.wf u.mem = true from this (some s) (fun t ht => Option.some.inj ht ▸ h) u e
  clear e u
  induction ts with
  | nil => intro o ho u e; exact ho u e
  | cons t ts ih =>
    intro o ho u e
    refine ih _ ?_ u e
    intro v hv
    cases o with
    | none => cases hv
    | some x =>
      obtain ⟨i, _, rfl⟩ := Option.map_eq_some_iff.1 hv
      exact wf_setLockTab _ _ _ (ho x rfl)

theorem wf_lockAll (core : Nat) (by_ : LockBy) (l : List LockRange) (h : Memory.wf s.mem = true) :
    ∀ u, lockAll s core by_ l = some u → Memory.wf u.mem = true := by
  induction l generalizing s with
  | nil => intro u e; exact Option.some.inj e ▸ h
  | cons r l ih =>
    intro u e
    obtain ⟨t, ht, e⟩ := Option.bind_eq_some_iff.1 e
    exact ih (wf_lockOne _ _ _ h t ht) u e

theorem wf_tryRegister (core : Nat) (by_ : LockBy) (rs : List LockRange) (h : Memory.wf s.mem = true) :
    ∀ u, tryRegister s core by_ rs = some u → Memory.wf u.mem = true := by
  intro u e
  unfold tryRegister at e
  split at e
  · cases e
  · exact wf_lockAll _ _ _ h u e

theorem wf_captureSpills (gid : Nat) (h : Memory.wf s.mem = true) : Memory.wf (captureSpills s gid).mem = true := by
  unfold captureSpills
  split <;> solve_by_elim [wf_ite]

theorem wf_blockEnded (gid : Nat) (h : Memory.wf s.mem = true) : Memory.wf (blockEnded s gid).mem = true := by
  unfold blockEnded
  solve_by_elim [wf_captureSpills, wf_ite]

theorem wf_finishBlock (gid : Nat) (h : Memory.wf s.mem = true) : Memory.wf (finishBlock s gid).mem = true := by
  unfold finishBlock
  solve_by_elim [wf_modGrp, wf_blockEnded]

theorem wf_engEnter (gid : Nat) (g : Group) (d : BitVec 6) (b : EngBlock) (l : Loc) (kind : EngKind) (ranges : List CmdRange)
    (h : Memory.wf s.mem = true) : Memory.wf (engEnter s gid g d b l kind ranges).mem = true := by
  have h1 := wf_cmdRanges (coreDie g.core) g.ctx ranges h
  unfold engEnter
  dsimp only
  split
  · exact wf_takeFault _ _ h1
  · split
    · exact h1
    · next e =>
      have h2 := wf_tryRegister _ _ _ (wf_newSerial h1) _ e
      exact wf_captureSpills _ (wf_modGrp _ _ (wf_modCtx _ _ h2))

theorem wf_engIssue (i : Instr) (fn : Nat) (d a : BitVec 6) (h : Memory.wf s.mem = true) :
    ∀ u, engIssue i fn d a s = .next u → Memory.wf u.mem = true := by
  refine wf_issueA _ _ (fun gid g => ?_) h
  split
  · exact wf_takeFault _ _ h
  · split
    · next e => exact wf_takeFault _ _ (wf_fst e (wf_checkBarrier _ _ _ h))
    · next e =>
      have h1 := wf_fst e (wf_checkBarrier _ _ _ h)
      split
      · exact wf_takeFault _ _ h1
      · split
        · exact wf_takeFault _ _ h1
        · exact wf_engEnter _ _ _ _ _ _ _ h1

theorem wf_evictRun (core pa n : Nat) (h : Memory.wf s.mem = true) : Memory.wf (evictRun s core pa n).mem = true := by
  unfold evictRun
  solve_by_elim [wf_evictLine, wf_foldl]

theorem wf_engAt (c : EngCmd) (asp a n : Nat) (kind : Access) (h : Memory.wf s.mem = true) :
    Memory.wf (engAt s c asp a n kind).1.mem = true := by
  unfold engAt
  repeat'
    first
      | with_reducible assumption | with_reducible apply wf_engPlace | with_reducible apply wf_ite
      | refine wf_fst (by assumption) ?_ | dsimp only | split | exact h

theorem wf_evictFor (c : EngCmd) (pa n : Nat) (h : Memory.wf s.mem = true) : Memory.wf (evictFor s c pa n).mem = true := by
  unfold evictFor
  split <;> solve_by_elim [wf_evictRun]

/-! ### Boot -/

theorem wf_record (i n : Nat) (skip : Bool) (h : Memory.wf s.mem = true) : Memory.wf (record s i n skip).mem = true := by
  unfold record
  solve_by_elim [wf_ite]

/-! ### Engine -/

theorem wf_settleFor (c : EngCmd) (pa n : Nat) (h : Memory.wf s.mem = true) :
    Memory.wf (settleFor s c pa n).mem = true := by
  unfold settleFor
  repeat'
    first
      | with_reducible assumption | with_reducible apply wf_record | with_reducible apply wf_settleLine
      | with_reducible apply wf_ite | with_reducible refine wf_foldl _ (fun s a h => ?_) _ ?_
      | refine wf_fst (by assumption) ?_ | dsimp only | split | exact h

theorem wf_engBytes (c : EngCmd) (l : Loc) (n : Nat) (h : Memory.wf s.mem = true) :
    Memory.wf (engBytes s c l n).1.mem = true := by
  unfold engBytes
  split <;> solve_by_elim [wf_evictFor]

theorem wf_engPut (c : EngCmd) (l : Loc) (bs : List Byte) (h : Memory.wf s.mem = true) :
    Memory.wf (engPut s c l bs).mem = true := by
  unfold engPut
  repeat'
    first
      | with_reducible assumption | with_reducible apply wf_locWrite | with_reducible apply wf_scratchWrite
      | with_reducible apply wf_settleFor | with_reducible apply wf_ite | refine wf_fst (by assumption) ?_
      | dsimp only | split | exact h

theorem wf_copyRun (c : EngCmd) (src dst n : Nat) (h : Memory.wf s.mem = true) :
    Memory.wf (copyRun s c src dst n).1.mem = true := by
  unfold copyRun
  split
  · next e => exact wf_fst e (wf_engAt _ _ _ _ _ h)
  · next e =>
    have h1 := wf_fst e (wf_engAt _ _ _ _ _ h)
    split
    · next e => exact wf_fst e (wf_engAt _ _ _ _ _ h1)
    · next e =>
      have h2 := wf_fst e (wf_engAt _ _ _ _ _ h1)
      split
      · exact h2
      · exact wf_engPut _ _ _ (wf_engBytes _ _ _ h2)

theorem wf_tableRun (c : EngCmd) (idx k bound : Nat) (f : Nat → Nat × Nat) (esz : Nat) (h : Memory.wf s.mem = true) :
    Memory.wf (tableRun s c idx k bound f esz).1.mem = true := by
  unfold tableRun
  repeat'
    first
      | with_reducible assumption | with_reducible apply wf_copyRun | with_reducible apply wf_engAt
      | with_reducible apply wf_engBytes | with_reducible apply wf_ite | refine wf_fst (by assumption) ?_
      | dsimp only | split | exact h

theorem wf_writeRun (c : EngCmd) (asp dst : Nat) (bs : List Byte) (st : BitVec 12) (h : Memory.wf s.mem = true) :
    Memory.wf (writeRun s c asp dst bs st).1.mem = true := by
  unfold writeRun
  repeat'
    first
      | with_reducible assumption | with_reducible apply wf_engAt | with_reducible apply wf_engPut
      | with_reducible apply wf_ite | refine wf_fst (by assumption) ?_ | dsimp only | split | exact h

theorem wf_fillRun (c : EngCmd) (src first off n : Nat) (h : Memory.wf s.mem = true) :
    Memory.wf (fillRun s c src first off n).1.mem = true := by
  unfold fillRun
  repeat'
    first
      | with_reducible assumption | with_reducible apply wf_engAt | with_reducible apply wf_engBytes
      | with_reducible apply wf_setGrp | with_reducible apply wf_ite | refine wf_fst (by assumption) ?_ | dsimp only
      | split | exact h

theorem wf_drainRun (c : EngCmd) (dst fmt : Nat) (pages : SMap Nat) (off n : Nat) (h : Memory.wf s.mem = true) :
    Memory.wf (drainRun s c dst fmt pages off n).1.mem = true := by
  unfold drainRun
  repeat'
    first
      | with_reducible assumption | with_reducible apply wf_engPut | with_reducible apply wf_ite
      | refine wf_fst (by assumption) ?_ | dsimp only | split | exact h

theorem wf_runPortion (c : EngCmd) (off n : Nat) (h : Memory.wf s.mem = true) :
    Memory.wf (runPortion s c off n).1.mem = true := by
  unfold runPortion
  split
  all_goals
    repeat'
      first
        | with_reducible assumption | with_reducible apply wf_copyRun | with_reducible apply wf_tableRun
        | with_reducible apply wf_writeRun | with_reducible apply wf_fillRun | with_reducible apply wf_drainRun
        | exact h | split

theorem wf_endPortion (id : Nat) (c : EngCmd) (p n : Nat) (r : Portion) (h : Memory.wf s.mem = true) :
    Memory.wf (endPortion s id c p n r).mem = true := by
  unfold endPortion
  dsimp only
  repeat' split
  all_goals
    repeat'
      first
        | with_reducible assumption | with_reducible apply wf_logEvent | with_reducible apply wf_sendUpd
        | with_reducible apply wf_unlock | with_reducible apply wf_ite | refine wf_fst (by assumption) ?_ | exact h
        | split

/-! ### Fetch -/

theorem wf_fetchRun (g : Group) (va : Word) (n : Nat) (h : Memory.wf s.mem = true) :
    Memory.wf (fetchRun s g va n).1.mem = true := by
  unfold fetchRun
  repeat'
    first
      | with_reducible assumption | with_reducible apply wf_codePlace | with_reducible apply wf_ite
      | refine wf_fst (by assumption) ?_ | dsimp only | split | exact h

theorem wf_fetchBytes (g : Group) (va : Word) (n : Nat) (h : Memory.wf s.mem = true) :
    Memory.wf (fetchBytes s g va n).1.mem = true := by
  unfold fetchBytes
  repeat'
    first
      | with_reducible assumption | with_reducible apply wf_fetchRun | with_reducible apply wf_ite
      | refine wf_fst (by assumption) ?_ | dsimp only | split | exact h

theorem wf_fetchA (g : Group) (k : Kernel) (h : Memory.wf s.mem = true) : Memory.wf (fetchA s g k).1.mem = true := by
  unfold fetchA
  repeat' split
  all_goals solve_by_elim [wf_fetchBytes, wf_fst, wf_ite]

theorem wf_takeFetchFault (gid : Nat) (g : Group) (f : FaultInfo) (h : Memory.wf s.mem = true) :
    Memory.wf (takeFetchFault s gid g f).mem = true := by
  unfold takeFetchFault
  split <;> solve_by_elim [wf_setGrp, wf_takeFault, wf_fst, wf_ite]

theorem wf_fetchWordC (g : Group) (k : Kernel) (p : CPos) (h : Memory.wf s.mem = true) :
    Memory.wf (fetchWordC s g k p).1.mem = true := by
  unfold fetchWordC
  repeat'
    first
      | with_reducible assumption | with_reducible apply wf_fetchBytes | with_reducible apply wf_ite
      | refine wf_fst (by assumption) ?_ | dsimp only | split | exact h

theorem wf_fetchC (g : Group) (k : Kernel) (p : CPos) (h : Memory.wf s.mem = true) :
    Memory.wf (fetchC s g k p).1.mem = true := by
  unfold fetchC
  repeat'
    first
      | with_reducible assumption | with_reducible apply wf_fetchWordC | with_reducible apply wf_ite
      | refine wf_fst (by assumption) ?_ | dsimp only | split | exact h

theorem wf_passTime (dt : Nat) (rest : List Turn) (h : Memory.wf s.mem = true) :
    Memory.wf (passTime s dt rest).mem = true := by
  unfold passTime
  exact h

theorem wf_putNet (p : Packet) (h : Memory.wf s.mem = true) : Memory.wf (putNet s p).mem = true := by
  unfold putNet
  exact h

theorem wf_takeWire (w : Wire) (h : Memory.wf s.mem = true) :
    Memory.wf (takeWire s w).mem = true := by
  unfold takeWire
  repeat'
    first
      | with_reducible assumption | with_reducible apply wf_putNet | with_reducible apply wf_ite
      | refine wf_fst (by assumption) ?_ | dsimp only | split | exact h

theorem wf_setRxFull (on : Bool) (h : Memory.wf s.mem = true) :
    Memory.wf (setRxFull s on).mem = true := by
  unfold setRxFull
  repeat'
    first
      | with_reducible assumption | with_reducible apply wf_ite | refine wf_fst (by assumption) ?_ | dsimp only
      | split | exact h

theorem wf_putMsg (m : DMsg) (h : Memory.wf s.mem = true) : Memory.wf (putMsg s m).mem = true := by
  unfold putMsg
  exact h

theorem wf_putNote (n : DNotice) (h : Memory.wf s.mem = true) : Memory.wf (putNote s n).mem = true := by
  unfold putNote
  exact h

theorem wf_putCredit (c : Credit) (h : Memory.wf s.mem = true) : Memory.wf (putCredit s c).mem = true := by
  unfold putCredit
  exact h

theorem wf_portIn {t : State} (h : Memory.wf s.mem = true) (h' : Memory.wf t.mem = true) :
    Memory.wf (portIn s t).mem = true := by
  unfold portIn
  split <;> assumption

theorem wf_setBad (line : Nat) (bad : Bool) (h : Memory.wf s.mem = true) : Memory.wf (setBad s line bad).mem = true := by
  unfold setBad
  solve_by_elim [wf_ite]

theorem wf_setCorr (line : Nat) (on : Bool) (h : Memory.wf s.mem = true) :
    Memory.wf (setCorr s line on).mem = true := by
  unfold setCorr
  repeat'
    first
      | with_reducible assumption | with_reducible apply wf_ite | refine wf_fst (by assumption) ?_ | dsimp only
      | split | exact h

theorem wf_setBadReg (gid : Nat) (r : RegRef) (lanes : BitVec 32) (corrected : Bool) (h : Memory.wf s.mem = true) :
    Memory.wf (setBadReg s gid r lanes corrected).mem = true := by
  unfold setBadReg
  repeat'
    first
      | with_reducible assumption | with_reducible apply wf_modGrp | with_reducible apply wf_ite
      | refine wf_fst (by assumption) ?_ | dsimp only | split | exact h

theorem wf_setBadTile (c tile : Nat) (corrected : Bool) (h : Memory.wf s.mem = true) :
    Memory.wf (setBadTile s c tile corrected).mem = true := by
  unfold setBadTile
  solve_by_elim [wf_modCore]

theorem wf_setOffset (pkg off : Nat) (h : Memory.wf s.mem = true) : Memory.wf (setOffset s pkg off).mem = true := by
  unfold setOffset
  exact h

theorem wf_setFlashId (n : Nat) (h : Memory.wf s.mem = true) : Memory.wf (setFlashId s n).mem = true := by
  unfold setFlashId
  exact h

theorem wf_setFlashRoute (pkg : Nat) (v : Word) (h : Memory.wf s.mem = true) :
    Memory.wf (setFlashRoute s pkg v).mem = true := by
  unfold setFlashRoute
  exact h

theorem wf_loadStage (g : Group) (m : Move) (h : Memory.wf s.mem = true) : Memory.wf (loadStage s g m).mem = true := by
  unfold loadStage
  exact h

theorem wf_loadWord (nbits w : Nat) (h : Memory.wf s.mem = true) : Memory.wf (loadWord s nbits w).mem = true := by
  unfold loadWord
  split
  · exact wf_setCells _ _ h
  · split
    · exact h
    · exact wf_setCells _ _ h

/-! ### CIssue -/

theorem wf_issueCore96 (i : Instr) (gid : Nat) (g : Group) (k : Kernel) (p : CPos) (body : CEnv → Nat → Group → State → State)
    (hb : ∀ e, Memory.wf (body e gid g s).mem = true) (h : Memory.wf s.mem = true) :
    Memory.wf (issueCore96 i gid g k p s body).mem = true := by
  unfold issueCore96
  split
  · exact h
  · dsimp only
    split
    · exact h
    · split
      · exact wf_takeFault _ _ h
      · exact hb _

theorem wf_issueCS (i : Instr) (body : CEnv → Nat → Group → State → State)
    (hb : ∀ e gid g, Memory.wf (body e gid g s).mem = true) (h : Memory.wf s.mem = true) :
    ∀ u, issueCS i s body = .next u → Memory.wf u.mem = true := by
  intro u e
  unfold issueCS at e
  repeat' split at e
  all_goals cases e
  exact wf_issueCore96 _ _ _ _ _ _ (fun _ => hb _ _ _) h

theorem wf_issueC (i : Instr) (f : CEnv → Group → Group) (h : Memory.wf s.mem = true) :
    ∀ u, issueC i s f = .next u → Memory.wf u.mem = true := wf_issueCS _ _ (fun _ _ _ => h) h

/-! ### Memory -/

theorem wf_checkLanes (g : Group) (asp n : Nat) (kind : Access) (ea : SMap Word) (l : List Nat) (h : Memory.wf s.mem = true) :
    Memory.wf (checkLanes s g asp n kind ea l).1.mem = true := by
  induction l generalizing s g asp n kind ea with
  | nil => exact h
  | cons x l ih =>
    unfold checkLanes
    solve_by_elim [wf_checkAccess, ih]

theorem wf_raiseAsync (gid : Nat) (f : FaultInfo) (h : Option Held) (hm : Memory.wf s.mem = true) :
    Memory.wf (raiseAsync s gid f h).mem = true := by
  unfold raiseAsync
  repeat' split
  all_goals solve_by_elim (maxDepth := 14) [wf_setGrp, wf_takeFault]

theorem wf_recordPart (g : Group) (fmask base : Nat) (start addr : Word) (n : Nat) (cont : Bool) (h : Memory.wf s.mem = true) :
    Memory.wf (recordPart s g fmask base start addr n cont).1.mem = true := by
  unfold recordPart
  dsimp only
  repeat' split
  all_goals
    repeat'
      first
        | with_reducible assumption | with_reducible apply wf_translate | with_reducible apply wf_ite
        | refine wf_fst (by assumption) ?_ | exact h | split

theorem wf_recordCheck (g : Group) (fmask base : Nat) (start : Word) (n : Nat) (h : Memory.wf s.mem = true) :
    Memory.wf (recordCheck s g fmask base start n).1.mem = true := by
  unfold recordCheck
  dsimp only
  repeat' split
  all_goals
    repeat'
      first
        | with_reducible assumption | with_reducible apply wf_recordPart | with_reducible apply wf_ite
        | refine wf_fst (by assumption) ?_ | exact h | split

theorem wf_ldfLane (g : Group) (fmask : Nat) (base i : Word) (h : Memory.wf s.mem = true) :
    Memory.wf (ldfLane s g fmask base i).1.mem = true := by
  unfold ldfLane
  dsimp only
  repeat' split
  all_goals (try dsimp only)
  all_goals
    repeat'
      first
        | with_reducible assumption | with_reducible apply wf_translate | with_reducible apply wf_recordCheck
        | with_reducible apply wf_ite | refine wf_fst (by assumption) ?_ | exact h | split

theorem wf_moveEntry (gid : Nat) (g : Group) (h : Memory.wf s.mem = true) :
    Memory.wf (moveEntry s gid g).mem = true := by
  unfold moveEntry
  repeat'
    first
      | with_reducible assumption | with_reducible apply wf_ctxPut | with_reducible apply wf_gtWrite
      | with_reducible apply wf_returnChunk | with_reducible apply wf_modGrp | with_reducible apply wf_ite
      | refine wf_fst (by assumption) ?_ | dsimp only | split | exact h

theorem wf_muslinMove (gid : Nat) (h : Memory.wf s.mem = true) :
    Memory.wf (muslinMove s gid).mem = true := by
  unfold muslinMove
  repeat'
    first
      | with_reducible assumption | with_reducible apply wf_moveEntry | with_reducible apply wf_settleHold
      | with_reducible apply wf_ite | refine wf_fst (by assumption) ?_ | dsimp only | split | exact h

theorem wf_muslinMoves (gid : Nat) (h : Memory.wf s.mem = true) :
    Memory.wf (muslinMoves s gid).mem = true := by
  unfold muslinMoves
  repeat'
    first
      | with_reducible assumption | with_reducible apply wf_muslinMove | with_reducible apply wf_ite
      | with_reducible refine wf_foldl _ (fun s a h => ?_) _ ?_ | refine wf_fst (by assumption) ?_ | dsimp only
      | split | exact h

theorem wf_muslinCtx (cn : Nat) (h : Memory.wf s.mem = true) :
    Memory.wf (muslinCtx s cn).mem = true := by
  unfold muslinCtx
  repeat'
    first
      | with_reducible assumption | with_reducible apply wf_muslinMoves | with_reducible apply wf_ite
      | with_reducible refine wf_foldl _ (fun s a h => ?_) _ ?_ | refine wf_fst (by assumption) ?_ | dsimp only
      | split | exact h

theorem wf_reserveRun (gid n : Nat) (h : Memory.wf s.mem = true) :
    Memory.wf (reserveRun s gid n).mem = true := by
  unfold reserveRun
  repeat'
    first
      | with_reducible assumption | with_reducible apply wf_muslinCtx | with_reducible apply wf_reserve
      | with_reducible apply wf_settleHold | with_reducible apply wf_ite | refine wf_fst (by assumption) ?_
      | dsimp only | split | exact h

theorem wf_loadChecks (g : Group) (fmask : Nat) (r : LoadReq) (l : List Nat) (h : Memory.wf s.mem = true) :
    Memory.wf (loadChecks s g fmask r l).1.mem = true := by
  induction l generalizing s g fmask r with
  | nil => exact h
  | cons x l ih =>
    simp only [loadChecks]
    repeat' split
    all_goals
      repeat'
        first
          | with_reducible assumption | with_reducible apply wf_checkAccess | with_reducible apply wf_ldfLane
          | with_reducible apply ih | refine wf_fst (by assumption) ?_ | exact h | split

theorem wf_modEntries (gid first : Nat) (f : Nat → LqEntry → LqEntry) (l : Nat) (h : Memory.wf s.mem = true) :
    Memory.wf (modEntries s gid first f l).mem = true := by
  induction l generalizing s gid first f with
  | zero => exact h
  | succ l ih =>
    simp only [modEntries]
    repeat' split
    all_goals solve_by_elim [wf_lqPut, ih]

theorem wf_holdEntries (gid first n : Nat) (h : Memory.wf s.mem = true) :
    Memory.wf (holdEntries s gid first n).mem = true := by
  unfold holdEntries
  solve_by_elim [wf_modEntries]

theorem wf_freeEntries (gid first n : Nat) (h : Memory.wf s.mem = true) :
    Memory.wf (freeEntries s gid first n).mem = true := by
  unfold freeEntries
  solve_by_elim [wf_modEntries]

theorem wf_raiseSlot (gid : Nat) (r : LoadReq) (f : FaultInfo) (h : Memory.wf s.mem = true) :
    Memory.wf (raiseSlot s gid r f).mem = true := by
  unfold raiseSlot
  repeat'
    first
      | with_reducible assumption | with_reducible apply wf_modGrp | with_reducible apply wf_raiseAsync
      | with_reducible apply wf_holdEntries | with_reducible apply wf_ite | exact h | split

theorem wf_beginLoad (gid : Nat) (r : LoadReq) (acc : List (Nat × LaneAcc)) (h : Memory.wf s.mem = true) :
    Memory.wf (beginLoad s gid r acc).mem = true := by
  unfold beginLoad
  dsimp only
  split
  · exact h
  · next g _ =>
    have h2 {x ls a} := wf_readReqs gid g { r with acc := a } ls (wf_setGrp gid x h)
    split
    · exact h2
    · exact wf_raiseSlot _ _ _ h2

theorem wf_tryLoad (gid : Nat) (g : Group) (r : LoadReq) (lanes : BitVec 32) (h : Memory.wf s.mem = true) :
    Memory.wf (tryLoad s gid g r lanes).1.mem = true := by
  unfold tryLoad
  have h1 := wf_loadChecks g (hdrOf s g.kern).fmask r (lanesOf lanes) h
  dsimp only
  split
  · exact h1
  · exact wf_beginLoad _ _ _ h1

theorem wf_loadFault (gid : Nat) (r : LoadReq) (f : FaultInfo) (h : Memory.wf s.mem = true) :
    Memory.wf (loadFault s gid r f).mem = true := by
  unfold loadFault
  solve_by_elim [wf_modGrp, wf_takeFault, wf_holdEntries]

theorem wf_issueLoad (gid : Nat) (g : Group) (kind : LoadKind) (asp : Nat) (base : Word) (ea : SMap Word) (h : Memory.wf s.mem = true) :
    Memory.wf (issueLoad s gid g kind asp base ea).mem = true := by
  unfold issueLoad
  repeat'
    first
      | with_reducible assumption | with_reducible apply wf_loadFault | with_reducible apply wf_modEntries
      | with_reducible apply wf_modGrp | with_reducible apply wf_reserveRun | with_reducible apply wf_takeFault
      | with_reducible apply wf_tryLoad | with_reducible apply wf_ite | refine wf_fst (by assumption) ?_ | dsimp only
      | split | exact h

theorem wf_fillLane (gid first l : Nat) (ws : List (BitVec 32)) (poison : Bool) (h : Memory.wf s.mem = true) :
    Memory.wf (fillLane s gid first l ws poison).mem = true := by
  unfold fillLane
  solve_by_elim [wf_modEntries, wf_ite]

theorem wf_deliver (gid : Nat) (r : LoadReq) (l : Nat) (a : LaneAcc) (v : Nat) (h : Memory.wf s.mem = true) :
    Memory.wf (deliver s gid r l a v).mem = true := by
  unfold deliver
  split <;> solve_by_elim [wf_modGrp, wf_fillLane]

theorem wf_partRead (g : Group) (r : LoadReq) (p : Loc × Nat) (h : Memory.wf s.mem = true) :
    Memory.wf (partRead s g r p).1.mem = true := by
  unfold partRead
  repeat' split
  all_goals solve_by_elim [wf_thrNat, wf_ite]

theorem wf_partsRead (g : Group) (r : LoadReq) (l : List (Loc × Nat)) (h : Memory.wf s.mem = true) :
    Memory.wf (partsRead s g r l).1.mem = true := by
  induction l generalizing s g r with
  | nil => exact h
  | cons x l ih =>
    unfold partsRead
    solve_by_elim [wf_partRead, ih]

theorem wf_dropLanes (gid stamp : Nat) (m : BitVec 32) (h : Memory.wf s.mem = true) :
    Memory.wf (dropLanes s gid stamp m).mem = true := by
  unfold dropLanes
  solve_by_elim [wf_modGrp, wf_ite]

theorem wf_zeroGone (gid : Nat) (r : LoadReq) (m : BitVec 32) (h : Memory.wf s.mem = true) :
    Memory.wf (zeroGone s gid r m).mem = true := by
  unfold zeroGone
  repeat'
    first
      | with_reducible assumption | with_reducible apply wf_modEntries | with_reducible apply wf_ite
      | refine wf_fst (by assumption) ?_ | dsimp only | split | exact h

theorem wf_arriveLane (gid stamp l : Nat) (h : Memory.wf s.mem = true) :
    Memory.wf (arriveLane s gid stamp l).mem = true := by
  unfold arriveLane
  repeat'
    first
      | with_reducible assumption | with_reducible apply wf_deliver | with_reducible apply wf_dropLanes
      | with_reducible apply wf_partsRead | with_reducible apply wf_raiseSlot | with_reducible apply wf_zeroGone
      | with_reducible apply wf_ite | refine wf_fst (by assumption) ?_ | dsimp only | split | exact h

theorem wf_readAhead (gid stamp l k : Nat) (h : Memory.wf s.mem = true) :
    Memory.wf (readAhead s gid stamp l k).mem = true := by
  unfold readAhead
  repeat'
    first
      | with_reducible assumption | with_reducible apply wf_modGrp | with_reducible apply wf_partsRead
      | with_reducible apply wf_settleFences | with_reducible apply wf_ite | refine wf_fst (by assumption) ?_
      | dsimp only | split | exact h

theorem wf_settleLda (gid : Nat) (h : Memory.wf s.mem = true) : Memory.wf (settleLda s gid).mem = true := by
  unfold settleLda
  solve_by_elim [wf_modGrp, wf_ite]

theorem wf_loadScalar (gid : Nat) (g : Group) (d : BitVec 6) (addr : Word) (n : Nat) (h : Memory.wf s.mem = true) :
    Memory.wf (loadScalar s gid g d addr n).mem = true := by
  unfold loadScalar
  split <;> next e => solve_by_elim [wf_fst e (wf_scalarRead _ _ _ h), wf_takeFault, wf_modGrp]

theorem wf_entryChecks (g : Group) (e : SaqEntry) (h : Memory.wf s.mem = true) :
    Memory.wf (entryChecks s g e).1.mem = true := by
  unfold entryChecks
  repeat'
    first
      | with_reducible assumption | with_reducible apply wf_checkLanes | with_reducible apply wf_ite
      | refine wf_fst (by assumption) ?_ | dsimp only | split | exact h

theorem wf_entryFail (gid : Nat) (e : SaqEntry) (hd : Held) (f : FaultInfo) (h : Memory.wf s.mem = true) :
    Memory.wf (entryFail s gid e hd f).mem = true := by
  unfold entryFail
  repeat'
    first
      | with_reducible assumption | with_reducible apply wf_holdEntries | with_reducible apply wf_modGrp
      | with_reducible apply wf_takeFault | with_reducible apply wf_ite | refine wf_fst (by assumption) ?_
      | dsimp only | split | exact h

theorem wf_pushEntries (gid : Nat) (e : SaqEntry) (ls : List (Nat × Loc)) (h : Memory.wf s.mem = true) :
    Memory.wf (pushEntries s gid e ls).mem = true := by
  unfold pushEntries
  repeat'
    first
      | with_reducible assumption | with_reducible apply wf_freeEntries | with_reducible apply wf_modGrp
      | with_reducible apply wf_ite | refine wf_fst (by assumption) ?_ | dsimp only | split | exact h

theorem wf_stepOver (gid : Nat) (h : Memory.wf s.mem = true) :
    Memory.wf (stepOver s gid).mem = true := by
  unfold stepOver
  repeat'
    first
      | with_reducible assumption | with_reducible apply wf_modGrp | with_reducible apply wf_ite
      | refine wf_fst (by assumption) ?_ | dsimp only | split | exact h

theorem wf_atomAt (core slot : Nat) (l : Loc) (sc aop w v c : Nat) (h : Memory.wf s.mem = true) :
    Memory.wf (atomAt s core slot l sc aop w v c).1.mem = true := by
  unfold atomAt
  repeat'
    first
      | with_reducible assumption | with_reducible apply wf_homeWrite | with_reducible apply wf_locWrite
      | with_reducible apply wf_settleLine | with_reducible apply wf_thrNat | with_reducible apply wf_thrWrite
      | with_reducible apply wf_ite | refine wf_fst (by assumption) ?_ | dsimp only | split | exact h

theorem wf_storeReqs (gid core : Nat) (e : SaqEntry) (ls : List Nat) (m : SMap (SMap (BitVec 8))) (h : Memory.wf s.mem = true) :
    Memory.wf (storeReqs s gid core e ls m).mem = true := by
  unfold storeReqs
  solve_by_elim [wf_addReq, wf_foldl]

theorem wf_storePart (g : Group) (e : SaqEntry) (ds : List SdqEntry) (a n l : Nat) (h : Memory.wf s.mem = true) :
    Memory.wf (storePart s g e ds a n l).mem = true := by
  unfold storePart
  repeat'
    first
      | with_reducible assumption | with_reducible apply wf_thrWrite | with_reducible apply wf_ite
      | refine wf_fst (by assumption) ?_ | dsimp only | split | exact h

theorem wf_storeLocal (g : Group) (e : SaqEntry) (ds : List SdqEntry) (l : Nat) (h : Memory.wf s.mem = true) :
    Memory.wf (storeLocal s g e ds l).mem = true := by
  unfold storeLocal
  repeat'
    first
      | with_reducible assumption | with_reducible apply wf_storePart | with_reducible apply wf_ite
      | refine wf_fst (by assumption) ?_ | dsimp only | split | exact h

theorem wf_sendWindow (core pair : Nat) (closing : Bool) (e : SaqEntry) (ds : List SdqEntry) (ls : List Nat) (h : Memory.wf s.mem = true) :
    Memory.wf (sendWindow s core pair closing e ds ls).mem = true := by
  unfold sendWindow
  repeat'
    first
      | with_reducible assumption | with_reducible apply wf_ite | refine wf_fst (by assumption) ?_ | dsimp only
      | split | exact h

theorem wf_sendWindows (core : Nat) (e : SaqEntry) (ds : List SdqEntry) (ls : List Nat) (h : Memory.wf s.mem = true) :
    Memory.wf (sendWindows s core e ds ls).mem = true := by
  unfold sendWindows
  repeat'
    first
      | with_reducible assumption | with_reducible apply wf_sendWindow | with_reducible apply wf_ite
      | with_reducible refine wf_foldl _ (fun s a h => ?_) _ ?_ | refine wf_fst (by assumption) ?_ | dsimp only
      | split | exact h

theorem wf_performStore (gid : Nat) (g : Group) (e : SaqEntry) (ds : List SdqEntry) (on : List Nat) (h : Memory.wf s.mem = true) :
    Memory.wf (performStore s gid g e ds on).mem = true := by
  unfold performStore
  repeat'
    first
      | with_reducible assumption | with_reducible apply wf_raiseAsync | with_reducible apply wf_sendWindows
      | with_reducible apply wf_storeLocal | with_reducible apply wf_storeReqs | with_reducible apply wf_ite
      | with_reducible refine wf_foldl _ (fun s a h => ?_) _ ?_ | refine wf_fst (by assumption) ?_ | dsimp only
      | split | exact h

theorem wf_atomLocal (gid : Nat) (g : Group) (e : SaqEntry) (ds : List SdqEntry) (l : Nat) (h : Memory.wf s.mem = true) :
    Memory.wf (atomLocal s gid g e ds l).mem = true := by
  unfold atomLocal
  repeat' split
  all_goals solve_by_elim [wf_fillLane, wf_atomAt, wf_ite]

theorem wf_atomFail (gid : Nat) (g : Group) (e : SaqEntry) (ds : List SdqEntry) (code why : Nat) (ls : List Nat) (h : Memory.wf s.mem = true) :
    Memory.wf (atomFail s gid g e ds code why ls).mem = true := by
  unfold atomFail
  repeat'
    first
      | with_reducible assumption | with_reducible apply wf_addReq | with_reducible apply wf_holdEntries
      | with_reducible apply wf_raiseAsync | with_reducible apply wf_ite
      | with_reducible refine wf_foldl _ (fun s a h => ?_) _ ?_ | refine wf_fst (by assumption) ?_ | dsimp only
      | split | exact h

theorem wf_performAtom (gid : Nat) (g : Group) (e : SaqEntry) (ds : List SdqEntry) (on : List Nat) (h : Memory.wf s.mem = true) :
    Memory.wf (performAtom s gid g e ds on).mem = true := by
  unfold performAtom
  repeat'
    first
      | with_reducible assumption | with_reducible apply wf_addReq | with_reducible apply wf_atomFail
      | with_reducible apply wf_atomLocal | with_reducible apply wf_modEntries | with_reducible apply wf_ite
      | with_reducible refine wf_foldl _ (fun s a h => ?_) _ ?_ | refine wf_fst (by assumption) ?_ | dsimp only
      | split | exact h

theorem wf_halfPair (gid : Nat) (g : Group) (h : Memory.wf s.mem = true) :
    Memory.wf (halfPair s gid g).mem = true := by
  unfold halfPair
  repeat'
    first
      | with_reducible assumption | with_reducible apply wf_setGrp | with_reducible apply wf_storePart
      | with_reducible apply wf_ite | with_reducible refine wf_foldl _ (fun s a h => ?_) _ ?_
      | refine wf_fst (by assumption) ?_ | dsimp only | split | exact h

theorem wf_halfStore (gid : Nat) (h : Memory.wf s.mem = true) :
    Memory.wf (halfStore s gid).mem = true := by
  unfold halfStore
  repeat'
    first
      | with_reducible assumption | with_reducible apply wf_halfPair | with_reducible apply wf_settleFences
      | with_reducible apply wf_ite | refine wf_fst (by assumption) ?_ | dsimp only | split | exact h

theorem wf_sendPair (gid : Nat) (g : Group) (h : Memory.wf s.mem = true) : Memory.wf (sendPair s gid g).mem = true := by
  unfold sendPair
  repeat' split
  all_goals
    repeat'
      first
        | with_reducible assumption | with_reducible apply wf_setGrp | with_reducible apply wf_performStore
        | with_reducible apply wf_performAtom | with_reducible apply wf_ite | exact h | split

theorem wf_sendSts (gid : Nat) (g : Group) (e : SaqEntry) (v : Word) (h : Memory.wf s.mem = true) :
    Memory.wf (sendSts s gid g e v).1.mem = true := by
  unfold sendSts
  repeat'
    first
      | with_reducible assumption | with_reducible apply wf_entryChecks | with_reducible apply wf_modGrp
      | with_reducible apply wf_performStore | with_reducible apply wf_ite | refine wf_fst (by assumption) ?_
      | dsimp only | split | exact h

theorem wf_prefLane (g : Group) (nt : Bool) (addr : Word) (h : Memory.wf s.mem = true) :
    Memory.wf (prefLane s g nt addr).mem = true := by
  unfold prefLane
  repeat'
    first
      | with_reducible assumption | with_reducible apply wf_copyLine | with_reducible apply wf_fillLine
      | with_reducible apply wf_translate | with_reducible apply wf_ite | refine wf_fst (by assumption) ?_
      | dsimp only | split | exact h

/-! ### Matrix -/

theorem wf_accPut (core t : Nat) (xs : List (Nat × Nat × BitVec 32)) (h : Memory.wf s.mem = true) :
    Memory.wf (accPut s core t xs).mem = true := by
  unfold accPut
  solve_by_elim [wf_modCore, wf_foldl]

theorem wf_pushOp (e : CEnv) (gid : Nat) (g : Group) (kind : MKind) (tile : Nat) (lanes : BitVec 32) (cap : SMap (BitVec 32)) (h : Memory.wf s.mem = true) :
    Memory.wf (pushOp e gid g s kind tile lanes cap).mem = true := by
  unfold pushOp
  solve_by_elim [wf_modGrp, wf_newSerial]

theorem wf_drainPages (g : Group) (dest : Word) (l : List (Nat × Nat)) (h : Memory.wf s.mem = true) :
    Memory.wf (drainPages s g dest l).1.mem = true := by
  induction l generalizing s with
  | nil => exact h
  | cons p l ih =>
    obtain ⟨o, k⟩ := p
    simp only [drainPages]
    split
    · next e => exact wf_fst e (wf_checkAccess _ _ _ _ _ _ h)
    · next e =>
      have h1 := wf_fst e (wf_checkAccess _ _ _ _ _ _ h)
      split
      · exact h1
      · split
        · next e => exact wf_fst e (ih h1)
        · exact ih h1
    · next e => exact wf_fst e (wf_checkAccess _ _ _ _ _ _ h)

theorem wf_drainDest (g : Group) (asp : Nat) (dest : Word) (fmt : Nat) (h : Memory.wf s.mem = true) :
    Memory.wf (drainDest s g asp dest fmt).1.mem = true := by
  unfold drainDest
  dsimp only
  repeat' split
  all_goals
    repeat'
      first
        | with_reducible assumption | with_reducible apply wf_checkAccess | with_reducible apply wf_drainPages
        | with_reducible apply wf_ite | refine wf_fst (by assumption) ?_ | exact h | split

theorem wf_takeToken (cn : Nat) (h : Memory.wf s.mem = true) : Memory.wf (takeToken s cn).mem = true := by
  unfold takeToken
  solve_by_elim [wf_modCtx]

theorem wf_enterDrain (e : CEnv) (gid : Nat) (g : Group) (l : Loc) (asp fmt dst : Nat) (pages : SMap Nat) (h : Memory.wf s.mem = true) :
    Memory.wf (enterDrain e gid g s l asp fmt dst pages).mem = true := by
  have h1 {ranges} := wf_cmdRanges (coreDie g.core) g.ctx ranges (wf_newSerial h)
  unfold enterDrain
  dsimp only
  split
  · exact h
  · next e1 =>
    have h2 := wf_lockAll _ _ _ h1 _ e1
    exact wf_pushOp _ _ _ _ _ _ _ (wf_takeToken g.ctx h2)

theorem wf_windowPages (g : Group) (dest : Word) (size : Nat) (l : List Nat) (h : Memory.wf s.mem = true) :
    Memory.wf (windowPages s g dest size l).1.mem = true := by
  induction l generalizing s with
  | nil => exact h
  | cons o l ih =>
    simp only [windowPages]
    split
    · next e => exact wf_fst e (wf_checkAccess _ _ _ _ _ _ h)
    · next e =>
      have h1 := wf_fst e (wf_checkAccess _ _ _ _ _ _ h)
      split
      · exact h1
      · split
        · exact h1
        · split
          · next e => exact wf_fst e (ih h1)
          · exact ih h1
    · next e => exact wf_fst e (wf_checkAccess _ _ _ _ _ _ h)

theorem wf_drainWindow (g : Group) (dest : Word) (h : Memory.wf s.mem = true) :
    Memory.wf (drainWindow s g dest).1.mem = true := by
  unfold drainWindow
  repeat' split
  all_goals solve_by_elim [wf_checkAccess, wf_fst, wf_ite]

theorem wf_storeTile (gid : Nat) (g : Group) (t cb base : Nat) (lanes : BitVec 32) (h : Memory.wf s.mem = true) :
    Memory.wf (storeTile s gid g t cb base lanes).mem = true := by
  unfold storeTile
  solve_by_elim [wf_setGrp, wf_foldl]

theorem wf_captureDrain (core t id : Nat) (corrected : Bool) (h : Memory.wf s.mem = true) :
    Memory.wf (captureDrain s core t id corrected).mem = true := by
  unfold captureDrain
  repeat'
    first
      | with_reducible assumption | with_reducible apply wf_ite
      | with_reducible refine wf_foldl _ (fun s a h => ?_) _ ?_ | refine wf_fst (by assumption) ?_ | dsimp only
      | split | exact h

theorem wf_sendDrain (g : Group) (t : Nat) (o : MOp) (dest : Word) (pages : SMap Nat) (h : Memory.wf s.mem = true) :
    Memory.wf (sendDrain s g t o dest pages).mem = true := by
  refine wf_foldl _ (fun u r hu => ?_) _ h
  extract_lets pa
  split
  · exact hu
  · refine wf_foldl _ (fun v c hv => ?_) _ hu
    extract_lets
    split <;> exact hv

theorem wf_performOp (gid : Nat) (g : Group) (o : MOp) (h : Memory.wf s.mem = true) :
    Memory.wf (performOp s gid g o).1.mem = true := by
  unfold performOp
  split
  all_goals
    repeat'
      first
        | with_reducible assumption | with_reducible apply wf_accPut | with_reducible apply wf_storeTile
        | with_reducible apply wf_captureDrain | with_reducible apply wf_sendDrain | with_reducible apply wf_ite
        | (refine wf_foldl _ (fun _ _ _ => ?_) _ ?_) | exact h | split

theorem wf_boundHome (g : Group) (addr : Word) (asp : Nat) (h : Memory.wf s.mem = true) :
    Memory.wf (boundHome s g addr asp).1.mem = true := by
  unfold boundHome
  repeat' split
  all_goals solve_by_elim [wf_translate, wf_fst, wf_ite]

/-! ### Control -/

theorem wf_jumpReg (gid : Nat) (g g' : Group) (t : Word) (h : Memory.wf s.mem = true) :
    Memory.wf (jumpReg s gid g g' t).mem = true := by
  unfold jumpReg
  repeat'
    first
      | with_reducible assumption | with_reducible apply wf_setGrp | with_reducible apply wf_takeFault
      | with_reducible apply wf_ite | exact h | split

theorem wf_dispPages (g : Group) (block : Word) (l : List Word) (h : Memory.wf s.mem = true) :
    Memory.wf (dispPages s g block l).1.mem = true := by
  induction l generalizing s g block with
  | nil => exact h
  | cons x l ih =>
    simp only [dispPages]
    split
    · next e => exact wf_fst e (wf_codePlace _ _ h)
    · next e =>
      have h1 := wf_fst e (wf_codePlace _ _ h)
      split <;> rename_i e2 <;> exact wf_fst e2 (ih _ _ h1)

theorem wf_writeRec (g : Group) (sp : BitVec 16) (target : Word) (l : Nat) (h : Memory.wf s.mem = true) :
    Memory.wf (writeRec s g sp target l).mem = true := by
  unfold writeRec
  repeat'
    first
      | with_reducible assumption | with_reducible apply wf_ctxWrite | with_reducible apply wf_modCtx
      | with_reducible apply wf_modDie | with_reducible apply wf_ite | refine wf_fst (by assumption) ?_ | dsimp only
      | split | exact h

theorem wf_writeRecs (g : Group) (sp : BitVec 16) (l : List (Nat × Word)) (h : Memory.wf s.mem = true) :
    Memory.wf (writeRecs s g sp l).mem = true := by
  induction l generalizing s g sp with
  | nil => exact h
  | cons x l ih =>
    unfold writeRecs
    solve_by_elim [wf_writeRec, wf_fst, ih]

theorem wf_spawnLanes (gid : Nat) (g : Group) (sp : BitVec 16) (out : List (Nat × Word)) (kept : BitVec 32) (next : Word) (h : Memory.wf s.mem = true) :
    Memory.wf (spawnLanes s gid g sp out kept next).mem = true := by
  unfold spawnLanes
  repeat' split
  all_goals solve_by_elim [wf_modGrp, wf_gtWrite, wf_takeFault, wf_writeRecs, wf_ite]

theorem wf_readTable (gid : Nat) (g : Group) (base : Word) (l : List Nat) (h : Memory.wf s.mem = true) :
    Memory.wf (readTable s gid g base l).1.mem = true := by
  induction l generalizing s with
  | nil => exact h
  | cons j l ih =>
    rcases e : scalarRead s gid (base + BitVec.ofNat 64 (4 * j)) 4 with ⟨s1, r⟩
    have h1 := ih (wf_fst e (wf_scalarRead _ _ _ h))
    have h2 := wf_fst e (wf_scalarRead _ _ _ h)
    rcases e2 : readTable s1 gid g base l with ⟨s2, r2⟩
    rw [e2] at h1
    simp only [readTable, e]
    cases r <;> cases r2 <;> simp only [e2] <;> assumption

theorem wf_rejoin (gid i : Nat) (h : Memory.wf s.mem = true) : Memory.wf (rejoin s gid i).mem = true := by
  unfold rejoin
  split
  all_goals
    repeat'
      first
        | with_reducible assumption | with_reducible apply wf_setGrp | with_reducible apply wf_freeRecord | exact h
        | split

theorem wf_endLane (g : Group) (i l : Nat) (h : Memory.wf s.mem = true) :
    Memory.wf (endLane s g i l).mem = true := by
  unfold endLane
  repeat'
    first
      | with_reducible assumption | with_reducible apply wf_ctxPut | with_reducible apply wf_ctxWrite
      | with_reducible apply wf_gtWrite | with_reducible apply wf_ite | refine wf_fst (by assumption) ?_ | dsimp only
      | split | exact h

/-! ### Handler -/

theorem wf_fillServed (gid : Nat) (h : Held) (lanes : BitVec 32) (hm : Memory.wf s.mem = true) :
    Memory.wf (fillServed s gid h lanes).mem = true := by
  unfold fillServed
  solve_by_elim (maxDepth := 14) [wf_modEntries, wf_foldl]

theorem wf_again (gid : Nat) (h : Held) (f : FaultInfo) (hm : Memory.wf s.mem = true) :
    Memory.wf (again s gid h f).mem = true := by
  unfold again
  solve_by_elim (maxDepth := 14) [wf_modGrp, wf_takeFault, wf_holdEntries]

theorem wf_reissue (gid : Nat) (h : Held) (r : LoadReq) (lanes : BitVec 32) (hm : Memory.wf s.mem = true) :
    Memory.wf (reissue s gid h r lanes).mem = true := by
  unfold reissue
  repeat' split
  all_goals
    repeat'
      first
        | with_reducible assumption | with_reducible apply wf_modGrp | with_reducible apply wf_tryLoad
        | with_reducible apply wf_again | with_reducible apply wf_ite | refine wf_fst (by assumption) ?_ | exact hm
        | split

theorem wf_fretLoad (gid : Nat) (g : Group) (h : Held) (r : LoadReq) (skip : Bool) (hm : Memory.wf s.mem = true) :
    Memory.wf (fretLoad s gid g h r skip).mem = true := by
  have h1 := wf_settleHold gid true (wf_setGrp gid (leaveHandler g) hm)
  have h2 := wf_freeEntries gid h.first h.entries (wf_fillServed gid h (faultLanes g) h1)
  unfold fretLoad
  refine wf_ite (wf_ite (wf_ite h2 (wf_modGrp _ _ h2)) (wf_reissue _ _ _ _ h2)) (wf_ite (wf_again _ _ _ h1)
    (wf_reissue _ _ _ _ (wf_freeEntries _ _ _ h1)))

theorem wf_redoLane (gid : Nat) (g : Group) (r : RReq) (x : LaneReq) (h : Memory.wf s.mem = true) :
    Memory.wf (redoLane s gid g r x).mem = true := by
  unfold redoLane
  solve_by_elim [wf_fillLane, wf_atomAt, wf_ite]

theorem wf_redoRequest (gid n : Nat) (h : Memory.wf s.mem = true) : Memory.wf (redoRequest s gid n).mem = true := by
  unfold redoRequest
  repeat' split
  all_goals solve_by_elim (maxDepth := 14) [wf_raiseAsync, wf_holdEntries, wf_redoLane, wf_foldl, wf_ite]

theorem wf_fretRemote (gid : Nat) (g : Group) (h : Held) (ids : List Nat) (skip : Bool) (hm : Memory.wf s.mem = true) :
    Memory.wf (fretRemote s gid g h ids skip).mem = true := by
  unfold fretRemote
  repeat' split
  all_goals
    repeat'
      first
        | with_reducible assumption | with_reducible apply wf_setGrp | with_reducible apply wf_freeEntries
        | with_reducible apply wf_fillServed | with_reducible apply wf_redoRequest | with_reducible apply wf_ite
        | (refine wf_foldl _ (fun _ _ _ => ?_) _ ?_) | exact hm | split

theorem wf_reissueEntry (gid : Nat) (hd : Held) (e : SaqEntry) (h : Memory.wf s.mem = true) :
    Memory.wf (reissueEntry s gid hd e).mem = true := by
  unfold reissueEntry
  repeat'
    first
      | with_reducible assumption | with_reducible apply wf_entryChecks | with_reducible apply wf_entryFail
      | with_reducible apply wf_modGrp | with_reducible apply wf_pushEntries | with_reducible apply wf_ite
      | refine wf_fst (by assumption) ?_ | dsimp only | split | exact h

theorem wf_fretAtomic (gid : Nat) (g : Group) (hd : Held) (e : SaqEntry) (skip : Bool) (h : Memory.wf s.mem = true) :
    Memory.wf (fretAtomic s gid g hd e skip).mem = true := by
  unfold fretAtomic
  repeat'
    first
      | with_reducible assumption | with_reducible apply wf_entryFail | with_reducible apply wf_fillServed
      | with_reducible apply wf_reissueEntry | with_reducible apply wf_setGrp | with_reducible apply wf_settleHold
      | with_reducible apply wf_ite | refine wf_fst (by assumption) ?_ | dsimp only | split | exact h

theorem wf_fretStore (gid : Nat) (g : Group) (hd : Held) (e : SaqEntry) (skip : Bool) (h : Memory.wf s.mem = true) :
    Memory.wf (fretStore s gid g hd e skip).mem = true := by
  unfold fretStore
  repeat'
    first
      | with_reducible assumption | with_reducible apply wf_reissueEntry | with_reducible apply wf_setGrp
      | with_reducible apply wf_ite | refine wf_fst (by assumption) ?_ | dsimp only | split | exact h

theorem wf_fretSts (gid : Nat) (g : Group) (hd : Held) (e : SaqEntry) (v : Word) (skip : Bool) (h : Memory.wf s.mem = true) :
    Memory.wf (fretSts s gid g hd e v skip).mem = true := by
  unfold fretSts
  repeat'
    first
      | with_reducible assumption | with_reducible apply wf_entryFail | with_reducible apply wf_modGrp
      | with_reducible apply wf_sendSts | with_reducible apply wf_setGrp | with_reducible apply wf_settleFences
      | with_reducible apply wf_ite | refine wf_fst (by assumption) ?_ | dsimp only | split | exact h

theorem wf_skipC (gid : Nat) (g : Group) (h : Memory.wf s.mem = true) : Memory.wf (skipC s gid g).mem = true := by
  unfold skipC
  dsimp only
  repeat' split
  all_goals
    repeat'
      first
        | with_reducible assumption | with_reducible apply wf_modGrp | with_reducible apply wf_fetchC
        | with_reducible apply wf_finishBlock | with_reducible apply wf_ite | refine wf_fst (by assumption) ?_
        | exact h | split

theorem wf_fretPlain (gid : Nat) (g : Group) (skip : Bool) (h : Memory.wf s.mem = true) :
    Memory.wf (fretPlain s gid g skip).mem = true := by
  unfold fretPlain
  repeat' split
  all_goals solve_by_elim [wf_setGrp, wf_skipC, wf_ite]

theorem wf_fret (i : Instr) (skip : Bool) (h : Memory.wf s.mem = true) :
    ∀ u, fret i skip s = .next u → Memory.wf u.mem = true := by
  refine wf_issueA _ _ (fun gid g => ?_) h
  repeat' split
  all_goals
    solve_by_elim [wf_fretPlain, wf_fretLoad, wf_fretRemote, wf_fretAtomic, wf_fretStore, wf_fretSts]

theorem wf_forwardRecord (n : Nat) (r : PageReq) (h : Memory.wf s.mem = true) :
    Memory.wf (forwardRecord s n r).mem = true := by
  unfold forwardRecord
  repeat'
    first
      | with_reducible assumption | with_reducible apply wf_ctxWrite | with_reducible apply wf_modCtx
      | with_reducible apply wf_ite | refine wf_fst (by assumption) ?_ | dsimp only | split | exact h

theorem wf_openPreq (die : Nat) (r : PageReq) (h : Memory.wf s.mem = true) :
    Memory.wf (openPreq s die r).mem = true := by
  unfold openPreq
  repeat'
    first
      | with_reducible assumption | with_reducible apply wf_forwardRecord | with_reducible apply wf_modDie
      | with_reducible apply wf_newSerial | with_reducible apply wf_ite | refine wf_fst (by assumption) ?_
      | dsimp only | split | exact h

theorem wf_closePreq (die n : Nat) (h : Memory.wf s.mem = true) : Memory.wf (closePreq s die n).mem = true := by
  unfold closePreq
  solve_by_elim [wf_modDie]

/-! ### Queue -/

theorem wf_pushRecord (n : Nat) (bs : List Byte) (h : Memory.wf s.mem = true) : Memory.wf (pushRecord s n bs).mem = true := by
  unfold pushRecord
  solve_by_elim [wf_modQueue, wf_homeWrite, wf_ite]

theorem wf_refuseRecord (n : Nat) (f : Queue → Queue) (h : Memory.wf s.mem = true) :
    Memory.wf (refuseRecord s n f).mem = true := by
  unfold refuseRecord
  solve_by_elim [wf_modQueue]

theorem wf_acceptRecord (n : Nat) (bs : List Byte) (h : Memory.wf s.mem = true) :
    Memory.wf (acceptRecord s n bs).1.mem = true := by
  unfold acceptRecord
  dsimp only
  repeat' split
  all_goals solve_by_elim [wf_pushRecord, wf_refuseRecord, wf_ite]

theorem wf_refill (n : Nat) (h : Memory.wf s.mem = true) : Memory.wf (refill s n).mem = true := by
  unfold refill
  solve_by_elim [wf_modQueue, wf_ite]

theorem wf_dropHead (n : Nat) (h : Memory.wf s.mem = true) : Memory.wf (dropHead s n).mem = true := by
  unfold dropHead
  repeat'
    first
      | with_reducible assumption | with_reducible apply wf_modQueue | with_reducible apply wf_refill | exact h | split

theorem wf_registerCopy (n : Nat) (h : Memory.wf s.mem = true) : Memory.wf (registerCopy s n).mem = true := by
  unfold registerCopy
  split
  · exact h
  · split
    · dsimp only
      split
      · exact wf_cmdRanges _ _ _ h
      · next e =>
        have h2 := wf_tryRegister _ _ _ (wf_cmdRanges _ _ _ h) _ e
        exact wf_modCtx _ _ h2
    · exact h

theorem wf_startCopy (cn : Nat) (src dst len : Nat) (o : Origin) (barrier : Word) (h : Memory.wf s.mem = true) :
    Memory.wf (startCopy s cn src dst len o barrier).mem = true := by
  unfold startCopy
  solve_by_elim [wf_newSerial, wf_registerCopy]

theorem wf_launchKernel (cn prio : Nat) (o : Origin) (barrier : Word) (st : KState) (bs : List Byte) (h : Memory.wf s.mem = true) :
    Memory.wf (launchKernel s cn prio o barrier st bs).mem = true := by
  unfold launchKernel
  solve_by_elim [wf_newSerial]

theorem wf_handOver (n prio : Nat) (late : Bool) (bs : List Byte) (h : Memory.wf s.mem = true) :
    Memory.wf (handOver s n prio late bs).mem = true := by
  unfold handOver
  split
  all_goals
    repeat'
      first
        | with_reducible assumption | with_reducible apply wf_newSerial | with_reducible apply wf_completeRecord
        | with_reducible apply wf_startCopy | with_reducible apply wf_launchKernel | exact h | split

theorem wf_handChecked (n prio : Nat) (r : Resident) (h : Memory.wf s.mem = true) :
    Memory.wf (handChecked s n prio r).mem = true := by
  unfold handChecked
  dsimp only
  repeat' split
  all_goals (try dsimp only)
  all_goals
    repeat'
      first
        | with_reducible assumption | with_reducible apply wf_logEvent | with_reducible apply wf_barrierHome
        | with_reducible apply wf_refuseRecord | with_reducible apply wf_handOver | with_reducible apply wf_ite
        | refine wf_fst (by assumption) ?_ | exact h | split

theorem wf_releaseThen (gid : Nat) (d : BitVec 6) (act : State → Group → State × Nat)
    (ha : ∀ t g, Memory.wf t.mem = true → Memory.wf (act t g).1.mem = true) (h : Memory.wf s.mem = true) :
    Memory.wf (releaseThen s gid d act).mem = true := by
  have h0 := wf_settleFences gid h
  unfold releaseThen
  dsimp only
  split
  · exact h0
  · exact wf_ite (wf_takeFault _ _ h0) (wf_ite (wf_modGrp _ _ (ha _ _ (wf_fenceAct _ _ h0))) h0)

theorem wf_takeRecord (gid : Nat) (n : Nat) (r : Resident) (f : Group → Group) (h : Memory.wf s.mem = true) :
    Memory.wf (takeRecord s gid n r f).mem = true := by
  unfold takeRecord
  repeat' split
  all_goals
    repeat'
      first
        | with_reducible assumption | with_reducible apply wf_modGrp | with_reducible apply wf_modQueue
        | with_reducible apply wf_dropHead | with_reducible apply wf_ite | exact h | split

theorem wf_wakeDeq (gid : Nat) (g : Group) (q : Word) (h : Memory.wf s.mem = true) :
    ∀ u, wakeDeq s gid g q = some u → Memory.wf u.mem = true := by
  intro u e
  unfold wakeDeq at e
  split at e
  · cases e
  · split at e
    · cases e; exact h
    · split at e
      · cases e
      · obtain ⟨r, _, rfl⟩ := Option.map_eq_some_iff.1 e
        exact wf_takeRecord _ _ _ _ h

/-! ### Save -/

theorem wf_poolTake (cn n : Nat) (h : Memory.wf s.mem = true) :
    ∀ o u, poolTake s cn n = some (o, u) → Memory.wf u.mem = true := by
  intro o u e
  obtain ⟨x, _, hx⟩ := Option.map_eq_some_iff.1 e
  cases hx
  exact wf_modCtx _ _ h

theorem wf_loadTiles (g : Group) (l : List Nat) (bs : List Byte) (h : Memory.wf s.mem = true) :
    Memory.wf (loadTiles s g l bs).mem = true := by
  induction l generalizing s bs with
  | nil => exact h
  | cons j l ih => exact ih _ (wf_modCore _ _ h)

theorem wf_savePoison (g : Group) (h : Memory.wf s.mem = true) :
    Memory.wf (savePoison s g).mem = true := by
  unfold savePoison
  repeat'
    first
      | with_reducible assumption | with_reducible apply wf_ctxWrite | with_reducible apply wf_ite
      | refine wf_fst (by assumption) ?_ | dsimp only | split | exact h

theorem wf_loadLive (k : Kernel) (g : Group) (bs : List Byte) (h : Memory.wf s.mem = true) :
    Memory.wf (loadLive s k g bs).1.mem = true := wf_loadTiles _ _ _ h

theorem wf_loadWhole (k : Kernel) (g : Group) (bs : List Byte) (h : Memory.wf s.mem = true) :
    Memory.wf (loadWhole s k g bs).1.mem = true := wf_loadTiles _ _ _ h

theorem wf_loadRecord (k : Kernel) (g : Group) (bs : List Byte) (h : Memory.wf s.mem = true) :
    Memory.wf (loadRecord s k g bs).1.mem = true := by
  unfold loadRecord
  split <;> solve_by_elim [wf_gtWrite, wf_loadLive, wf_loadWhole, wf_foldl, wf_ite]

theorem wf_cutFault (gid : Nat) (g : Group) (h : Memory.wf s.mem = true) : Memory.wf (cutFault s gid g).mem = true := by
  unfold cutFault
  repeat'
    first
      | with_reducible assumption | with_reducible apply wf_setGrp | with_reducible apply wf_freeSave
      | with_reducible apply wf_takeFault | with_reducible apply wf_ite | exact h | split

theorem wf_closeForming (cn k t : Nat) (h : Memory.wf s.mem = true) :
    Memory.wf (closeForming s cn k t).mem = true := by
  unfold closeForming
  repeat'
    first
      | with_reducible assumption | with_reducible apply wf_ctxPut | with_reducible apply wf_ite
      | with_reducible refine wf_foldl _ (fun s a h => ?_) _ ?_ | refine wf_fst (by assumption) ?_ | dsimp only
      | split | exact h

theorem wf_writeTeam (kn t : Nat) (k : Kernel) (x : Team) (off total : Nat) (h : Memory.wf s.mem = true) :
    Memory.wf (writeTeam s kn t k x off total).mem = true := by
  unfold writeTeam
  repeat'
    first
      | with_reducible assumption | with_reducible apply wf_closeForming | with_reducible apply wf_ctxWrite
      | with_reducible apply wf_flushTo | with_reducible apply wf_freeSave | with_reducible apply wf_freeSpan
      | with_reducible apply wf_modTeam | with_reducible apply wf_savePoison | with_reducible apply wf_setGrp
      | with_reducible apply wf_settleCores | with_reducible apply wf_settleKernel | with_reducible apply wf_ite
      | with_reducible refine wf_foldl _ (fun s a h => ?_) _ ?_ | refine wf_fst (by assumption) ?_ | dsimp only
      | split | exact h

theorem wf_saveTeam (kn t : Nat) (h : Memory.wf s.mem = true) : Memory.wf (saveTeam s kn t).mem = true := by
  unfold saveTeam
  split
  · split
    · exact h
    · dsimp only
      split
      · exact wf_ite h (wf_setCState _ _ _ h)
      · split
        · exact h
        · next e => exact wf_writeTeam _ _ _ _ _ _ (wf_poolTake _ _ (wf_ite h (wf_freeSave _ _ h)) _ _ e)
  · exact h

theorem wf_saveEvicted (gid : Nat) (g : Group) (k : Kernel) (h : Memory.wf s.mem = true) :
    Memory.wf (saveEvicted s gid g k).mem = true := by
  unfold saveEvicted
  repeat'
    first
      | with_reducible assumption | with_reducible apply wf_ctxWrite | with_reducible apply wf_flushTo
      | with_reducible apply wf_savePoison | with_reducible apply wf_setGrp | with_reducible apply wf_ite
      | refine wf_fst (by assumption) ?_ | dsimp only | split | exact h

theorem wf_finishCut (gid : Nat) (g : Group) (k : Kernel) (h : Memory.wf s.mem = true) :
    Memory.wf (finishCut s gid g k).mem = true := by
  unfold finishCut
  split
  all_goals
    repeat'
      first
        | with_reducible assumption | with_reducible apply wf_setGrp | with_reducible apply wf_freeSave
        | with_reducible apply wf_saveTeam | with_reducible apply wf_saveEvicted | with_reducible apply wf_ite
        | exact h | split

theorem wf_writeStop (gid : Nat) (h : Memory.wf s.mem = true) : Memory.wf (writeStop s gid).mem = true := by
  have h0 := wf_muslinMoves gid h
  unfold writeStop
  dsimp only
  split
  · exact h0
  · split
    · exact wf_ite h0 (wf_ctxWrite _ _ _ (wf_setGrp _ _ h0))
    · exact h0

theorem wf_resumeFault (gid : Nat) (x : StopInfo) (h : Memory.wf s.mem = true) :
    Memory.wf (resumeFault s gid x).mem = true := by
  unfold resumeFault
  repeat'
    first
      | with_reducible assumption | with_reducible apply wf_setGrp | with_reducible apply wf_takeFault
      | with_reducible apply wf_ite | refine wf_fst (by assumption) ?_ | dsimp only | split | exact h

theorem wf_resumeGroup (gid : Nat) (h : Memory.wf s.mem = true) :
    Memory.wf (resumeGroup s gid).mem = true := by
  unfold resumeGroup
  repeat'
    first
      | with_reducible assumption | with_reducible apply wf_resumeFault | with_reducible apply wf_setGrp
      | with_reducible apply wf_ite | refine wf_fst (by assumption) ?_ | dsimp only | split | exact h

/-! ### Launch -/

theorem wf_pkgBytes (cn va : Nat) (l : List (Nat × Nat)) (h : Memory.wf s.mem = true) :
    Memory.wf (pkgBytes s cn va l).1.mem = true := by
  induction l generalizing s with
  | nil => exact h
  | cons p l ih =>
    obtain ⟨o, k⟩ := p
    simp only [pkgBytes]
    split
    · next e => exact wf_fst e (wf_translatePkg _ _ _ h)
    · next e =>
      have h1 := wf_fst e (wf_translatePkg _ _ _ h)
      split
      · exact h1
      · split
        · next e => exact wf_fst e (ih h1)
        · next e => exact wf_fst e (ih h1)

theorem wf_pkgRead (cn va n : Nat) (h : Memory.wf s.mem = true) : Memory.wf (pkgRead s cn va n).1.mem = true := by
  unfold pkgRead
  solve_by_elim [wf_pkgBytes]

theorem wf_readHeader (cn : Nat) (image : Word) (h : Memory.wf s.mem = true) :
    Memory.wf (readHeader s cn image).1.mem = true := by
  unfold readHeader
  dsimp only
  repeat' split
  all_goals (try dsimp only)
  all_goals
    repeat'
      first
        | with_reducible assumption | with_reducible apply wf_pkgRead | with_reducible apply wf_ite
        | refine wf_fst (by assumption) ?_ | exact h | split

theorem wf_takeKernel (n : Nat) (k : Kernel) (h : Memory.wf s.mem = true) : Memory.wf (takeKernel s n k).mem = true := by
  unfold takeKernel
  split
  · next e => exact wf_endKernel _ _ _ (wf_fst e (wf_readHeader _ _ h))
  · next s1 _ _ e =>
    have h1 := wf_fst e (wf_readHeader _ _ h)
    split
    · exact wf_endKernel _ _ _ h1
    · extract_lets k1 s2 s3
      have h3 : Memory.wf s3.mem = true := wf_ite (wf_setCState _ _ _ h1) h1
      exact wf_ite h3 (wf_endKernel _ _ _ h3)

theorem wf_adoptSplit (c : Nat) (sp : Nat × Nat × Nat) (h : Memory.wf s.mem = true) :
    Memory.wf (adoptSplit s c sp).mem = true := by
  unfold adoptSplit
  solve_by_elim [wf_modCore, wf_flushCore]

theorem wf_clearTiles (c t n : Nat) (h : Memory.wf s.mem = true) : Memory.wf (clearTiles s c t n).mem = true := by
  unfold clearTiles
  solve_by_elim [wf_modCore]

theorem wf_freshEntry (g : Group) (h : Memory.wf s.mem = true) :
    Memory.wf (freshEntry s g).mem = true := by
  unfold freshEntry
  repeat'
    first
      | with_reducible assumption | with_reducible apply wf_ctxWrite | with_reducible apply wf_ite
      | refine wf_fst (by assumption) ?_ | dsimp only | split | exact h

theorem wf_placeGroup (kn t : Nat) (k : Kernel) (c i : Nat) (h : Memory.wf s.mem = true) :
    Memory.wf (placeGroup s kn t k c i).mem = true := by
  unfold placeGroup
  split
  · exact wf_freshEntry _ (wf_setGrp _ _ h)
  · exact h

theorem wf_freeSlotsBytes (c off n : Nat) (h : Memory.wf s.mem = true) : Memory.wf (freeSlotsBytes s c off n).mem = true := by
  unfold freeSlotsBytes
  solve_by_elim [wf_scratchWrite]

theorem wf_enterSpot (kn t sp : Nat) (k : Kernel) (p : Spot) (h : Memory.wf s.mem = true) :
    Memory.wf (enterSpot s kn t sp k p).mem = true := by
  unfold enterSpot
  dsimp only
  repeat'
    first
      | with_reducible assumption | with_reducible apply wf_adoptSplit | with_reducible apply wf_clearTiles
      | with_reducible apply wf_ite | exact h | split

theorem wf_startTeam (kn t sp : Nat) (k : Kernel) (p : Spot) (h : Memory.wf s.mem = true) :
    Memory.wf (startTeam s kn t sp k p).mem = true :=
  wf_foldl _ (fun _ _ => wf_placeGroup _ _ _ _ _) _ (wf_freeSlotsBytes _ _ _ (wf_enterSpot _ _ _ _ _ h))

theorem wf_loadGroups (kn t : Nat) (k : Kernel) (c : Nat) (l : List (Nat × List Byte)) (h : Memory.wf s.mem = true) :
    Memory.wf (loadGroups s kn t k c l).mem = true := by
  induction l generalizing s with
  | nil => exact h
  | cons p l ih =>
    unfold loadGroups
    split
    · exact ih h
    · exact ih (wf_setGrp _ _ (wf_loadRecord _ _ _ (wf_setGrp _ _ (wf_ite h (wf_freshEntry _ h)))))

theorem wf_restoreTeam (kn t sp : Nat) (k : Kernel) (x : Team) (p : Spot) (h : Memory.wf s.mem = true) :
    Memory.wf (restoreTeam s kn t sp k x p).mem = true := by
  unfold restoreTeam
  repeat'
    first
      | with_reducible assumption | with_reducible apply wf_dropClean | with_reducible apply wf_enterSpot
      | with_reducible apply wf_freeGroup | with_reducible apply wf_freeSave | with_reducible apply wf_loadGroups
      | with_reducible apply wf_modDie | with_reducible apply wf_scratchWrite | with_reducible apply wf_ite
      | with_reducible refine wf_foldl _ (fun s a h => ?_) _ ?_ | refine wf_fst (by assumption) ?_ | dsimp only
      | split | exact h

theorem wf_placeTeam (kn t sp : Nat) (k : Kernel) (cs : List Nat) (h : Memory.wf s.mem = true) :
    ∀ u, placeTeam s kn t sp k cs = some u → Memory.wf u.mem = true := by
  intro u e
  obtain ⟨p, _, rfl⟩ := Option.map_eq_some_iff.1 e
  split
  · exact wf_restoreTeam _ _ _ _ _ _ h
  · exact wf_startTeam _ _ _ _ _ h

theorem wf_placeAll (kn sp : Nat) (k : Kernel) (cs : List Nat) (l : List Nat) (h : Memory.wf s.mem = true) :
    ∀ u, placeAll s kn sp k cs l = some u → Memory.wf u.mem = true := by
  induction l generalizing s with
  | nil => intro u e; exact Option.some.inj e ▸ h
  | cons t l ih =>
    intro u e
    obtain ⟨v, hv, e⟩ := Option.bind_eq_some_iff.1 e
    exact ih (wf_placeTeam _ _ _ _ _ h v hv) u e

theorem wf_placeOnDie (kn sp : Nat) (k : Kernel) (ts : List Nat) (d : Nat) (h : Memory.wf s.mem = true) :
    ∀ u, placeOnDie s kn sp k ts d = some u → Memory.wf u.mem = true := by
  intro u e
  unfold placeOnDie at e
  dsimp only at e
  split at e
  · cases e
  · split at e
    · cases e
    · obtain ⟨v, hv, rfl⟩ := Option.map_eq_some_iff.1 e
      exact wf_modKern _ _ (wf_placeAll _ _ _ _ _ (by exact h) v hv)

theorem wf_placeSpan (kn sp : Nat) (k : Kernel) (h : Memory.wf s.mem = true) :
    ∀ u, placeSpan s kn sp k = some u → Memory.wf u.mem = true := by
  intro u e
  unfold placeSpan at e
  split at e
  all_goals exact wf_findSome (fun a => wf_placeOnDie _ _ _ _ _ h u) e

theorem wf_placeSpans (kn : Nat) (l : List Nat) (h : Memory.wf s.mem = true) :
    ∀ u, placeSpans s kn l = some u → Memory.wf u.mem = true := by
  induction l generalizing s with
  | nil => intro u e; exact Option.some.inj e ▸ h
  | cons t l ih =>
    intro u e
    simp only [placeSpans] at e
    split at e
    · cases e
    · obtain ⟨v, hv, e⟩ := Option.bind_eq_some_iff.1 e
      exact ih (wf_placeSpan _ _ _ h v hv) u e

theorem wf_placeable (kn : Nat) (k : Kernel) (h : Memory.wf s.mem = true) :
    ∀ u, placeable s kn k = some u → Memory.wf u.mem = true := by
  intro u e
  unfold placeable at e
  split at e
  · extract_lets all anyPlaced at e
    split at e
    · cases e
    · exact wf_placeSpans _ _ h u e
  · exact wf_findSome (fun a => wf_placeSpan _ _ _ h u) e

theorem wf_emptied (k : Kernel) (c : Nat) (h : Memory.wf s.mem = true) : Memory.wf (emptied s k c).mem = true := by
  unfold emptied
  solve_by_elim [wf_modCore]

theorem wf_markUntil (t : State) (kn : Nat) (k : Kernel) (ok : State → Bool) (l : List Nat) (h : Memory.wf s.mem = true) :
    ∀ u, markUntil s t kn k ok l = some u → Memory.wf u.mem = true := by
  induction l generalizing s t with
  | nil => intro u e; cases e
  | cons c l ih =>
    intro u e
    simp only [markUntil] at e
    split at e
    · cases e; exact wf_modCore _ _ h
    · exact ih _ (wf_modCore _ _ h) u e

theorem wf_markSpan (kn sp : Nat) (k : Kernel) (h : Memory.wf s.mem = true) :
    ∀ u, markSpan s kn sp k = some u → Memory.wf u.mem = true := by
  intro u e
  exact wf_findSome (fun a => wf_markUntil _ _ _ _ _ h u) e

theorem wf_markCores (kn : Nat) (k : Kernel) (h : Memory.wf s.mem = true) : Memory.wf (markCores s kn k).mem = true := by
  unfold markCores
  split
  · exact h
  · exact wf_ite h (wf_ite (wf_getD (wf_markUntil _ _ _ _ _ h) h) (wf_getD (wf_markSpan _ _ _ h) h))

theorem wf_reserveTeams (kn : Nat) (k : Kernel) (l : List Nat) (h : Memory.wf s.mem = true) :
    ∀ u, reserveTeams s kn k l = some u → Memory.wf u.mem = true := by
  induction l generalizing s with
  | nil => intro u e; cases e; exact h
  | cons t l ih =>
    intro u e
    obtain ⟨r, hr, e⟩ := Option.bind_eq_some_iff.1 e
    exact ih (wf_modTeam _ _ _ (wf_poolTake _ _ h _ _ hr)) u e

theorem wf_preemptTeam (kn t : Nat) (h : Memory.wf s.mem = true) : Memory.wf (preemptTeam s kn t).mem = true := by
  unfold preemptTeam
  split
  · refine wf_ite h (wf_getD (fun u e => ?_) h)
    obtain ⟨v, hv, rfl⟩ := Option.map_eq_some_iff.1 e
    exact wf_postYield _ _ (wf_reserveTeams _ _ _ h v hv)
  · exact h

theorem wf_preemptUntil (kn : Nat) (k : Kernel) (d victim : Nat) (l : List Nat) (h : Memory.wf s.mem = true) :
    Memory.wf (preemptUntil s kn k d victim l).mem = true := by
  induction l generalizing s with
  | nil => exact h
  | cons x l ih =>
    unfold preemptUntil
    solve_by_elim [wf_preemptTeam, wf_ite, ih]

theorem wf_yieldKernel (n : Nat) (h : Memory.wf s.mem = true) : Memory.wf (yieldKernel s n).mem = true := by
  unfold yieldKernel
  solve_by_elim [wf_yieldTeam, wf_foldl]

theorem wf_markWatch (gid : Nat) (h : Memory.wf s.mem = true) : Memory.wf (markWatch s gid).mem = true := by
  unfold markWatch
  solve_by_elim [wf_modGrp]

/-! ### System -/

theorem wf_stopHere (gid : Nat) (g : Group) (reason : Nat) (h : Memory.wf s.mem = true) :
    Memory.wf (stopHere s gid g reason).mem = true := by
  unfold stopHere
  split <;> solve_by_elim [wf_setGrp, wf_stopTeam]

/-! ### Ready -/

theorem wf_tryState (gid : Nat) (g : Group) (st : GState) (h : Memory.wf s.mem = true) :
    Memory.wf (tryState s gid g st).mem = true := by
  unfold tryState
  repeat'
    first
      | with_reducible assumption | with_reducible apply wf_setGrp | with_reducible apply wf_ite
      | refine wf_fst (by assumption) ?_ | dsimp only | split | exact h

/-! ### Bramble -/

theorem wf_enterSet (gid : Nat) (h : Memory.wf s.mem = true) : Memory.wf (enterSet s gid).mem = true := by
  unfold enterSet
  solve_by_elim [wf_modGrp]

theorem wf_leaveSet (gid : Nat) (h : Memory.wf s.mem = true) : Memory.wf (leaveSet s gid).mem = true := by
  unfold leaveSet
  solve_by_elim [wf_modGrp]

theorem wf_wakeUp (gid : Nat) (h : Memory.wf s.mem = true) : Memory.wf (wakeUp s gid).mem = true := by
  unfold wakeUp
  solve_by_elim [wf_modGrp]

theorem wf_modForming (d e : Nat) (f : Forming → Forming) (h : Memory.wf s.mem = true) :
    Memory.wf (modForming s d e f).mem = true := by
  unfold modForming
  solve_by_elim [wf_modDie]

theorem wf_launchEntry (d e : Nat) (h : Memory.wf s.mem = true) : Memory.wf (launchEntry s d e).mem = true := by
  unfold launchEntry
  solve_by_elim [wf_newSerial, wf_modForming]

theorem wf_openEntry (d kn t : Nat) (target : Word) (i : Nat) (h : Memory.wf s.mem = true) :
    Memory.wf (openEntry s d kn t target i).mem = true := by
  unfold openEntry
  solve_by_elim [wf_modDie, wf_newSerial]

theorem wf_joinEntry (d e i : Nat) (f : Forming) (h : Memory.wf s.mem = true) :
    Memory.wf (joinEntry s d e i f).mem = true := by
  unfold joinEntry
  repeat'
    first
      | with_reducible assumption | with_reducible apply wf_modForming | with_reducible apply wf_launchEntry
      | with_reducible apply wf_ite | exact h | split

theorem wf_received (d cn i : Nat) (h : Memory.wf s.mem = true) :
    Memory.wf (received s d cn i).mem = true := by
  unfold received
  repeat'
    first
      | with_reducible assumption | with_reducible apply wf_ctxPut | with_reducible apply wf_modDie
      | with_reducible apply wf_ite | refine wf_fst (by assumption) ?_ | dsimp only | split | exact h

theorem wf_formGroup (d e : Nat) (f : Forming) (k : Kernel) (x : Team) (slot entry : Nat) (h : Memory.wf s.mem = true) :
    Memory.wf (formGroup s d e f k x slot entry).mem = true := by
  unfold formGroup
  repeat'
    first
      | with_reducible assumption | with_reducible apply wf_ctxPut | with_reducible apply wf_freshEntry
      | with_reducible apply wf_modDie | with_reducible apply wf_modTeam | with_reducible apply wf_setGrp
      | with_reducible apply wf_ite | with_reducible refine wf_foldl _ (fun s a h => ?_) _ ?_
      | refine wf_fst (by assumption) ?_ | dsimp only | split | exact h

/-! ### Paging -/

theorem wf_dropTlb (p : TlbEnt → Bool) (h : Memory.wf s.mem = true) : Memory.wf (dropTlb s p).mem = true := by
  unfold dropTlb
  exact h

theorem wf_fenceAnswer (who : Requester) (at_ : Nat) (r : FenceReq) (h : Memory.wf s.mem = true) :
    Memory.wf (fenceAnswer s who at_ r).1.mem = true := by
  unfold fenceAnswer
  repeat'
    first
      | with_reducible assumption | with_reducible apply wf_ite | refine wf_fst (by assumption) ?_ | dsimp only
      | split | exact h

theorem wf_evictEverywhere (pa n : Nat) (h : Memory.wf s.mem = true) :
    Memory.wf (evictEverywhere s pa n).mem = true := by
  unfold evictEverywhere
  repeat'
    first
      | with_reducible assumption | with_reducible apply wf_evictLine | with_reducible apply wf_forwardLines
      | with_reducible apply wf_ite | with_reducible refine wf_foldl _ (fun s a h => ?_) _ ?_
      | refine wf_fst (by assumption) ?_ | dsimp only | split | exact h

theorem wf_migrLock (n : Nat) (m : Migr) (h : Memory.wf s.mem = true) : Memory.wf (migrLock s n m).mem = true := by
  unfold migrLock
  extract_lets z rs
  refine wf_ite (wf_modMigr _ _ h) ?_
  split
  · exact wf_modMigr _ _ h
  · next e =>
    have h1 := wf_lockAll _ _ _ h _ e
    exact wf_modMigr _ _ (wf_evictEverywhere _ _ (wf_evictEverywhere _ _ (wf_dropTlb _ h1)))

theorem wf_migrGo (n : Nat) (h : Memory.wf s.mem = true) : Memory.wf (migrGo s n).mem = true := by
  unfold migrGo
  dsimp only
  repeat' split
  all_goals
    repeat'
      first
        | with_reducible assumption | with_reducible apply wf_modMigr | with_reducible apply wf_migrLock
        | with_reducible apply wf_ite | exact h | split

theorem wf_migrAbort (n : Nat) (h : Memory.wf s.mem = true) :
    Memory.wf (migrAbort s n).mem = true := by
  unfold migrAbort
  repeat'
    first
      | with_reducible assumption | with_reducible apply wf_homeWrite | with_reducible apply wf_modMigr
      | with_reducible apply wf_unlock | with_reducible apply wf_ite | refine wf_fst (by assumption) ?_ | dsimp only
      | split | exact h

theorem wf_migrRelease (n : Nat) (h : Memory.wf s.mem = true) : Memory.wf (migrRelease s n).mem = true := by
  unfold migrRelease
  solve_by_elim [wf_modMigr, wf_unlock, wf_ite]

theorem wf_mctlFields (who : Requester) (n : Nat) (v : Word) (h : Memory.wf s.mem = true) :
    Memory.wf (mctlFields s who n v).mem = true := by
  unfold mctlFields
  solve_by_elim [wf_modMigr, wf_ite]

theorem wf_mctlWrite (who : Requester) (n : Nat) (v : Word) (h : Memory.wf s.mem = true) :
    Memory.wf (mctlWrite s who n v).mem = true := by
  unfold mctlWrite
  dsimp only
  repeat' split
  all_goals
    repeat'
      first
        | with_reducible assumption | with_reducible apply wf_migrGo | with_reducible apply wf_migrAbort
        | with_reducible apply wf_migrRelease | with_reducible apply wf_mctlFields | with_reducible apply wf_ite
        | exact h | split

/-! ### Fabric -/

theorem wf_setReq (n : Nat) (r : RReq) (h : Memory.wf s.mem = true) : Memory.wf (setReq s n r).mem = true := by
  unfold setReq
  exact h

theorem wf_dropReq (n : Nat) (h : Memory.wf s.mem = true) : Memory.wf (dropReq s n).mem = true := by
  unfold dropReq
  exact h

theorem wf_failRead (r : RReq) (code why : Nat) (h : Memory.wf s.mem = true) :
    Memory.wf (failRead s r code why).mem = true := by
  unfold failRead
  repeat'
    first
      | with_reducible assumption | with_reducible apply wf_dropLanes | with_reducible apply wf_modEntries
      | with_reducible apply wf_raiseSlot | with_reducible apply wf_zeroGone | with_reducible apply wf_ite
      | refine wf_fst (by assumption) ?_ | dsimp only | split | exact h

theorem wf_failReq (n : Nat) (code why : Nat) (h : Memory.wf s.mem = true) :
    Memory.wf (failReq s n code why).mem = true := by
  unfold failReq
  repeat'
    first
      | with_reducible assumption | with_reducible apply wf_dropReq | with_reducible apply wf_failRead
      | with_reducible apply wf_holdEntries | with_reducible apply wf_modEntries | with_reducible apply wf_modGrp
      | with_reducible apply wf_raiseAsync | with_reducible apply wf_setReq | with_reducible apply wf_ite
      | refine wf_fst (by assumption) ?_ | dsimp only | split | exact h

theorem wf_leave (p : Packet) (part : Option Nat) (idem : Bool) (seq line : Nat) (h : Memory.wf s.mem = true) :
    Memory.wf (leave s p part idem seq line).mem = true := by
  unfold leave
  repeat'
    first
      | with_reducible assumption | with_reducible apply wf_ite | refine wf_fst (by assumption) ?_ | dsimp only
      | split | exact h

theorem wf_sendFirst (p : Packet) (part : Nat) (ids : List Nat) (h : Memory.wf s.mem = true) :
    Memory.wf (sendFirst s p part ids).mem = true := by
  unfold sendFirst
  repeat'
    first
      | with_reducible assumption | with_reducible apply wf_leave | with_reducible apply wf_ite
      | refine wf_fst (by assumption) ?_ | dsimp only | split | exact h

theorem wf_sendPacket (core t : Nat) (r : RReq) (ms : List (Nat × RReq)) (h : Memory.wf s.mem = true) :
    Memory.wf (sendPacket s core t r ms).mem = true := by
  unfold sendPacket
  repeat'
    first
      | with_reducible assumption | with_reducible apply wf_modCore | with_reducible apply wf_sendFirst
      | with_reducible apply wf_setReq | with_reducible apply wf_ite
      | with_reducible refine wf_foldl _ (fun s a h => ?_) _ ?_ | refine wf_fst (by assumption) ?_ | dsimp only
      | split | exact h

theorem wf_storeBytes (slot line : Nat) (l : List (Nat × Byte)) (h : Memory.wf s.mem = true) :
    Memory.wf (storeBytes s slot line l).mem = true := by
  induction l generalizing s slot line with
  | nil => exact h
  | cons x l ih =>
    unfold storeBytes
    solve_by_elim [wf_homeWrite, wf_fst, ih]

theorem wf_atomLanes (slot : Nat) (r : LineReq) (l : List LaneReq) (h : Memory.wf s.mem = true) :
    Memory.wf (atomLanes s slot r l).1.mem = true := by
  induction l generalizing s with
  | nil => exact h
  | cons x l ih => exact ih (wf_homeWrite _ _ _ h)

theorem wf_performEntry (src op : Nat) (l : LineReq) (h : Memory.wf s.mem = true) :
    Memory.wf (performEntry s src op l).1.mem = true := by
  unfold performEntry
  repeat'
    first
      | with_reducible assumption | with_reducible apply wf_atomLanes | with_reducible apply wf_storeBytes
      | with_reducible apply wf_ite | refine wf_fst (by assumption) ?_ | dsimp only | split | exact h

theorem wf_performEntries (src op : Nat) (l : List LineReq) (h : Memory.wf s.mem = true) :
    Memory.wf (performEntries s src op l).1.mem = true := by
  induction l generalizing s src op with
  | nil => exact h
  | cons x l ih =>
    unfold performEntries
    solve_by_elim [wf_performEntry, ih]

theorem wf_takeNet (n : Nat) (h : Memory.wf s.mem = true) : Memory.wf (takeNet s n).mem = true := by
  unfold takeNet
  exact h

theorem wf_reply (p : Packet) (op : Nat) (st : List Nat) (ws : List Word) (h : Memory.wf s.mem = true) :
    Memory.wf (reply s p op st ws).mem = true := by
  unfold reply
  repeat'
    first
      | with_reducible assumption | with_reducible apply wf_leave | with_reducible apply wf_ite
      | refine wf_fst (by assumption) ?_ | dsimp only | split | exact h

theorem wf_putOff (n : Nat) (r : RReq) (h : Memory.wf s.mem = true) : Memory.wf (putOff s n r).mem = true := by
  unfold putOff
  solve_by_elim [wf_setReq]

theorem wf_fillAtom (r : RReq) (l : List (LaneReq × Word)) (h : Memory.wf s.mem = true) :
    Memory.wf (fillAtom s r l).mem = true := by
  induction l generalizing s r with
  | nil => exact h
  | cons x l ih =>
    unfold fillAtom
    solve_by_elim [wf_fillLane, wf_fst, ih]

theorem wf_finishReq (n : Nat) (r : RReq) (ws : List Word) (h : Memory.wf s.mem = true) :
    Memory.wf (finishReq s n r ws).mem = true := by
  unfold finishReq
  repeat' split
  all_goals solve_by_elim [wf_modGrp, wf_dropReq, wf_fillAtom, wf_ite]

theorem wf_takeStatus (p : Packet) (j st : Nat) (ws : List Word) (h : Memory.wf s.mem = true) :
    Memory.wf (takeStatus s p j st ws).1.mem = true := by
  unfold takeStatus
  repeat' split
  all_goals
    repeat'
      first
        | with_reducible assumption | with_reducible apply wf_failReq | with_reducible apply wf_putOff
        | with_reducible apply wf_finishReq | with_reducible apply wf_ite | exact h | split

theorem wf_takeStatuses (p : Packet) (l : List (Nat × Nat)) (ws : List Word) (h : Memory.wf s.mem = true) :
    Memory.wf (takeStatuses s p l ws).mem = true := by
  induction l generalizing s ws with
  | nil => exact h
  | cons x l ih => exact ih _ (wf_takeStatus _ _ _ _ h)

theorem wf_answer (op reqOp n : Nat) (h : Memory.wf s.mem = true) : Memory.wf (answer op reqOp n s).mem = true := by
  unfold answer
  split
  · exact h
  · extract_lets mine
    exact wf_ite (wf_takeStatuses _ _ _ (wf_takeNet _ h)) h

theorem wf_interrupt (who : Requester) (i : Irq) (h : Memory.wf s.mem = true) : Memory.wf (interrupt s who i).mem = true := by
  unfold interrupt
  exact h

theorem wf_moveFlits (n : Nat) (h : Memory.wf s.mem = true) : Memory.wf (moveFlits s n).mem = true := by
  unfold moveFlits
  dsimp only
  repeat' split
  all_goals solve_by_elim [wf_modLink]

theorem wf_lctlWrite (who : Requester) (l : Nat) (v : Word) (h : Memory.wf s.mem = true) :
    Memory.wf (lctlWrite s who l v).mem = true := by
  unfold lctlWrite
  solve_by_elim [wf_modLink, wf_ite]

theorem wf_linkTake (l : Nat) (toDie : Bool) (cls : Nat) (h : Memory.wf s.mem = true) :
    Memory.wf (linkTake s l toDie cls).mem = true := by
  unfold linkTake
  repeat'
    first
      | with_reducible assumption | with_reducible apply wf_modLink | with_reducible apply wf_ite
      | refine wf_fst (by assumption) ?_ | dsimp only | split | exact h

/-! ### Damask -/

theorem wf_modPlan (h : Nat) (f : Plan → Plan) (hm : Memory.wf s.mem = true) : Memory.wf (modPlan s h f).mem = true := by
  unfold modPlan
  solve_by_elim (maxDepth := 14) []

theorem wf_modInst (n : Nat) (f : Inst → Inst) (h : Memory.wf s.mem = true) : Memory.wf (modInst s n f).mem = true := by
  unfold modInst
  exact h

theorem wf_modWin (w : Nat) (f : Win → Win) (h : Memory.wf s.mem = true) : Memory.wf (modWin s w f).mem = true := by
  unfold modWin
  exact h

theorem wf_damPieces (p : Plan) (va : Nat) (kind : Access) (l : List (Nat × Nat)) (h : Memory.wf s.mem = true) :
    Memory.wf (damPieces s p va kind l).1.mem = true := by
  induction l generalizing s p va kind with
  | nil => exact h
  | cons x l ih =>
    simp only [damPieces]
    repeat' split
    all_goals
      repeat'
        first
          | with_reducible assumption | with_reducible apply wf_translatePkg | with_reducible apply wf_ite
          | with_reducible apply ih | refine wf_fst (by assumption) ?_ | exact h | split

theorem wf_damRead (p : Plan) (va n : Nat) (h : Memory.wf s.mem = true) : Memory.wf (damRead s p va n).1.mem = true := by
  unfold damRead
  solve_by_elim [wf_damPieces]

theorem wf_damWrite (p : Plan) (va : Nat) (bs : List Byte) (h : Memory.wf s.mem = true) :
    (∀ u, (damWrite s p va bs).1 = some u → Memory.wf u.mem = true) ∧ Memory.wf (damWrite s p va bs).2.mem = true := by
  have h1 := wf_damPieces p va .write (cutAll [va] bs.length) h
  refine ⟨fun u e => ?_, h1⟩
  obtain ⟨xs, _, rfl⟩ := Option.map_eq_some_iff.1 e
  exact wf_foldl _ (fun _ _ => wf_homeWrite _ _ _) _ h1

theorem wf_postMsg (p : Plan) (m : DMsg) (h : Memory.wf s.mem = true) : Memory.wf (postMsg s p m).mem = true := by
  unfold postMsg
  solve_by_elim [wf_putMsg, wf_ite]

theorem wf_returnCredit (p : Plan) (src : Nat) (h : Memory.wf s.mem = true) : Memory.wf (returnCredit s p src).mem = true := by
  unfold returnCredit
  solve_by_elim [wf_putCredit, wf_ite]

theorem wf_postNotices (p : Plan) (seq member : Nat) (h : Memory.wf s.mem = true) :
    Memory.wf (postNotices s p seq member).mem = true := by
  unfold postNotices
  solve_by_elim (maxDepth := 14) [wf_putNote, wf_foldl, wf_ite]

theorem wf_useMsg (h : Nat) (p : Plan) (m : DMsg) (hm : Memory.wf s.mem = true) : Memory.wf (useMsg s h p m).mem = true := by
  unfold useMsg
  solve_by_elim (maxDepth := 14) [wf_modPlan, wf_returnCredit]

theorem wf_endRound (n : Nat) (x : Inst) (h : Memory.wf s.mem = true) : Memory.wf (endRound s n x).mem = true := by
  unfold endRound
  repeat' split
  all_goals solve_by_elim (maxDepth := 14) [wf_useMsg, wf_foldl, wf_ite]

theorem wf_ackWin (n : Nat) (x : Inst) (p : Plan) (idx : Nat) (h : Memory.wf s.mem = true) :
    Memory.wf (ackWin s n x p idx).mem = true := by
  unfold ackWin
  split
  · exact wf_modInst _ _ h
  · refine wf_modInst _ _ (wf_modWin _ _ ?_)
    split
    · next e => exact wf_unlock _ (wf_fst e (wf_barrierHome _ _ h))
    · next e => exact wf_sendUpd _ (wf_fst e (wf_barrierHome _ _ h))

theorem wf_ackRest (n : Nat) (p : Plan) (h : Memory.wf s.mem = true) : Memory.wf (ackRest s n p).mem = true := by
  refine wf_foldl _ (fun u i hu => ?_) _ h
  split
  · exact wf_ite hu (wf_ackWin _ _ _ _ hu)
  · exact hu

theorem wf_finishRound (n : Nat) (p : Plan) (h : Memory.wf s.mem = true) : Memory.wf (finishRound s n p).mem = true := by
  unfold finishRound
  dsimp only
  repeat' split
  all_goals solve_by_elim [wf_endRound, wf_ackRest]

theorem wf_failRound (n : Nat) (b : BitVec 12) (member : Nat) (h : Memory.wf s.mem = true) :
    Memory.wf (failRound s n b member).mem = true := by
  unfold failRound
  repeat' split
  all_goals
    repeat'
      first
        | with_reducible assumption | with_reducible apply wf_modInst | with_reducible apply wf_postNotices
        | with_reducible apply wf_ackRest | with_reducible apply wf_finishRound | exact h | split

theorem wf_destRanges (cn va : Nat) (l : List (Nat × Nat)) (h : Memory.wf s.mem = true) :
    Memory.wf (destRanges s cn va l).1.mem = true := by
  induction l generalizing s cn va with
  | nil => exact h
  | cons x l ih =>
    simp only [destRanges]
    repeat' split
    all_goals
      repeat'
        first
          | with_reducible assumption | with_reducible apply wf_translatePkg | with_reducible apply wf_ite
          | with_reducible apply ih | refine wf_fst (by assumption) ?_ | exact h | split

theorem wf_lockDests (p : Plan) (seq : Nat) (l : List Nat) (h : Memory.wf s.mem = true) :
    ∀ u, lockDests s p seq l = some u → Memory.wf u.mem = true := by
  induction l generalizing s with
  | nil => intro u e; exact Option.some.inj e ▸ h
  | cons w l ih =>
    intro u e
    simp only [lockDests] at e
    split at e
    · exact ih h u e
    · obtain ⟨v, hv, e⟩ := Option.bind_eq_some_iff.1 e
      exact ih (wf_lockAll _ _ _ (wf_destRanges _ _ _ h) v hv) u e

theorem wf_registered (n : Nat) (x : Inst) (p : Plan) (h : Memory.wf s.mem = true) :
    Memory.wf (registered s n x p).mem = true := by
  unfold registered
  repeat' split
  all_goals solve_by_elim [wf_modInst, wf_lockDests, wf_ite]

theorem wf_issueO (body : Nat → Inst → Plan → State → State)
    (hb : ∀ n x p t, Memory.wf t.mem = true → Memory.wf (body n x p t).mem = true) (h : Memory.wf s.mem = true) :
    ∀ u, issueO s body = .next u → Memory.wf u.mem = true := by
  intro u e
  have h1 {n x p} := wf_registered n x p h
  unfold issueO at e
  split at e
  · split at e
    · cases e
    · split at e
      · cases e
      · split at e
        · cases e; exact h
        · extract_lets s1 at e
          split at e
          · exact Host.Outcome.next.inj e ▸ h1
          · split at e
            · exact Host.Outcome.next.inj e ▸ hb _ _ _ _ h1
            · exact Host.Outcome.next.inj e ▸ h1
  · cases e

theorem wf_issueInst (f : State → Plan → Inst → Inst) (h : Memory.wf s.mem = true) :
    ∀ u, issueInst s f = .next u → Memory.wf u.mem = true := wf_issueO _ (fun _ _ _ _ => wf_modInst _ _) h

theorem wf_signalAt (n : Nat) (p : Plan) (va : Word) (op : BarOp) (h : Memory.wf s.mem = true) :
    Memory.wf (signalAt s n p va op).mem = true := by
  unfold signalAt
  repeat' split
  all_goals solve_by_elim (maxDepth := 14) [wf_barrierHome, wf_sendUpd, wf_modInst, wf_fst]

/-! ### Chunk -/

theorem wf_accF32 (x : Inst) (e : Nat) (h : Memory.wf s.mem = true) : Memory.wf (accF32 s x e).1.mem = true := by
  unfold accF32
  split <;> solve_by_elim [wf_ite]

theorem wf_accBytes (x : Inst) (n : Nat) (h : Memory.wf s.mem = true) : Memory.wf (accBytes s x n).1.mem = true := by
  unfold accBytes
  solve_by_elim [wf_ite]

theorem wf_putBytes (n : Nat) (p : Plan) (va : Nat) (bs : List Byte) (h : Memory.wf s.mem = true) :
    Memory.wf (putBytes s n p va bs).mem = true := by
  have h1 := wf_damWrite p va bs h
  unfold putBytes
  split
  · next e => rw [e] at h1; exact h1.1 _ rfl
  · next e => rw [e] at h1; exact wf_failRound _ _ _ h1.2

theorem wf_deliverElems (n : Nat) (p : Plan) (w : Win) (j : Nat) (xs : List (Option (BitVec 32))) (h : Memory.wf s.mem = true) :
    Memory.wf (deliverElems s n p w j xs).mem = true := by
  unfold deliverElems
  solve_by_elim [wf_putBytes]

theorem wf_deliverBytes (n : Nat) (p : Plan) (w : Win) (origin j : Nat) (xs : List (BitVec 32)) (h : Memory.wf s.mem = true) :
    Memory.wf (deliverBytes s n p w origin j xs).mem = true := by
  unfold deliverBytes
  solve_by_elim [wf_putBytes]

theorem wf_wrongForm (n : Nat) (p : Plan) (h : Memory.wf s.mem = true) : Memory.wf (wrongForm s n p).mem = true := by
  unfold wrongForm
  solve_by_elim [wf_failRound]

theorem wf_deliverMsg (n : Nat) (p : Plan) (w : Win) (m : DMsg) (h : Memory.wf s.mem = true) :
    Memory.wf (deliverMsg s n p w m).mem = true := by
  unfold deliverMsg
  repeat' split
  all_goals
    repeat'
      first
        | with_reducible assumption | with_reducible apply wf_deliverElems | with_reducible apply wf_deliverBytes
        | with_reducible apply wf_wrongForm | with_reducible apply wf_ite | exact h | split

theorem wf_sendTo (n : Nat) (x : Inst) (p : Plan) (peer : Nat) (m : DMsg) (h : Memory.wf s.mem = true) :
    Memory.wf (sendTo s n x p peer m).mem = true := by
  unfold sendTo
  repeat'
    first
      | with_reducible assumption | with_reducible apply wf_modPlan | with_reducible apply wf_modInst
      | with_reducible apply wf_postMsg | with_reducible apply wf_failRound | with_reducible apply wf_ite | exact h
      | split

theorem wf_onWindow (n : Nat) (p : Plan) (imm : BitVec 40) (f : Nat → Win → State) (hf : ∀ w x, Memory.wf (f w x).mem = true)
    (h : Memory.wf s.mem = true) : Memory.wf (onWindow s n p imm f).mem = true := by
  unfold onWindow
  split
  · exact wf_modInst _ _ h
  · exact hf _ _

theorem wf_sendAccTo (n : Nat) (x : Inst) (p : Plan) (w : Win) (o : OFields) (peer j : Nat) (h : Memory.wf s.mem = true) :
    Memory.wf (sendAccTo s n x p w o peer j).mem = true := by
  unfold sendAccTo
  split
  all_goals
    repeat'
      first
        | with_reducible assumption | with_reducible apply wf_accF32 | with_reducible apply wf_accBytes
        | with_reducible apply wf_sendTo | with_reducible apply wf_ite | exact h | split

theorem wf_runSendAcc (o : OFields) (n : Nat) (x : Inst) (p : Plan) (h : Memory.wf s.mem = true) :
    Memory.wf (runSendAcc o n x p s).mem = true := wf_onWindow _ _ _ _ (fun _ _ => wf_sendAccTo _ _ _ _ _ _ _ h) h

theorem wf_runSendOwn (o : OFields) (n : Nat) (x : Inst) (p : Plan) (h : Memory.wf s.mem = true) :
    Memory.wf (runSendOwn o n x p s).mem = true := wf_onWindow _ _ _ _ (fun _ _ => wf_sendTo _ _ _ _ _ h) h

theorem wf_runSendMem (o : OFields) (n : Nat) (x : Inst) (p : Plan) (h : Memory.wf s.mem = true) :
    Memory.wf (runSendMem o n x p s).mem = true := by
  refine wf_onWindow _ _ _ _ (fun w y => ?_) h
  extract_lets j peer
  split
  · next e => exact wf_failRound _ _ _ (wf_fst e (wf_damRead _ _ _ h))
  · next e => exact wf_sendTo _ _ _ _ _ (wf_fst e (wf_damRead _ _ _ h))

theorem wf_runRecvAcc (o : OFields) (n : Nat) (x : Inst) (p : Plan) (h : Memory.wf s.mem = true) :
    Memory.wf (runRecvAcc o n x p s).mem = true := by
  refine wf_onWindow _ _ _ _ (fun w y => ?_) h
  split
  · exact h
  · next m _ =>
    have h1 := wf_useMsg x.plan p m h
    extract_lets s1
    repeat' split
    all_goals first | exact wf_modInst _ _ h1 | exact wf_wrongForm _ _ h1

theorem wf_runRecvDest (o : OFields) (n : Nat) (x : Inst) (p : Plan) (h : Memory.wf s.mem = true) :
    Memory.wf (runRecvDest o n x p s).mem = true := by
  refine wf_onWindow _ _ _ _ (fun w y => ?_) h
  split
  · exact h
  · exact wf_modInst _ _ (wf_deliverMsg _ _ _ _ (wf_useMsg _ _ _ h))

theorem wf_combineThen (o : OFields) (n : Nat) (x : Inst) (p : Plan) (k : State → Inst → Win → State)
    (hk : ∀ t y w, Memory.wf t.mem = true → Memory.wf (k t y w).mem = true) (h : Memory.wf s.mem = true) :
    Memory.wf (combineThen o n x p s k).mem = true := by
  refine wf_onWindow _ _ _ _ (fun w y => ?_) h
  split
  · exact h
  · next m _ =>
    have h1 := wf_useMsg x.plan p m h
    extract_lets s1
    split
    · exact wf_wrongForm _ _ h1
    · exact hk _ _ _ (wf_modInst _ _ (wf_accF32 _ _ h1))

theorem wf_runCombine (o : OFields) (n : Nat) (x : Inst) (p : Plan) (h : Memory.wf s.mem = true) :
    Memory.wf (runCombine o n x p s).mem = true := wf_combineThen _ _ _ _ _ (fun _ _ _ => wf_modInst _ _) h

theorem wf_runRrs (o : OFields) (n : Nat) (x : Inst) (p : Plan) (h : Memory.wf s.mem = true) :
    Memory.wf (runRrs o n x p s).mem = true := wf_combineThen _ _ _ _ _ (fun _ _ _ => wf_sendAccTo _ _ _ _ _ _ _) h

theorem wf_runCopyOwn (o : OFields) (n : Nat) (x : Inst) (p : Plan) (h : Memory.wf s.mem = true) :
    Memory.wf (runCopyOwn o n x p s).mem = true := by
  refine wf_onWindow _ _ _ _ (fun w y => ?_) h
  extract_lets own
  split <;> exact wf_modInst _ _ h

theorem wf_runCopyDest (o : OFields) (n : Nat) (x : Inst) (p : Plan) (h : Memory.wf s.mem = true) :
    Memory.wf (runCopyDest o n x p s).mem = true := wf_onWindow _ _ _ _ (fun _ _ => wf_ite (wf_modInst _ _ (wf_deliverElems _ _ _ _ _ (wf_accF32 _ _ h)))
    (wf_modInst _ _ (wf_deliverBytes _ _ _ _ _ _ (wf_accBytes _ _ h)))) h

theorem wf_runCopyLoad (o : OFields) (n : Nat) (x : Inst) (p : Plan) (h : Memory.wf s.mem = true) :
    Memory.wf (runCopyLoad o n x p s).mem = true := by
  refine wf_onWindow _ _ _ _ (fun w y => ?_) h
  extract_lets j
  split
  · next e => exact wf_failRound _ _ _ (wf_fst e (wf_damRead _ _ _ h))
  · next e => exact wf_modInst _ _ (wf_fst e (wf_damRead _ _ _ h))

theorem wf_runCopyStore (o : OFields) (n : Nat) (x : Inst) (p : Plan) (h : Memory.wf s.mem = true) :
    Memory.wf (runCopyStore o n x p s).mem = true := wf_onWindow _ _ _ _ (fun _ _ => wf_ite (wf_modInst _ _ (wf_putBytes _ _ _ _ (wf_accF32 _ _ h)))
    (wf_modInst _ _ (wf_putBytes _ _ _ _ (wf_accBytes _ _ h)))) h

theorem wf_runForward (o : OFields) (n : Nat) (x : Inst) (p : Plan) (h : Memory.wf s.mem = true) :
    Memory.wf (runForward o n x p s).mem = true := by
  refine wf_onWindow _ _ _ _ (fun w y => ?_) h
  split
  · exact h
  · next m _ =>
    extract_lets peer s1 s2
    have h2 : Memory.wf s2.mem = true := by
      have h1 := wf_useMsg x.plan p m h
      exact wf_ite (wf_deliverMsg _ _ _ _ h1) h1
    split
    · exact h2
    · exact wf_sendTo _ _ _ _ _ h2

theorem wf_ownMagnitude (p : Plan) (w : Win) (j : Nat) (h : Memory.wf s.mem = true) :
    Memory.wf (ownMagnitude s p w j).1.mem = true := by
  unfold ownMagnitude
  split <;> solve_by_elim [wf_ite]

theorem wf_scaleStep (n : Nat) (x : Inst) (p : Plan) (o : OFields) (a : ScaleAct) (h : Memory.wf s.mem = true) :
    Memory.wf (scaleStep s n x p o a).1.mem = true := by
  unfold scaleStep
  dsimp only
  repeat' split
  all_goals (try dsimp only)
  all_goals
    repeat'
      first
        | with_reducible assumption | with_reducible apply wf_useMsg | with_reducible apply wf_wrongForm
        | with_reducible apply wf_sendTo | with_reducible apply wf_ite | refine wf_fst (by assumption) ?_ | exact h
        | split

theorem wf_runScalex (o : OFields) (n : Nat) (x : Inst) (p : Plan) (h : Memory.wf s.mem = true) :
    Memory.wf (runScalex o n x p s).mem = true := by
  refine wf_onWindow _ _ _ _ (fun w win => ?_) h
  extract_lets j acts r x1 r2
  have hr : Memory.wf r.1.mem = true := by
    show Memory.wf (if x.scale = 0 then ownMagnitude s p win j else (s, x.scaleMax, x.scaleNf)).1.mem = true
    split
    · exact wf_ownMagnitude _ _ _ h
    · exact h
  have h2 : Memory.wf r2.1.mem = true := by
    show Memory.wf (match acts[x.scale]? with
      | some a => scaleStep r.1 n x1 p o a
      | none => (r.1, some x1) : State × Option Inst).1.mem = true
    split
    · exact wf_scaleStep _ _ _ _ _ hr
    · exact hr
  split
  · exact h2
  · split
    · exact wf_modInst _ _ h2
    · exact wf_modInst _ _ (wf_modWin _ _ h2)

theorem wf_stepRun (i : Instr) (n : Nat) (x : Inst) (p : Plan) (h : Memory.wf s.mem = true) :
    Memory.wf (stepRun i n x p s).mem = true := by
  cases i
  case sendAcc => exact wf_runSendAcc _ _ _ _ h
  case sendOwn => exact wf_runSendOwn _ _ _ _ h
  case sendMem => exact wf_runSendMem _ _ _ _ h
  case recvAcc => exact wf_runRecvAcc _ _ _ _ h
  case recvDest => exact wf_runRecvDest _ _ _ _ h
  case rrs => exact wf_runRrs _ _ _ _ h
  case copyOwn => exact wf_runCopyOwn _ _ _ _ h
  case copyDest => exact wf_runCopyDest _ _ _ _ h
  case copyLoad => exact wf_runCopyLoad _ _ _ _ h
  case copyStore => exact wf_runCopyStore _ _ _ _ h
  case combine => exact wf_runCombine _ _ _ _ h
  case forward => exact wf_runForward _ _ _ _ h
  case scalex => exact wf_runScalex _ _ _ _ h
  all_goals exact h

theorem wf_beginStep (d n : Nat) (x : Inst) (p : Plan) (i : Instr) (run : Nat → Inst → Plan → State → State)
    (hr : ∀ t, Memory.wf t.mem = true → Memory.wf (run n x p t).mem = true) (h : Memory.wf s.mem = true) :
    Memory.wf (beginStep s d n x p i run).mem = true := by
  unfold beginStep
  exact hr _ h

theorem wf_chunkStep (i : Instr) (run : Nat → Inst → Plan → State → State)
    (hr : ∀ n x p t, Memory.wf t.mem = true → Memory.wf (run n x p t).mem = true) (h : Memory.wf s.mem = true) :
    ∀ u, chunkStep i run s = .next u → Memory.wf u.mem = true := by
  refine wf_issueO _ (fun n x p t ht => ?_) h
  split
  · exact ht
  · exact wf_ite (wf_beginStep _ _ _ _ _ _ (hr _ _ _) ht) ht

/-! ### Round -/

theorem wf_discardMsg (p : Plan) (m : DMsg) (h : Memory.wf s.mem = true) : Memory.wf (discardMsg s p m).mem = true := by
  unfold discardMsg
  solve_by_elim [wf_returnCredit]

theorem wf_admitMsg (h n : Nat) (m : DMsg) (hm : Memory.wf s.mem = true) : Memory.wf (admitMsg s h n m).mem = true := by
  unfold admitMsg
  repeat' split
  all_goals
    repeat'
      first
        | with_reducible assumption | with_reducible apply wf_modPlan | with_reducible apply wf_modInst
        | with_reducible apply wf_discardMsg | with_reducible apply wf_ite | exact hm | split

theorem wf_takeMsg (m : DMsg) (h : Memory.wf s.mem = true) : Memory.wf (takeMsg s m).mem = true := by
  unfold takeMsg
  repeat' split
  all_goals
    repeat'
      first
        | with_reducible assumption | with_reducible apply wf_modPlan | with_reducible apply wf_modInst
        | with_reducible apply wf_discardMsg | with_reducible apply wf_admitMsg | with_reducible apply wf_ite | exact h
        | split

theorem wf_startRound (h n : Nat) (p : Plan) (arg : Word) (node : Option (Nat × Nat)) (hm : Memory.wf s.mem = true) :
    Memory.wf (startRound s h n p arg node).mem = true := by
  unfold startRound
  solve_by_elim (maxDepth := 14) [wf_modPlan, wf_registered, wf_admitMsg, wf_foldl]

theorem wf_tryStart (cn h : Nat) (arg : Word) (node : Option (Nat × Nat)) (hm : Memory.wf s.mem = true) :
    Memory.wf (tryStart s cn h arg node).1.mem = true := by
  unfold tryStart
  repeat' split
  all_goals solve_by_elim (maxDepth := 14) [wf_startRound, wf_ite]

theorem wf_lostMsg (m : DMsg) (h : Memory.wf s.mem = true) : Memory.wf (lostMsg s m).mem = true := by
  unfold lostMsg
  repeat' split
  all_goals solve_by_elim [wf_failRound, wf_ite]

theorem wf_expireMsg (n : Nat) (h : Memory.wf s.mem = true) :
    Memory.wf (expireMsg s n).mem = true := by
  unfold expireMsg
  repeat'
    first
      | with_reducible assumption | with_reducible apply wf_lostMsg | with_reducible apply wf_ite
      | refine wf_fst (by assumption) ?_ | dsimp only | split | exact h

/-! ### Graph -/

theorem wf_readNode (cn va succ n i : Nat) (h : Memory.wf s.mem = true) :
    Memory.wf (readNode s cn va succ n i).1.mem = true := by
  unfold readNode
  dsimp only
  repeat' split
  all_goals (try dsimp only)
  all_goals
    repeat'
      first
        | with_reducible assumption | with_reducible apply wf_pkgRead | with_reducible apply wf_ite
        | refine wf_fst (by assumption) ?_ | exact h | split

theorem wf_readNodes (cn va succ n : Nat) (l : List Nat) (h : Memory.wf s.mem = true) :
    Memory.wf (readNodes s cn va succ n l).1.mem = true := by
  induction l generalizing s cn va succ n with
  | nil => exact h
  | cons x l ih =>
    simp only [readNodes]
    repeat' split
    all_goals
      repeat'
        first
          | with_reducible assumption | with_reducible apply wf_readNode | with_reducible apply ih
          | refine wf_fst (by assumption) ?_ | exact h | split

theorem wf_readGraph (cn : Nat) (va area : Word) (h : Memory.wf s.mem = true) :
    Memory.wf (readGraph s cn va area).1.mem = true := by
  unfold readGraph
  dsimp only
  repeat' split
  all_goals
    repeat'
      first
        | with_reducible assumption | with_reducible apply wf_pkgRead | with_reducible apply wf_readNodes
        | with_reducible apply wf_ite | refine wf_fst (by assumption) ?_ | exact h | split

theorem wf_pkgWrite (cn va : Nat) (bs : List Byte) (h : Memory.wf s.mem = true) :
    Memory.wf (pkgWrite s cn va bs).1.mem = true := by
  refine wf_foldl_fst _ (fun r e hr => ?_) _ h
  split
  · split
    · next e => exact wf_fst e (wf_translatePkg _ _ _ hr)
    · next e =>
      have h1 := wf_fst e (wf_translatePkg _ _ _ hr)
      split
      · exact h1
      · exact wf_homeWrite _ _ _ h1
  · exact hr

theorem wf_setCount (g : Graph) (i c : Nat) (h : Memory.wf s.mem = true) : Memory.wf (setCount s g i c).1.mem = true := by
  unfold setCount
  solve_by_elim [wf_pkgWrite]

theorem wf_getCount (g : Graph) (i : Nat) (h : Memory.wf s.mem = true) : Memory.wf (getCount s g i).1.mem = true := by
  unfold getCount
  solve_by_elim [wf_pkgRead]

theorem wf_modGraph (n : Nat) (f : Graph → Graph) (h : Memory.wf s.mem = true) : Memory.wf (modGraph s n f).mem = true := by
  unfold modGraph
  exact h

theorem wf_failGraph (n : Nat) (h : Memory.wf s.mem = true) : Memory.wf (failGraph s n).mem = true := by
  unfold failGraph
  solve_by_elim [wf_modGraph]

theorem wf_dropWaiting (n : Nat) (h : Memory.wf s.mem = true) : Memory.wf (dropWaiting s n).mem = true := by
  unfold dropWaiting
  exact h

theorem wf_endGraph (n : Nat) (g : Graph) (h : Memory.wf s.mem = true) : Memory.wf (endGraph s n g).mem = true := by
  unfold endGraph
  solve_by_elim [wf_completeRecord, wf_dropWaiting, wf_ite]

theorem wf_settleGraph (n : Nat) (h : Memory.wf s.mem = true) : Memory.wf (settleGraph s n).mem = true := by
  unfold settleGraph
  split <;> solve_by_elim [wf_endGraph, wf_ite]

theorem wf_nodeFails (n i : Nat) (h : Memory.wf s.mem = true) : Memory.wf (nodeFails s n i).mem = true := by
  unfold nodeFails
  solve_by_elim [wf_modGraph]

theorem wf_nodeRecord (cn : Nat) (x : GNode) (h : Memory.wf s.mem = true) : Memory.wf (nodeRecord s cn x).1.mem = true := by
  unfold nodeRecord
  split <;> solve_by_elim [wf_pkgRead, wf_fst, wf_ite]

theorem wf_launchNode (n i : Nat) (g : Graph) (x : GNode) (h : Memory.wf s.mem = true) :
    Memory.wf (launchNode s n i g x).mem = true := by
  have h0 {f i c} := wf_setCount g i c (wf_modGraph n f h)
  unfold launchNode
  extract_lets s0
  split
  · exact wf_ite (wf_tryStart _ _ _ _ h0) (wf_nodeFails _ _ (wf_tryStart _ _ _ _ h0))
  · split
    · next e => exact wf_nodeFails _ _ (wf_fst e (wf_nodeRecord _ _ h0))
    · next e =>
      have h1 := wf_fst e (wf_nodeRecord _ _ h0)
      split
      · refine wf_launchKernel _ _ _ _ _ _ ?_
        split <;> exact h1
      · exact wf_startCopy _ _ _ _ _ _ h1

theorem wf_nodeReady (n i : Nat) (h : Memory.wf s.mem = true) : Memory.wf (nodeReady s n i).mem = true := by
  unfold nodeReady
  split
  · exact h
  · split
    · exact h
    · exact wf_ite (wf_launchNode _ _ _ _ h) (wf_modGraph _ _ h)

theorem wf_subtractNode (n i : Nat) (h : Memory.wf s.mem = true) : Memory.wf (subtractNode s n i).mem = true := by
  unfold subtractNode
  split
  · exact h
  · split
    · next e => exact wf_failGraph _ (wf_fst e (wf_getCount _ _ h))
    · next e =>
      have h1 := wf_fst e (wf_getCount _ _ h)
      extract_lets c'
      split
      · next e => exact wf_failGraph _ (wf_fst e (wf_setCount _ _ _ h1))
      · next e =>
        have h2 := wf_fst e (wf_setCount _ _ _ h1)
        exact wf_ite (wf_nodeReady _ _ h2) h2

theorem wf_waitKernel (n i : Nat) (g : Graph) (h : Memory.wf s.mem = true) : Memory.wf (waitKernel s n i g).mem = true := by
  unfold waitKernel
  solve_by_elim [wf_newSerial]

theorem wf_nodeArrives (n : Nat) (g : Graph) (x : GNode) (st : Status) (h : Memory.wf s.mem = true) :
    Memory.wf (nodeArrives s n g x st).mem = true := by
  unfold nodeArrives
  repeat' split
  all_goals
    repeat'
      first
        | with_reducible assumption | with_reducible apply wf_barrierHome | with_reducible apply wf_sendUpd
        | with_reducible apply wf_failGraph | with_reducible apply wf_ite | refine wf_fst (by assumption) ?_ | exact h
        | split

theorem wf_nodeEnds (n i : Nat) (g : Graph) (x : GNode) (st : Status) (h : Memory.wf s.mem = true) :
    Memory.wf (nodeEnds s n i g x st).mem = true := by
  unfold nodeEnds
  extract_lets drop s1 s2
  have h2 : Memory.wf s2.mem = true := wf_nodeArrives _ _ _ _ (wf_modGraph _ _ (wf_flushAll h))
  exact wf_ite (wf_foldl _ (fun _ _ => wf_subtractNode _ _) _ h2) (wf_failGraph _ h2)

theorem wf_nodeFires (n i : Nat) (g : Graph) (x : GNode) (h : Memory.wf s.mem = true) :
    Memory.wf (nodeFires s n i g x).mem = true := by
  have h1 {f} := wf_modGraph n f h
  unfold nodeFires
  extract_lets s1 fired s2
  split
  · exact wf_endGraph _ _ h1
  · have h2 : Memory.wf s2.mem = true := wf_setCount _ _ _ (wf_modGraph _ _ h1)
    split
    · next e => exact wf_failGraph _ (wf_fst e (wf_pkgRead _ _ _ h2))
    · next e =>
      have h3 := wf_fst e (wf_pkgRead _ _ _ h2)
      extract_lets to_
      exact wf_ite (wf_nodeArrives _ _ _ _ h3) (wf_subtractNode _ _ h3)

theorem wf_endGraphs (cn : Nat) (h : Memory.wf s.mem = true) : Memory.wf (endGraphs s cn).mem = true := by
  unfold endGraphs
  solve_by_elim [wf_endGraph, wf_foldl]

/-! ### Plan -/

theorem wf_barsOk (cn : Nat) (l : List WinDesc) (h : Memory.wf s.mem = true) : Memory.wf (barsOk s cn l).1.mem = true := by
  induction l generalizing s with
  | nil => exact h
  | cons d l ih =>
    unfold barsOk
    split <;> solve_by_elim [wf_barrierHome, wf_fst]

theorem wf_planLoad (cn : Nat) (cmd : List Byte) (h : Memory.wf s.mem = true) :
    Memory.wf (planLoad s cn cmd).s.mem = true := by
  unfold planLoad
  extract_lets
  split
  · exact h
  · split
    · exact h
    · extract_lets b s1 ws
      have h1 : Memory.wf s1.mem = true := wf_barsOk _ _ h
      repeat' split
      all_goals exact h1

theorem wf_unloadPlan (h : Nat) (hm : Memory.wf s.mem = true) : Memory.wf (unloadPlan s h).mem = true := by
  unfold unloadPlan
  repeat' split
  all_goals
    repeat'
      first
        | with_reducible assumption | with_reducible apply wf_unlock | with_reducible apply wf_failRound
        | with_reducible apply wf_ite | (refine wf_foldl _ (fun _ _ _ => ?_) _ ?_) | exact hm | split

theorem wf_unloadPlans (cn : Nat) (h : Memory.wf s.mem = true) : Memory.wf (unloadPlans s cn).mem = true := by
  unfold unloadPlans
  solve_by_elim (maxDepth := 14) [wf_unloadPlan, wf_foldl]

/-! ### Context -/

theorem wf_setLast (cn v : Nat) (h : Memory.wf s.mem = true) : Memory.wf (setLast s cn v).mem = true := by
  unfold setLast
  solve_by_elim [wf_modCtx]

theorem wf_beginSave (cn : Nat) (h : Memory.wf s.mem = true) : Memory.wf (beginSave s cn).mem = true := by
  unfold beginSave
  dsimp only
  repeat' split
  all_goals (try dsimp only)
  all_goals
    repeat'
      first
        | with_reducible assumption | with_reducible apply wf_setCState | with_reducible apply wf_postYield
        | with_reducible apply wf_setLast | with_reducible apply wf_ite | (refine wf_foldl _ (fun _ _ _ => ?_) _ ?_)
        | exact h | split

theorem wf_chainRecords (cn : Nat) (l : List (Nat × Team × Kernel)) (h : Memory.wf s.mem = true) :
    Memory.wf (chainRecords s cn l).mem = true := by
  induction l generalizing s with
  | nil => exact h
  | cons x l ih =>
    unfold chainRecords
    solve_by_elim [wf_ctxPut, ih]

theorem wf_takeImage (cn : Nat) (at_ size : Nat) (rs : List (Nat × Nat × Nat)) (h : Memory.wf s.mem = true) :
    Memory.wf (takeImage s cn at_ size rs).mem = true := by
  unfold takeImage
  repeat'
    first
      | with_reducible assumption | with_reducible apply wf_ctxWrite | with_reducible apply wf_modCtx
      | with_reducible apply wf_setCState | with_reducible apply wf_ite
      | with_reducible refine wf_foldl _ (fun s a h => ?_) _ ?_ | refine wf_fst (by assumption) ?_ | dsimp only
      | split | exact h

theorem wf_restore (cn : Nat) (h : Memory.wf s.mem = true) : Memory.wf (restore s cn).mem = true := by
  unfold restore
  dsimp only
  repeat' split
  all_goals
    repeat'
      first
        | with_reducible assumption | with_reducible apply wf_logEvent | with_reducible apply wf_setCState
        | with_reducible apply wf_setLast | with_reducible apply wf_takeImage | with_reducible apply wf_ite | exact h
        | split

theorem wf_killKernels (cn reason : Nat) (p : Kernel → Bool) (h : Memory.wf s.mem = true) :
    Memory.wf (killKernels s cn reason p).mem = true := by
  unfold killKernels
  solve_by_elim [wf_endKernel, wf_foldl]

theorem wf_killAll (cn : Nat) (h : Memory.wf s.mem = true) : Memory.wf (killAll s cn).mem = true := by
  unfold killAll
  solve_by_elim [wf_setLast, wf_killKernels]

theorem wf_resumeAll (cn : Nat) (h : Memory.wf s.mem = true) : Memory.wf (resumeAll s cn).mem = true := by
  unfold resumeAll
  repeat'
    first
      | with_reducible assumption | with_reducible apply wf_writeStop | with_reducible apply wf_resumeGroup
      | with_reducible apply wf_setLast | (refine wf_foldl _ (fun _ _ _ => ?_) _ ?_) | exact h | split

theorem wf_cctlWrite (who : Requester) (cn : Nat) (v : Word) (h : Memory.wf s.mem = true) :
    Memory.wf (cctlWrite s who cn v).mem = true := by
  unfold cctlWrite
  repeat' split
  all_goals
    repeat'
      first
        | with_reducible assumption | with_reducible apply wf_setLast | with_reducible apply wf_beginSave
        | with_reducible apply wf_restore | with_reducible apply wf_killAll | with_reducible apply wf_resumeAll
        | with_reducible apply wf_ite | exact h | split

/-! ### Partition -/

theorem wf_partSet (cmd : List Byte) (h : Memory.wf s.mem = true) : Memory.wf (partSet s cmd).s.mem = true := by
  unfold partSet
  extract_lets
  repeat' split
  all_goals exact h

theorem wf_ctxCreate (who : Requester) (cmd : List Byte) (h : Memory.wf s.mem = true) :
    Memory.wf (ctxCreate s who cmd).s.mem = true := by
  unfold ctxCreate
  extract_lets
  repeat' split
  all_goals first | exact h | exact wf_setCState _ _ _ h

theorem wf_bindSlot (cn : Nat) (key : BitVec 512) (h : Memory.wf s.mem = true) :
    Memory.wf (bindSlot s cn key).s.mem = true := by
  unfold bindSlot
  split
  · exact h
  · extract_lets s1
    exact wf_setCState _ _ _ (wf_modCtx _ _ h)

theorem wf_keySet (cn : Nat) (cmd : List Byte) (h : Memory.wf s.mem = true) : Memory.wf (keySet s cn cmd).s.mem = true := by
  unfold keySet
  extract_lets c mode s1
  have h1 : Memory.wf s1.mem = true := wf_modCtx _ _ h
  split
  · exact h
  · split
    · exact h
    · split
      · exact wf_bindSlot _ _ h
      · split
        · exact h1
        · split
          · exact h1
          · exact wf_bindSlot _ _ h1

theorem wf_discardQueues (cn : Nat) (h : Memory.wf s.mem = true) : Memory.wf (discardQueues s cn).mem = true := by
  unfold discardQueues
  solve_by_elim [wf_ite]

theorem wf_closeRequests (cn : Nat) (h : Memory.wf s.mem = true) : Memory.wf (closeRequests s cn).mem = true := by
  unfold closeRequests
  exact h

theorem wf_abortMigrations (cn : Nat) (h : Memory.wf s.mem = true) : Memory.wf (abortMigrations s cn).mem = true := by
  unfold abortMigrations
  solve_by_elim [wf_migrAbort, wf_foldl]

theorem wf_freeMigrations (cn : Nat) (h : Memory.wf s.mem = true) : Memory.wf (freeMigrations s cn).mem = true := by
  unfold freeMigrations
  solve_by_elim [wf_ite]

theorem wf_orphan (cn : Nat) (h : Memory.wf s.mem = true) :
    Memory.wf (orphan s cn).mem = true := by
  unfold orphan
  repeat'
    first
      | with_reducible assumption | with_reducible apply wf_ite | refine wf_fst (by assumption) ?_ | dsimp only
      | split | exact h

theorem wf_evictSlot (slot : Nat) (h : Memory.wf s.mem = true) :
    Memory.wf (evictSlot s slot).mem = true := by
  unfold evictSlot
  repeat'
    first
      | with_reducible assumption | with_reducible apply wf_evictLine | with_reducible apply wf_forwardLines
      | with_reducible apply wf_ite | with_reducible refine wf_foldl _ (fun s a h => ?_) _ ?_
      | refine wf_fst (by assumption) ?_ | dsimp only | split | exact h

theorem wf_sealLine (slot line : Nat) (h : Memory.wf s.mem = true) : Memory.wf (sealLine s slot line).mem = true := by
  unfold sealLine
  dsimp only
  exact wf_setCells _ _ h

theorem wf_zeroSlot (slot : Nat) (h : Memory.wf s.mem = true) :
    Memory.wf (zeroSlot s slot).mem = true := by
  unfold zeroSlot
  repeat'
    first
      | with_reducible assumption | with_reducible apply wf_evictSlot | with_reducible apply wf_sealLine
      | with_reducible apply wf_ite | with_reducible refine wf_foldl _ (fun s a h => ?_) _ ?_
      | refine wf_fst (by assumption) ?_ | dsimp only | split | exact h

theorem wf_ctxDestroy (cn : Nat) (h : Memory.wf s.mem = true) : Memory.wf (ctxDestroy s cn).s.mem = true := by
  unfold ctxDestroy
  exact wf_orphan _ (wf_dropTlb _ (wf_zeroSlot _ (wf_setCState _ _ _ (wf_unloadPlans _ (wf_freeMigrations _ (wf_abortMigrations _
    (wf_closeRequests _ (wf_discardQueues _ (wf_endGraphs _ (wf_killKernels _ _ _ h))))))))))

/-! ### Registers -/

theorem wf_qctlWrite (who : Requester) (n : Nat) (v : Word) (h : Memory.wf s.mem = true) :
    Memory.wf (qctlWrite s who n v).mem = true := by
  unfold qctlWrite
  dsimp only
  repeat' split
  all_goals solve_by_elim [wf_modQueue, wf_ite]

theorem wf_qringWrite (who : Requester) (n : Nat) (v : Word) (h : Memory.wf s.mem = true) :
    Memory.wf (qringWrite s who n v).mem = true := by
  unfold qringWrite
  solve_by_elim [wf_modQueue, wf_ite]

theorem wf_qquotaWrite (who : Requester) (n : Nat) (v : Word) (h : Memory.wf s.mem = true) :
    Memory.wf (qquotaWrite s who n v).mem = true := by
  unfold qquotaWrite
  solve_by_elim [wf_modQueue, wf_ite]

theorem wf_qstatWrite (who : Requester) (n : Nat) (v : Word) (h : Memory.wf s.mem = true) :
    Memory.wf (qstatWrite s who n v).mem = true := by
  unfold qstatWrite
  solve_by_elim [wf_modQueue, wf_ite]

theorem wf_migrField (who : Requester) (n off : Nat) (v : Word) (h : Memory.wf s.mem = true) :
    Memory.wf (migrField s who n off v).mem = true := by
  unfold migrField
  solve_by_elim [wf_modMigr, wf_ite]

theorem wf_cimgWrite (who : Requester) (cn : Nat) (v : Word) (h : Memory.wf s.mem = true) :
    Memory.wf (cimgWrite s who cn v).mem = true := by
  unfold cimgWrite
  solve_by_elim [wf_modCtx, wf_ite]

theorem wf_routeWrite (who : Requester) (p : Nat) (v : Word) (h : Memory.wf s.mem = true) :
    Memory.wf (routeWrite s who p v).mem = true := by
  unfold routeWrite
  solve_by_elim [wf_ite]

theorem wf_exportWrite (who : Requester) (n off : Nat) (v : Word) (h : Memory.wf s.mem = true) :
    Memory.wf (exportWrite s who n off v).mem = true := by
  unfold exportWrite
  solve_by_elim [wf_ite]

theorem wf_modBox (who : Requester) (f : Mailbox → Mailbox) (h : Memory.wf s.mem = true) :
    Memory.wf (modBox s who f).mem = true := by
  unfold modBox
  split <;> exact h

theorem wf_beginEntry (who : Requester) (cmd : List Byte) (h : Memory.wf s.mem = true) :
    Memory.wf (beginEntry s who cmd).mem = true := by
  unfold beginEntry
  solve_by_elim [wf_ite]

theorem wf_submit (who : Requester) (h : Memory.wf s.mem = true) : Memory.wf (submit s who).mem = true := by
  unfold submit
  dsimp only
  repeat' split
  all_goals solve_by_elim [wf_modBox, wf_beginEntry, wf_ite]

theorem wf_spoilCommand (who : Requester) (h : Memory.wf s.mem = true) : Memory.wf (spoilCommand s who).mem = true := by
  unfold spoilCommand
  exact wf_modBox _ _ h

theorem wf_mailWrite (who : Requester) (off : Nat) (v : Word) (h : Memory.wf s.mem = true) :
    Memory.wf (mailWrite s who off v).mem = true := by
  unfold mailWrite
  repeat' split
  all_goals solve_by_elim [wf_modBox, wf_spoilCommand, wf_submit, wf_ite]

theorem wf_registerWrite (who : Requester) (pa : Nat) (v : Word) (h : Memory.wf s.mem = true) :
    Memory.wf (registerWrite s who pa v).mem = true := by
  unfold registerWrite
  extract_lets in_ off
  refine wf_ite h (wf_ite (wf_ite (wf_mailWrite _ _ _ h) h) (wf_ite (wf_ite (wf_mailWrite _ _ _ h) h) (wf_ite ?_ (wf_ite
    (wf_ite (wf_mctlWrite _ _ _ h) (wf_migrField _ _ _ _ h)) (wf_ite (wf_ite (wf_lctlWrite _ _ _ h) h) (wf_ite (wf_routeWrite _ _ _ h)
    (wf_ite (wf_exportWrite _ _ _ _ h) (wf_ite ?_ h))))))))
  · generalize off 0x40000010000 % 64 = k
    generalize off 0x40000010000 / 64 = n
    split
    · exact wf_qctlWrite _ _ _ h
    · exact wf_qringWrite _ _ _ h
    · exact wf_qquotaWrite _ _ _ h
    · exact wf_qstatWrite _ _ _ h
    · exact h
  · generalize off 0x40000100000 % 64 = k
    generalize off 0x40000100000 / 64 = n
    split
    · exact wf_cctlWrite _ _ _ h
    · exact wf_cimgWrite _ _ _ h
    · exact h

/-! ### Mailbox -/

theorem wf_attest (who : Requester) (cn : Nat) (cmd : List Byte) (h : Memory.wf s.mem = true) :
    Memory.wf (attest s who cn cmd).s.mem = true := by
  unfold attest
  extract_lets at_ pub session n bs src s1
  split
  · exact h
  · have h1 : Memory.wf s1.mem = true := by
      show Memory.wf (if _ then _ else _ : State).mem = true
      exact wf_ite h (wf_homeWrite _ _ _ h)
    split <;> exact h1

theorem wf_query (who : Requester) (cmd : List Byte) (h : Memory.wf s.mem = true) :
    Memory.wf (query s who cmd).s.mem = true := by
  unfold query
  split <;> exact h

theorem wf_planUnload (who : Requester) (cmd : List Byte) (h : Memory.wf s.mem = true) :
    Memory.wf (planUnload s who cmd).s.mem = true := by
  unfold planUnload
  extract_lets
  repeat' split
  all_goals first | exact h | exact wf_unloadPlan _ h

theorem wf_runCommand (who : Requester) (cmd : List Byte) (h : Memory.wf s.mem = true) :
    Memory.wf (runCommand s who cmd).s.mem = true := by
  unfold runCommand
  generalize recField cmd 8 2 = code
  generalize recField cmd 16 2 = cn
  dsimp only
  split
  · exact h
  · split
    · exact h
    · split
      · exact h
      · split
        · exact h
        · split <;> exact h
        · exact wf_partSet _ h
        · exact wf_ctxCreate _ _ h
        · exact wf_ctxDestroy _ h
        · exact wf_keySet _ _ h
        · exact wf_planLoad _ _ h
        · exact wf_planUnload _ _ h
        · exact wf_attest _ _ _ h
        · exact h
        · exact wf_query _ _ h
        · exact h

theorem wf_setOutcome (who : Requester) (id status : Nat) (results : List Byte) (h : Memory.wf s.mem = true) :
    Memory.wf (setOutcome s who id status results).mem = true := by
  unfold setOutcome
  solve_by_elim [wf_ite]

theorem wf_writeReply (who : Requester) (id status flags : Nat) (results : List Byte) (h : Memory.wf s.mem = true) :
    Memory.wf (writeReply s who id status flags results).mem = true := by
  unfold writeReply
  solve_by_elim [wf_interrupt, wf_modBox]

theorem wf_volatileReset (h : Memory.wf s.mem = true) : Memory.wf (volatileReset s).mem = true := by
  unfold volatileReset
  exact SMap_wf_filter _ _ _ h

theorem wf_completeEntry (e : JEntry) (h : Memory.wf s.mem = true) : Memory.wf (completeEntry s e).mem = true :=
  wf_setOutcome _ _ _ _ (wf_runCommand _ _ h)

theorem wf_completeBegun (p : Requester → Bool) (h : Memory.wf s.mem = true) : Memory.wf (completeBegun s p).mem = true := by
  unfold completeBegun
  solve_by_elim [wf_completeEntry, wf_foldl]

/-! ### Boot -/

theorem wf_dropFailed (h : Memory.wf s.mem = true) : Memory.wf (dropFailed s).mem = true := by
  unfold dropFailed
  solve_by_elim [wf_modCore, wf_foldl]

theorem wf_trainLinks (wide : Bool) (h : Memory.wf s.mem = true) : Memory.wf (trainLinks s wide).mem = true :=
  wf_foldl _ (fun _ _ => wf_modLink _ _) _ h

theorem wf_stepWork (i : Nat) (fb : Bool) (failed : List Nat) (h : Memory.wf s.mem = true) :
    Memory.wf (stepWork s i fb failed).mem = true := by
  unfold stepWork
  split
  · exact h
  · exact h
  · exact wf_trainLinks _ h
  · exact h
  · exact wf_dropFailed (by exact h)
  · exact h
  · exact h
  · exact h
  · exact wf_completeBegun _ (by exact h)
  · exact h

theorem wf_stepLeft (i : Nat) (h : Memory.wf s.mem = true) : Memory.wf (stepLeft s i).mem = true := by
  unfold stepLeft
  solve_by_elim [wf_dropFailed, wf_ite]

theorem wf_enterSafe (h : Memory.wf s.mem = true) :
    Memory.wf (enterSafe s).mem = true := by
  unfold enterSafe
  repeat'
    first
      | with_reducible assumption | with_reducible apply wf_ite | refine wf_fst (by assumption) ?_ | dsimp only
      | split | exact h

theorem wf_bootStep (ok fb : BitVec 10) (failed : List Nat) (i : Nat) (h : Memory.wf s.mem = true) :
    Memory.wf (bootStep ok fb failed i s).mem = true := by
  unfold bootStep
  repeat'
    first
      | with_reducible assumption | with_reducible apply wf_enterSafe | with_reducible apply wf_record
      | with_reducible apply wf_stepLeft | with_reducible apply wf_stepWork | with_reducible apply wf_ite
      | refine wf_fst (by assumption) ?_ | dsimp only | split | exact h

theorem wf_boot (ok fb : BitVec 10) (failed : List Nat) (h : Memory.wf s.mem = true) :
    Memory.wf (boot ok fb failed s).mem = true := by
  unfold boot
  repeat'
    first
      | with_reducible assumption | with_reducible apply wf_bootStep | with_reducible apply wf_modCore
      | with_reducible apply wf_volatileReset | with_reducible apply wf_ite
      | with_reducible refine wf_foldl _ (fun s a h => ?_) _ ?_ | refine wf_fst (by assumption) ?_ | dsimp only
      | split | exact h

theorem wf_restart (h : Memory.wf s.mem = true) :
    Memory.wf (restart s).mem = true := by
  unfold restart
  repeat'
    first
      | with_reducible assumption | with_reducible apply wf_boot | with_reducible apply wf_ite
      | refine wf_fst (by assumption) ?_ | dsimp only | split | exact h

theorem wf_faultContext (cn : Nat) (h : Memory.wf s.mem = true) : Memory.wf (faultContext s cn).mem = true := by
  unfold faultContext
  refine wf_logEvent _ _ _ _ _ (wf_foldl _ (fun u a hu => ?_) _ (wf_abortMigrations _ (wf_closeRequests _ ?_)))
  · split
    · exact wf_failRound _ _ _ hu
    · exact hu
  · exact wf_endGraphs _ (wf_killKernels _ _ _ (wf_setCState _ _ _ h))

theorem wf_resetPort (h : Memory.wf s.mem = true) : Memory.wf (resetPort s).mem = true := by
  unfold resetPort
  exact h

theorem wf_powerDown (d : Nat) (h : Memory.wf s.mem = true) : Memory.wf (powerDown s d).mem = true := by
  unfold powerDown
  exact wf_foldl _ (fun _ _ => wf_modLink _ _) _ (by exact h)

/-! ### Command -/

theorem wf_afterReply (cmd : List Byte) (status : Nat) (h : Memory.wf s.mem = true) :
    Memory.wf (afterReply s cmd status).mem = true := by
  unfold afterReply
  repeat'
    first
      | with_reducible assumption | with_reducible apply wf_restart | with_reducible apply wf_ite
      | refine wf_fst (by assumption) ?_ | dsimp only | split | exact h

theorem wf_replay (who : Requester) (cmd : List Byte) (e : JEntry) (o : Nat × List Byte) (h : Memory.wf s.mem = true) :
    Memory.wf (replay s who cmd e o).mem = true := by
  unfold replay
  solve_by_elim [wf_writeReply, wf_ite]

theorem wf_performNew (who : Requester) (cmd : List Byte) (h : Memory.wf s.mem = true) :
    Memory.wf (performNew s who cmd).mem = true := by
  have h1 := wf_runCommand who cmd h
  unfold performNew
  exact wf_afterReply _ _ (wf_writeReply _ _ _ _ _ (wf_ite (wf_setOutcome _ _ _ _ h1) h1))

theorem wf_perform (who : Requester) (h : Memory.wf s.mem = true) : Memory.wf (perform s who).mem = true := by
  unfold perform
  extract_lets
  repeat' split
  all_goals
    repeat'
      first
        | with_reducible assumption | with_reducible apply wf_performNew | with_reducible apply wf_writeReply
        | with_reducible apply wf_beginEntry | with_reducible apply wf_replay | exact h | split

theorem wf_commandTurn (who : Requester) (mine : Nat → Bool) (h : Memory.wf s.mem = true) :
    Memory.wf (commandTurn s who mine).mem = true := by
  unfold commandTurn
  split
  all_goals
    repeat'
      first
        | with_reducible assumption | with_reducible apply wf_submit | with_reducible apply wf_perform
        | with_reducible apply wf_ite | exact h | split

/-! ### Step -/

theorem wf_actA (gid : Nat) (h : Memory.wf s.mem = true) :
    Memory.wf (actA s gid).mem = true := by
  unfold actA
  repeat'
    first
      | with_reducible assumption | with_reducible apply wf_modGrp | with_reducible apply wf_ite
      | refine wf_fst (by assumption) ?_ | dsimp only | split | exact h

theorem wf_actC (gid : Nat) (h : Memory.wf s.mem = true) :
    Memory.wf (actC s gid).mem = true := by
  unfold actC
  repeat'
    first
      | with_reducible assumption | with_reducible apply wf_modGrp | with_reducible apply wf_ite
      | refine wf_fst (by assumption) ?_ | dsimp only | split | exact h

end Sys2Proof.Machine
end

