-- ==== Sys2Proof/Laws/Decode.lean ====
section
/-! SUPPORT. The value of each kind of instruction word by its fields, the fields read back from it, and the bytes of a
value. -/

namespace Sys2Proof

/-- The value of two bit strings side by side. -/
theorem toNat_append_eq {n m : Nat} (x : BitVec n) (y : BitVec m) : (x ++ y).toNat = x.toNat * 2 ^ m + y.toNat := by
  rw [BitVec.toNat_append, ← Nat.shiftLeft_add_eq_or_of_lt y.isLt, Nat.shiftLeft_eq]

/-- A field is the value divided and reduced. -/
theorem toNat_field {n : Nat} (x : BitVec n) (lo k : Nat) : (x.extractLsb' lo k).toNat = x.toNat / 2 ^ lo % 2 ^ k := by
  rw [BitVec.extractLsb'_toNat, Nat.shiftRight_eq_div_pow]

/-! ### The A-stream layouts (R254) -/

theorem wordAR_toNat (m d a b : BitVec 6) (fn : BitVec 8) : (wordAR m d a b fn).toNat =
    (((m.toNat * 2 ^ 6 + d.toNat) * 2 ^ 6 + a.toNat) * 2 ^ 6 + b.toNat) * 2 ^ 8 + fn.toNat := by
  show (m ++ d ++ a ++ b ++ fn).toNat = _
  simp only [toNat_append_eq]

theorem wordAI_toNat (m d a : BitVec 6) (imm : BitVec 14) : (wordAI m d a imm).toNat =
    ((m.toNat * 2 ^ 6 + d.toNat) * 2 ^ 6 + a.toNat) * 2 ^ 14 + imm.toNat := by
  show (m ++ d ++ a ++ imm).toNat = _
  simp only [toNat_append_eq]

theorem wordAU_toNat (m d : BitVec 6) (imm : BitVec 20) : (wordAU m d imm).toNat =
    (m.toNat * 2 ^ 6 + d.toNat) * 2 ^ 20 + imm.toNat := by
  show (m ++ d ++ imm).toNat = _
  simp only [toNat_append_eq]

theorem wordAJ_toNat (m : BitVec 6) (off : BitVec 26) : (wordAJ m off).toNat = m.toNat * 2 ^ 26 + off.toNat := by
  show (m ++ off).toNat = _
  simp only [toNat_append_eq]

theorem wordAB_toNat (m : BitVec 6) (cc : BitVec 4) (a : BitVec 6) (off : BitVec 16) : (wordAB m cc a off).toNat =
    ((m.toNat * 2 ^ 4 + cc.toNat) * 2 ^ 6 + a.toNat) * 2 ^ 16 + off.toNat := by
  show (m ++ cc ++ a ++ off).toNat = _
  simp only [toNat_append_eq]

theorem wordAM_toNat (m : BitVec 6) (ty : BitVec 4) (asp : BitVec 2) (nt : Bool) (aa : BitVec 5) (sb : BitVec 6)
    (off : BitVec 8) : (wordAM m ty asp nt aa sb off).toNat =
      (((((m.toNat * 2 ^ 4 + ty.toNat) * 2 ^ 2 + asp.toNat) * 2 ^ 1 + nt.toNat) * 2 ^ 5 + aa.toNat) * 2 ^ 6 + sb.toNat) * 2 ^ 8
        + off.toNat := by
  show (m ++ ty ++ asp ++ BitVec.ofBool nt ++ aa ++ sb ++ off).toNat = _
  simp only [toNat_append_eq, BitVec.toNat_ofBool]

/-- The fields of an AR word. -/
theorem wordAR_fields (m d a b : BitVec 6) (fn : BitVec 8) : let w := wordAR m d a b fn
    w.extractLsb' 26 6 = m ∧ w.extractLsb' 20 6 = d ∧ w.extractLsb' 14 6 = a ∧ w.extractLsb' 8 6 = b ∧ w.extractLsb' 0 8 = fn := by
  have h := wordAR_toNat m d a b fn
  have := d.isLt; have := a.isLt; have := b.isLt; have := fn.isLt; have := m.isLt
  refine ⟨?_, ?_, ?_, ?_, ?_⟩ <;> apply BitVec.eq_of_toNat_eq <;> rw [toNat_field, h] <;> omega

/-- The fields of an AI word. -/
theorem wordAI_fields (m d a : BitVec 6) (imm : BitVec 14) : let w := wordAI m d a imm
    w.extractLsb' 26 6 = m ∧ w.extractLsb' 20 6 = d ∧ w.extractLsb' 14 6 = a ∧ w.extractLsb' 0 14 = imm := by
  have h := wordAI_toNat m d a imm
  have := d.isLt; have := a.isLt; have := imm.isLt; have := m.isLt
  refine ⟨?_, ?_, ?_, ?_⟩ <;> apply BitVec.eq_of_toNat_eq <;> rw [toNat_field, h] <;> omega

/-- The fields of an AU word. -/
theorem wordAU_fields (m d : BitVec 6) (imm : BitVec 20) : let w := wordAU m d imm
    w.extractLsb' 26 6 = m ∧ w.extractLsb' 20 6 = d ∧ w.extractLsb' 0 20 = imm := by
  have h := wordAU_toNat m d imm
  have := d.isLt; have := imm.isLt; have := m.isLt
  refine ⟨?_, ?_, ?_⟩ <;> apply BitVec.eq_of_toNat_eq <;> rw [toNat_field, h] <;> omega

/-- The fields of an AJ word. -/
theorem wordAJ_fields (m : BitVec 6) (off : BitVec 26) : let w := wordAJ m off
    w.extractLsb' 26 6 = m ∧ w.extractLsb' 0 26 = off := by
  have h := wordAJ_toNat m off
  have := off.isLt; have := m.isLt
  refine ⟨?_, ?_⟩ <;> apply BitVec.eq_of_toNat_eq <;> rw [toNat_field, h] <;> omega

/-- The fields of an AB word. -/
theorem wordAB_fields (m : BitVec 6) (cc : BitVec 4) (a : BitVec 6) (off : BitVec 16) : let w := wordAB m cc a off
    w.extractLsb' 26 6 = m ∧ w.extractLsb' 22 4 = cc ∧ w.extractLsb' 16 6 = a ∧ w.extractLsb' 0 16 = off := by
  have h := wordAB_toNat m cc a off
  have := cc.isLt; have := a.isLt; have := off.isLt; have := m.isLt
  refine ⟨?_, ?_, ?_, ?_⟩ <;> apply BitVec.eq_of_toNat_eq <;> rw [toNat_field, h] <;> omega

/-- The fields of an AM word. -/
theorem wordAM_fields (m : BitVec 6) (ty : BitVec 4) (asp : BitVec 2) (nt : Bool) (aa : BitVec 5) (sb : BitVec 6)
    (off : BitVec 8) : let w := wordAM m ty asp nt aa sb off
      w.extractLsb' 26 6 = m ∧ w.extractLsb' 22 4 = ty ∧ w.extractLsb' 20 2 = asp ∧ w.getLsbD 19 = nt ∧ w.extractLsb' 14 5 = aa
        ∧ w.extractLsb' 8 6 = sb ∧ w.extractLsb' 0 8 = off := by
  have h := wordAM_toNat m ty asp nt aa sb off
  have := ty.isLt; have := asp.isLt; have := aa.isLt; have := sb.isLt; have := off.isLt; have := m.isLt
  have hb : nt.toNat ≤ 1 := Bool.toNat_le nt
  refine ⟨?_, ?_, ?_, ?_, ?_, ?_, ?_⟩
  case refine_4 =>
    rw [BitVec.getLsbD, Nat.testBit_eq_decide_div_mod_eq, h]
    cases nt <;> simp only [Bool.toNat_true, Bool.toNat_false, decide_eq_true_eq, decide_eq_false_iff_not] <;> omega
  all_goals (apply BitVec.eq_of_toNat_eq; rw [toNat_field, h]; omega)

/-! ### C-words and Odnar words (R260, R267) -/

theorem wordC_toNat (op : BitVec 8) (f : CFields) : (wordC op f).toNat =
    (((((((((((((((op.toNat * 2 ^ 4 + f.stall.toNat) * 2 ^ 3 + f.reuse.toNat) * 2 ^ 2 + f.msel.toNat) * 2 ^ 5 + f.mreg.toNat) * 2 ^ 8
      + f.d.toNat) * 2 ^ 2 + f.dk.toNat) * 2 ^ 8 + f.a.toNat) * 2 ^ 2 + f.ak.toNat) * 2 ^ 8 + f.b.toNat) * 2 ^ 2 + f.bk.toNat) * 2 ^ 8
      + f.c.toNat) * 2 ^ 2 + f.ck.toNat) * 2 ^ 4 + f.ty.toNat) * 2 ^ 2 + f.rnd.toNat) * 2 ^ 4 + f.mod.toNat) * 2 ^ 24 + f.imm.toNat := by
  show (op ++ f.stall ++ f.reuse ++ f.msel ++ f.mreg ++ f.d ++ f.dk ++ f.a ++ f.ak ++ f.b ++ f.bk ++ f.c ++ f.ck ++ f.ty
    ++ f.rnd ++ f.mod ++ f.imm).toNat = _
  simp only [toNat_append_eq]

/-- The fields of a C-word. -/
theorem wordC_fields (op : BitVec 8) (f : CFields) : (wordC op f).extractLsb' 88 8 = op ∧ cFields (wordC op f) = f := by
  have h := wordC_toNat op f
  have := op.isLt; have := f.stall.isLt; have := f.reuse.isLt; have := f.msel.isLt; have := f.mreg.isLt; have := f.d.isLt
  have := f.dk.isLt; have := f.a.isLt; have := f.ak.isLt; have := f.b.isLt; have := f.bk.isLt; have := f.c.isLt
  have := f.ck.isLt; have := f.ty.isLt; have := f.rnd.isLt; have := f.mod.isLt; have := f.imm.isLt
  have key : ∀ lo k (x : BitVec k), (wordC op f).toNat / 2 ^ lo % 2 ^ k = x.toNat → (wordC op f).extractLsb' lo k = x :=
    fun lo k x hx => BitVec.eq_of_toNat_eq (by rw [toNat_field, hx])
  refine ⟨key _ _ _ (by rw [h]; omega), ?_⟩
  rw [cFields, key 84 4 f.stall (by rw [h]; omega), key 81 3 f.reuse (by rw [h]; omega), key 79 2 f.msel (by rw [h]; omega),
    key 74 5 f.mreg (by rw [h]; omega), key 66 8 f.d (by rw [h]; omega), key 64 2 f.dk (by rw [h]; omega),
    key 56 8 f.a (by rw [h]; omega), key 54 2 f.ak (by rw [h]; omega), key 46 8 f.b (by rw [h]; omega),
    key 44 2 f.bk (by rw [h]; omega), key 36 8 f.c (by rw [h]; omega), key 34 2 f.ck (by rw [h]; omega),
    key 30 4 f.ty (by rw [h]; omega), key 28 2 f.rnd (by rw [h]; omega), key 24 4 f.mod (by rw [h]; omega),
    key 0 24 f.imm (by rw [h]; omega)]

theorem wordO_toNat (op : BitVec 8) (x : OFields) : (wordO op x).toNat =
    ((((op.toNat * 2 ^ 4 + x.d.toNat) * 2 ^ 4 + x.a.toNat) * 2 ^ 4 + x.b.toNat) * 2 ^ 4 + x.f.toNat) * 2 ^ 40 + x.imm.toNat := by
  show (op ++ x.d ++ x.a ++ x.b ++ x.f ++ x.imm).toNat = _
  simp only [toNat_append_eq]

/-- The fields of an Odnar word. -/
theorem wordO_fields (op : BitVec 8) (x : OFields) : (wordO op x).extractLsb' 56 8 = op ∧ oFields (wordO op x) = x := by
  have h := wordO_toNat op x
  have := op.isLt; have := x.d.isLt; have := x.a.isLt; have := x.b.isLt; have := x.f.isLt; have := x.imm.isLt
  have key : ∀ lo k (y : BitVec k), (wordO op x).toNat / 2 ^ lo % 2 ^ k = y.toNat → (wordO op x).extractLsb' lo k = y :=
    fun lo k y hy => BitVec.eq_of_toNat_eq (by rw [toNat_field, hy])
  refine ⟨key _ _ _ (by rw [h]; omega), ?_⟩
  rw [oFields, key 52 4 x.d (by rw [h]; omega), key 48 4 x.a (by rw [h]; omega), key 44 4 x.b (by rw [h]; omega),
    key 40 4 x.f (by rw [h]; omega), key 0 40 x.imm (by rw [h]; omega)]

/-! ### Bytes (R6, R252) -/

theorem natToBytes_length (n v : Nat) : (natToBytes n v).length = n := by
  induction n generalizing v with
  | zero => rfl
  | succ n ih => simp [natToBytes, ih]

/-- The bytes of a value give its low bits back. -/
theorem bytesToNat_natToBytes (n v : Nat) : bytesToNat (natToBytes n v) = v % 2 ^ (8 * n) := by
  induction n generalizing v with
  | zero => simp [natToBytes, bytesToNat, Nat.mod_one]
  | succ n ih =>
    have e : 2 ^ (8 * (n + 1)) = 256 * 2 ^ (8 * n) := by rw [Nat.mul_add, Nat.pow_add]; omega
    simp only [natToBytes, bytesToNat, ih, BitVec.toNat_ofNat]
    rw [e, Nat.mod_mul]

theorem take_natToBytes_append (n v : Nat) (rest : List Byte) : (natToBytes n v ++ rest).take n = natToBytes n v := by
  rw [List.take_append_of_le_length (by rw [natToBytes_length]), List.take_of_length_le (by rw [natToBytes_length])]

theorem drop_natToBytes_append (n v : Nat) (rest : List Byte) : (natToBytes n v ++ rest).drop n = rest := by
  rw [List.drop_append_of_le_length (by rw [natToBytes_length]), List.drop_of_length_le (by rw [natToBytes_length]), List.nil_append]

end Sys2Proof
end

