-- ==== Sys2Proof/Laws/Issue.lean ====
section
/-! SUPPORT. What issuing an instruction comes to: its own body when nothing takes its place, and otherwise the one thing
that does. -/

namespace Sys2Proof.Machine

open Sys2Proof

/-! ### The A-stream (R38, R65, R268) -/

/-- An A-instruction that issues is its own body. -/
theorem issueA_of {i : Instr} {s : State} {gid : Nat} {g : Group} {k : Kernel} (h : IssuesA i s gid g k)
    (body : Nat → Group → State → State) : issueA i s body = .next (body gid g s) := by
  obtain ⟨⟨h1, h2, h3⟩, h4, h5, h6, h7, h8⟩ := h
  have h9 : (if inHandler g then [] else g.afaults) = [] := by rcases h5 with h | h <;> simp [h]
  have h10 : (isBlocking i && !followsSp g) = false := by cases hb : isBlocking i <;> simp_all
  simp [issueA, h1, h2, h3, issueCore, h4, h9, h6, h7, h10]

theorem issueReg_of {i : Instr} {s : State} {gid : Nat} {g : Group} {k : Kernel} (h : IssuesA i s gid g k)
    (f : Group → Group) : issueReg i s f = .next (setGrp s gid (f g)) := issueA_of h _

theorem issueVec_of {i : Instr} {s : State} {gid : Nat} {g : Group} {k : Kernel} (h : IssuesA i s gid g k)
    (hf : (aNames i).any (fillPending s gid) = false) (f : Group → Group) : issueVec i s f = .next (setGrp s gid (f g)) := by
  rw [issueVec, issueA_of h, hf]
  rfl

/-- For a group that executes, an A-instruction is the shared issue. -/
theorem issueA_acts {i : Instr} {s : State} {gid : Nat} {g : Group} {k : Kernel} (h : Acts s gid g k)
    (body : Nat → Group → State → State) : issueA i s body = .next (issueCore i gid g k s body) := by
  obtain ⟨h1, h2, h3⟩ := h
  simp [issueA, h1, h2, h3]

/-- Everything the shared issue can do. -/
theorem issueCore_cases (i : Instr) (gid : Nat) (g : Group) (k : Kernel) (s : State) (body : Nat → Group → State → State) :
    (canIssue g = false ∧ issueCore i gid g k s body = s) ∨
    (∃ f h rest, inHandler g = false ∧ g.afaults = (f, h) :: rest ∧
      issueCore i gid g k s body = takeFault (setGrp s gid { g with afaults := rest, held := h }) gid f) ∨
    (∃ f, fate k g i = some f ∧ issueCore i gid g k s body = takeFault s gid f) ∨
    (spdistDue k g i = true ∧ issueCore i gid g k s body = takeFault s gid (faultAt g 0x0B 0)) ∨
    (isBlocking i = true ∧ followsSp g = false ∧ issueCore i gid g k s body = takeFault s gid (illegal g i)) ∨
    (canIssue g = true ∧ fate k g i = none ∧ spdistDue k g i = false ∧ issueCore i gid g k s body = body gid g s) := by
  unfold issueCore
  split
  · next h => exact .inl ⟨by simpa using h, rfl⟩
  · next h =>
    have hc : canIssue g = true := by simpa using h
    split
    · next f b rest e =>
      cases hh : inHandler g
      · exact .inr (.inl ⟨f, b, rest, rfl, by simpa [hh] using e, rfl⟩)
      · simp [hh] at e
    · split
      · next f e => exact .inr (.inr (.inl ⟨f, e, rfl⟩))
      · next e =>
        split
        · next d => exact .inr (.inr (.inr (.inl ⟨d, rfl⟩)))
        · next d =>
          split
          · next b => exact .inr (.inr (.inr (.inr (.inl (by simpa using b)))))
          · exact .inr (.inr (.inr (.inr (.inr ⟨hc, e, by simpa using d, rfl⟩))))

/-! ### The C-stream (R264, R268, R306) -/

/-- A C-instruction that issues is its own body. -/
theorem issueCS_of {i : Instr} {s : State} {gid : Nat} {g : Group} {k : Kernel} {p : CPos} (h : IssuesC i s gid g k p)
    (body : CEnv → Nat → Group → State → State) : issueCS i s body = .next (body (cEnv k g i) gid g s) := by
  obtain ⟨⟨h1, h2, h3⟩, h4, h5, h6, h7⟩ := h
  simp [issueCS, h1, h2, h3, h4, issueCore96, h5, h6, h7]

theorem issueC_of {i : Instr} {s : State} {gid : Nat} {g : Group} {k : Kernel} {p : CPos} (h : IssuesC i s gid g k p)
    (f : CEnv → Group → Group) :
    issueC i s f = .next (cNext s gid (cEnv k g i) (f (cEnv k g i) (popLq (cEnv k g i) g))) := issueCS_of h _

/-- Everything the shared issue of the C-stream can do. -/
theorem issueCore96_cases (i : Instr) (gid : Nat) (g : Group) (k : Kernel) (p : CPos) (s : State)
    (body : CEnv → Nat → Group → State → State) :
    (canIssueC g = false ∧ issueCore96 i gid g k p s body = s) ∨
    (cIllegal k p i = false ∧ cWaits g i (cEnv k g i) = true ∧ issueCore96 i gid g k p s body = s) ∨
    (∃ f, cFate k g p i (cEnv k g i) = some f ∧ issueCore96 i gid g k p s body = takeFault s gid f) ∨
    (canIssueC g = true ∧ cFate k g p i (cEnv k g i) = none ∧ issueCore96 i gid g k p s body = body (cEnv k g i) gid g s) := by
  unfold issueCore96
  cases h1 : canIssueC g
  · simp
  · cases h2 : cIllegal k p i <;> cases h3 : cWaits g i (cEnv k g i) <;> cases h4 : cFate k g p i (cEnv k g i) <;>
      simp [h3, h4]

/-! ### Odnar (R380, R386) -/

/-- An Odnar instruction of a running instance is its own body. -/
theorem issueO_of {s : State} {n : Nat} {x : Inst} {p : Plan} (h : RunsO s n x p)
    (body : Nat → Inst → Plan → State → State) : issueO s body = .next (body n x p s) := by
  obtain ⟨h1, h2, h3, h4, h5⟩ := h
  have hr : registered s n x p = s := by simp [registered, h5]
  simp [issueO, h1, h2, h3, h4, hr, h5]

theorem issueInst_of {s : State} {n : Nat} {x : Inst} {p : Plan} (h : RunsO s n x p) (f : State → Plan → Inst → Inst) :
    issueInst s f = .next (modInst s n fun x => f s p x) := issueO_of h _

/-- A data instruction that begins is its run in the state in which the datapath has taken it. -/
theorem chunkStep_of {s : State} {d n : Nat} {x : Inst} {p : Plan} {i : Instr} (h : StepBegins s d n x p i)
    (run : Nat → Inst → Plan → State → State) : chunkStep i run s = .next (run n x p (stepBegun s d n x p i)) := by
  obtain ⟨h1, h2, h3, h4⟩ := h
  simp [chunkStep, issueO_of h1, h2, h3, h4, beginStep, stepBegun]

/-! ### Retirement -/

variable (g : Group) (pc : Word)

@[simp] theorem retire_pc : (retire g pc).pc = pc := rfl
@[simp] theorem retire_s : (retire g pc).s = g.s := rfl
@[simp] theorem retire_a : (retire g pc).a = g.a := rfl
@[simp] theorem retire_v : (retire g pc).v = g.v := rfl
@[simp] theorem retire_k : (retire g pc).k = g.k := rfl
@[simp] theorem retire_x : (retire g pc).x = g.x := rfl
@[simp] theorem retire_h : (retire g pc).h = g.h := rfl
@[simp] theorem retire_em : (retire g pc).em = g.em := rfl
@[simp] theorem retire_present : (retire g pc).present = g.present := rfl
@[simp] theorem retire_lq : (retire g pc).lq = g.lq := rfl
@[simp] theorem retire_st : (retire g pc).st = g.st := rfl
@[simp] theorem retire_retired : (retire g pc).retired = g.retired + 1 := rfl
@[simp] theorem retire_lastSp : (retire g pc).lastSp = g.lastSp := rfl
@[simp] theorem advance_pc : (advance g).pc = g.pc + 4 := rfl
@[simp] theorem jump_pc : (jump g pc).pc = pc := by unfold jump clearSp; split <;> rfl

/-! ### Groups that are set twice -/

@[simp] theorem setGrp_setGrp (s : State) (gid : Nat) (x y : Group) : setGrp (setGrp s gid x) gid y = setGrp s gid y := by
  simp [setGrp, SMap.put_put]

theorem modGrp_eq_setGrp {s : State} {gid : Nat} {g : Group} (h : grp? s gid = some g) (f : Group → Group) :
    modGrp s gid f = setGrp s gid (f g) := by
  simp only [grp?] at h
  simp [modGrp, setGrp, SMap.modify, h]

end Sys2Proof.Machine
end

