-- ==== Sys2Proof/Laws/Reads.lean ====
section
/-! SUPPORT. What a home reads as after a write: the bytes written, and everywhere else what it read as before. -/

namespace Sys2Proof.Machine

open Sys2Proof

variable (s : State)

theorem cell_setCell (pa a : Nat) (b : Byte) : cell (setCell s pa b) a = if a = pa then b else cell s a := SMap.get_set _ _ _ _ _

theorem cell_setCells (pa a : Nat) (bs : List Byte) :
    cell (setCells s pa bs) a = if pa ≤ a ∧ a < pa + bs.length then bs.getD (a - pa) 0 else cell s a := by
  induction bs generalizing s pa with
  | nil => simp only [setCells, List.length_nil]; rw [if_neg (by omega)]
  | cons b bs ih =>
    rw [setCells, ih, cell_setCell]
    simp only [List.length_cons]
    by_cases h : a = pa
    · subst h; simp
    · by_cases h1 : pa + 1 ≤ a ∧ a < pa + 1 + bs.length
      · rw [if_pos h1, if_pos (by omega), show a - pa = (a - (pa + 1)) + 1 by omega]; simp
      · rw [if_neg h1, if_neg h, if_neg (by omega)]

@[simp] theorem lineKey_setCells (pa : Nat) (bs : List Byte) : (setCells s pa bs).lineKey = s.lineKey := by
  induction bs generalizing s pa with
  | nil => rfl
  | cons b bs ih => exact ih _ _

@[simp] theorem keys_setCells (pa : Nat) (bs : List Byte) : (setCells s pa bs).keys = s.keys := by
  induction bs generalizing s pa with
  | nil => rfl
  | cons b bs ih => exact ih _ _

/-- A byte of a value. -/
theorem getD_natToBytes (n v i : Nat) (h : i < n) : (natToBytes n v).getD i 0 = BitVec.ofNat 8 (v / 2 ^ (8 * i)) := by
  induction n generalizing v i with
  | zero => omega
  | succ n ih =>
    cases i with
    | zero => simp [natToBytes]
    | succ i =>
      rw [natToBytes, List.getD_cons_succ, ih _ _ (by omega), Nat.div_div_eq_div_mul,
        show 8 * (i + 1) = 8 + 8 * i by omega, Nat.pow_add]

theorem rawLine_setCells (line pa : Nat) (bs : List Byte) (h : 128 * line + 128 ≤ pa ∨ pa + bs.length ≤ 128 * line) :
    rawLine (setCells s pa bs) line = rawLine s line := by
  unfold rawLine
  congr 2
  refine List.map_congr_left fun i hi => ?_
  rw [List.mem_range] at hi
  rw [cell_setCells, if_neg (by omega)]

/-- A line's image depends on its bytes, its slot and the keys. -/
theorem lineImage_congr {s t : State} (slot line : Nat) (h1 : lineSlot t (128 * line) = lineSlot s (128 * line))
    (h2 : rawLine t line = rawLine s line) (h3 : t.keys = s.keys) : lineImage t slot line = lineImage s slot line := by
  simp only [lineImage, h1, h2, reKey, keyOf, h3]

/-- Bringing a line under a slot changes nothing that is read under it (R160). -/
theorem memByte_claimLine (slot pa a : Nat) : memByte (claimLine s slot pa) slot a = memByte s slot a := by
  unfold claimLine
  split
  · next h =>
    obtain ⟨hh, hs⟩ := h
    by_cases hl : a / 128 = pa / 128
    · have ha : isHbm a = true := by
        simp only [isHbm, decide_eq_true_eq] at hh ⊢; omega
      have hs' : lineSlot s a ≠ slot := by
        simp only [lineSlot, ha, hh, if_true, hl] at hs ⊢; exact hs
      have e : lineSlot { setCells s (128 * (pa / 128)) (natToBytes 128 (lineImage s slot (pa / 128)).toNat) with
          lineKey := SMap.set (setCells s (128 * (pa / 128)) (natToBytes 128 (lineImage s slot (pa / 128)).toNat)).lineKey 0
            (pa / 128) slot } a = slot := by simp [lineSlot, ha, hl]
      simp only [memByte, ha, e, ne_eq, not_true_eq_false, and_false, if_false, hs', not_false_eq_true, and_self, if_true]
      show cell (setCells s (128 * (pa / 128)) (natToBytes 128 (lineImage s slot (pa / 128)).toNat)) a = _
      rw [cell_setCells, if_pos (by rw [natToBytes_length]; omega), getD_natToBytes _ _ _ (by omega),
        show a - 128 * (pa / 128) = a % 128 by omega, hl]
      apply BitVec.eq_of_toNat_eq
      simp [BitVec.extractLsb'_toNat, Nat.shiftRight_eq_div_pow]
    · have e1 : ∀ b, b / 128 = a / 128 → lineSlot { setCells s (128 * (pa / 128)) (natToBytes 128 (lineImage s slot (pa / 128)).toNat) with
          lineKey := SMap.set (setCells s (128 * (pa / 128)) (natToBytes 128 (lineImage s slot (pa / 128)).toNat)).lineKey 0
            (pa / 128) slot } b = lineSlot s b := by
        intro b hb
        simp only [lineSlot, lineKey_setCells]
        rw [SMap.get_set_other _ _ _ (by omega)]
      have e2 : lineImage { setCells s (128 * (pa / 128)) (natToBytes 128 (lineImage s slot (pa / 128)).toNat) with
          lineKey := SMap.set (setCells s (128 * (pa / 128)) (natToBytes 128 (lineImage s slot (pa / 128)).toNat)).lineKey 0
            (pa / 128) slot } slot (a / 128) = lineImage s slot (a / 128) :=
        lineImage_congr _ _ (e1 _ (by omega))
          (rawLine_setCells s _ _ _ (by rw [natToBytes_length]; omega)) (keys_setCells _ _ _)
      simp only [memByte, e1 a rfl, e2]
      split
      · rfl
      · show cell (setCells _ _ _) a = _
        rw [cell_setCells, if_neg (by rw [natToBytes_length]; omega)]
  · rfl

/-- After a claim the line is held under the slot. -/
theorem lineSlot_claimLine (slot pa : Nat) (h : isHbm pa = true) : lineSlot (claimLine s slot pa) pa = slot := by
  unfold claimLine
  split
  · simp [lineSlot, h]
  · next hn => simpa [h] using hn

/-- A cell written through its slot. -/
theorem memByte_setCell (slot pa a : Nat) (b : Byte) (h : isHbm pa = true → lineSlot s pa = slot) :
    memByte (setCell s pa b) slot a = if a = pa then b else memByte s slot a := by
  have hk : ∀ c, lineSlot (setCell s pa b) c = lineSlot s c := fun c => rfl
  by_cases ha : isHbm a = true ∧ lineSlot s a ≠ slot
  · have hne : a ≠ pa := fun e => ha.2 (e ▸ h (e ▸ ha.1))
    have hl : a / 128 ≠ pa / 128 := by
      intro hl
      have hp : isHbm pa = true := by
        have := ha.1
        simp only [isHbm, decide_eq_true_eq] at this ⊢; omega
      have := h hp
      simp only [lineSlot, ha.1, hp, if_true, hl] at this ha
      exact ha.2 this
    have hi : lineImage (setCell s pa b) slot (a / 128) = lineImage s slot (a / 128) := by
      refine lineImage_congr _ _ (hk _) ?_ rfl
      exact rawLine_setCells s (a / 128) pa [b] (by simp only [List.length_cons, List.length_nil]; omega)
    simp only [memByte, hk, hi]
    rw [if_pos ha, if_neg hne, if_pos ha]
  · simp only [memByte, hk]
    rw [if_neg ha, if_neg ha, cell_setCell]

/-- A read after a write through the same slot: the bytes written, and elsewhere what was read before. -/
theorem memByte_memWrite (slot pa a : Nat) (bs : List Byte) :
    memByte (memWrite s slot pa bs) slot a = if pa ≤ a ∧ a < pa + bs.length then bs.getD (a - pa) 0 else memByte s slot a := by
  induction bs generalizing s pa with
  | nil => simp only [memWrite, List.length_nil]; rw [if_neg (by omega)]
  | cons b bs ih =>
    rw [memWrite, ih, memByte_setCell _ _ _ _ _ (lineSlot_claimLine _ _ _), memByte_claimLine]
    simp only [List.length_cons]
    by_cases h : a = pa
    · subst h; simp
    · by_cases h1 : pa + 1 ≤ a ∧ a < pa + 1 + bs.length
      · rw [if_pos h1, if_pos (by omega), show a - pa = (a - (pa + 1)) + 1 by omega]; simp
      · rw [if_neg h1, if_neg h, if_neg (by omega)]

theorem memByte_hitMonitors (slot pa n a : Nat) : memByte (hitMonitors s pa n) slot a = memByte s slot a := rfl

theorem memByte_homeWrite (slot pa a : Nat) (bs : List Byte) :
    memByte (homeWrite s slot pa bs) slot a = if pa ≤ a ∧ a < pa + bs.length then bs.getD (a - pa) 0 else memByte s slot a := by
  cases bs with
  | nil => simp only [homeWrite, List.isEmpty_nil, if_true, List.length_nil]; rw [if_neg (by omega)]
  | cons b bs => exact memByte_memWrite s slot pa a (b :: bs)

/-- A value written is the value read (R13). -/
theorem memNat_memPut (slot pa n v : Nat) : memNat (memPut s slot pa n v) slot pa n = v % 2 ^ (8 * n) := by
  rw [← bytesToNat_natToBytes]
  unfold memNat memBytes
  congr 1
  refine List.ext_getElem (by simp [natToBytes_length]) fun i h1 h2 => ?_
  simp only [List.length_map, List.length_range] at h1
  simp only [List.getElem_map, List.getElem_range]
  rw [memPut, memByte_homeWrite, if_pos (by rw [natToBytes_length]; omega), show pa + i - pa = i by omega,
    List.getD_eq_getElem _ _ h2]

/-- A read of the scratchpad after a write to it. -/
theorem scratch_scratchWrite (c off a : Nat) (bs : List Byte) : SMap.get (coreOf (scratchWrite s c off bs) c).scratch 0 a =
    if off ≤ a ∧ a < off + bs.length then bs.getD (a - off) 0 else SMap.get (coreOf s c).scratch 0 a := by
  induction bs generalizing s off with
  | nil => simp only [scratchWrite, List.length_nil]; rw [if_neg (by omega)]
  | cons b bs ih =>
    have e : (coreOf (modCore s c fun k => { k with scratch := SMap.set k.scratch 0 off b }) c).scratch =
        SMap.set (coreOf s c).scratch 0 off b := by simp [coreOf, modCore, setCore]
    rw [scratchWrite, ih, e, SMap.get_set]
    simp only [List.length_cons]
    by_cases h : a = off
    · subst h; simp
    · by_cases h1 : off + 1 ≤ a ∧ a < off + 1 + bs.length
      · rw [if_pos h1, if_pos (by omega), show a - off = (a - (off + 1)) + 1 by omega]; simp
      · rw [if_neg h1, if_neg h, if_neg (by omega)]

end Sys2Proof.Machine
end

