-- ==== Sys2Proof/Tests/Slice0.lean ====
section
/-! SUPPORT. The model's own tests: words written out from the spec's layouts, an ill-formed word for each check, a state and
operands that meet the hypotheses of each statement, and small steps. -/

open Sys2Proof Sys2Proof.Machine

namespace Sys2Proof.Tests

set_option maxRecDepth 20000
set_option Elab.async false

/-! ### Every instruction word, from the layouts of R254, R260 and R267 and the maps of R257, R266 and R267 -/

/-- An AR word by its fields (R254): major, d, a, b, fn. -/
def arWord (m d a b fn : Nat) : Nat := m * 2 ^ 26 + d * 2 ^ 20 + a * 2 ^ 14 + b * 2 ^ 8 + fn

/-- An AI word (R254): major, d, a, imm. -/
def aiWord (m d a imm : Nat) : Nat := m * 2 ^ 26 + d * 2 ^ 20 + a * 2 ^ 14 + imm

/-- An AM word (R254): major, ty, asp, nt, aa, sb, off. -/
def amWord (m ty asp nt aa sb off : Nat) : Nat :=
  m * 2 ^ 26 + ty * 2 ^ 22 + asp * 2 ^ 20 + nt * 2 ^ 19 + aa * 2 ^ 14 + sb * 2 ^ 8 + off

/-- The decoder reads each word as its instruction. -/
def reads (n : Nat) (xs : List (Nat × Instr)) : Bool := xs.all fun x => decodeTableWord n x.1 == some x.2

-- Major 0x00 (R257): fn in bits 6:0, .w in bit 7.
theorem test_words_arith : reads 32 [(arWord 0 33 18 7 0, .add 33 18 7 false), (arWord 0 33 18 7 129, .sub 33 18 7 true),
    (arWord 0 33 18 7 2, .mul 33 18 7 false), (arWord 0 33 18 7 131, .mulh 33 18 7 true), (arWord 0 33 18 7 4, .mulhn 33 18 7 false),
    (arWord 0 33 18 7 133, .div 33 18 7 true), (arWord 0 33 18 7 6, .divn 33 18 7 false), (arWord 0 33 18 7 135, .rem 33 18 7 true),
    (arWord 0 33 18 7 8, .remn 33 18 7 false), (arWord 0 33 18 7 137, .and_ 33 18 7 true), (arWord 0 33 18 7 10, .or_ 33 18 7 false),
    (arWord 0 33 18 7 139, .xor 33 18 7 true), (arWord 0 33 18 7 12, .andn 33 18 7 false), (arWord 0 33 18 7 141, .shl 33 18 7 true),
    (arWord 0 33 18 7 14, .shr 33 18 7 false), (arWord 0 33 18 7 143, .sar 33 18 7 true), (arWord 0 33 18 7 16, .rol 33 18 7 false),
    (arWord 0 33 18 7 145, .min 33 18 7 true), (arWord 0 33 18 7 18, .max 33 18 7 false), (arWord 0 33 18 7 147, .minn 33 18 7 true),
    (arWord 0 33 18 7 20, .maxn 33 18 7 false), (arWord 0 33 18 7 149, .slt 33 18 7 true), (arWord 0 33 18 7 22, .sltn 33 18 7 false),
    (arWord 0 33 18 7 151, .seq 33 18 7 true), (arWord 0 33 18 0 24, .popc 33 18 false), (arWord 0 33 18 0 153, .clz 33 18 true),
    (arWord 0 33 18 0 26, .ctz 33 18 false), (arWord 0 33 18 0 155, .brev 33 18 true)] = true := by decide

-- Majors 0x01 to 0x0B (R257), masks and address vectors (majors 0x0C and 0x0D).
theorem test_words_immediate : reads 32 [(aiWord 1 33 18 0x2345, .addi 33 18 0x2345), (aiWord 2 33 18 0x2345, .andi 33 18 0x2345),
    (aiWord 3 33 18 0x2345, .ori 33 18 0x2345), (aiWord 4 33 18 0x2345, .xori 33 18 0x2345), (aiWord 5 33 18 41, .shli 33 18 41),
    (aiWord 6 33 18 41, .shri 33 18 41), (aiWord 7 33 18 41, .sari 33 18 41), (aiWord 8 33 18 0x2345, .slti 33 18 0x2345),
    (aiWord 9 33 18 0x2345, .seqi 33 18 0x2345), (10 * 2 ^ 26 + 33 * 2 ^ 20 + 0x8765C, .lui 33 0x8765C),
    (11 * 2 ^ 26 + 33 * 2 ^ 20 + 0x8765C, .auipc 33 0x8765C)] = true := by decide

theorem test_words_vector : reads 32 [(arWord 12 0 18 0 0, .emset 18), (arWord 12 33 0 0 1, .emget 33), (arWord 12 0 18 0 2, .emand 18),
    (arWord 12 0 18 0 3, .emandn 18), (arWord 12 0 18 0 4, .emor 18), (arWord 13 21 18 7 0, .vaadd 21 18 7),
    (arWord 13 21 18 47 1, .vaadds 21 18 47), (arWord 13 21 18 7 2, .vasub 21 18 7), (arWord 13 21 18 47 3, .vamuls 21 18 47),
    (arWord 13 21 18 47 4, .vamads 21 18 47), (arWord 13 21 18 47 5, .vashls 21 18 47), (arWord 13 21 18 47 6, .vashrs 21 18 47),
    (arWord 13 21 18 47 7, .vaands 21 18 47), (arWord 13 21 50 47 8, .vaiota 21 50 47), (arWord 13 21 50 0 9, .vamovs 21 50),
    (arWord 13 53 18 47 10, .vaext 53 18 47), (arWord 13 21 50 47 11, .vains 21 50 47), (arWord 13 53 18 7 12, .valtm 53 18 7),
    (arWord 13 53 18 7 13, .vaeqm 53 18 7)] = true := by decide

-- Control flow, dispatch and the crossing queue (majors 0x10 to 0x1A).
theorem test_words_control : reads 32 [(16 * 2 ^ 26 + 0x2345678, .j 0x2345678), (17 * 2 ^ 26 + 0x2345678, .call 0x2345678),
    (arWord 18 0 18 0 0, .jr 18), (arWord 18 0 18 0 1, .callr 18), (19 * 2 ^ 26 + 7 * 2 ^ 22 + 18 * 2 ^ 16 + 0x9ABC, .bcc 7 18 0x9ABC),
    (20 * 2 ^ 26 + 5 * 2 ^ 22 + 0x9ABC, .bxq 5 0x9ABC), (21 * 2 ^ 26 + 2 * 2 ^ 24 + 18 * 2 ^ 16 + 0x9ABC, .brs 2 18 0x9ABC),
    (22 * 2 ^ 26 + 21 * 2 ^ 21 + 50 * 2 ^ 15 + 35 * 2 ^ 9, .brx 21 50 35), (arWord 23 0 0 0 0, .join), (arWord 23 0 0 0 1, .ends),
    (24 * 2 ^ 26 + 18 * 2 ^ 16 + 0x9ABC, .loopd 18 0x9ABC), (25 * 2 ^ 26 + 0x2345678, .disp 0x2345678), (arWord 26 21 50 0 0, .kput 21 50),
    (arWord 26 33 0 0 1, .xpop 33), (arWord 26 33 0 0 2, .xpeek 33)] = true := by decide

-- Memory (majors 0x1C to 0x25).
theorem test_words_memory : reads 32 [(amWord 28 4 2 1 21 35 0x9C, .ld 4 2 true 21 35 0x9C), (amWord 29 5 1 0 21 35 (13 * 8), .lda 5 1 false 21 35 13),
    (aiWord 30 33 18 0x2345, .lds 33 18 0x2345), (aiWord 31 33 18 0x2345, .ldsw 33 18 0x2345), (amWord 32 6 1 1 21 35 0x9C, .st 6 1 true 21 35 0x9C),
    (aiWord 33 33 18 0x2345, .sts 33 18 0x2345), (amWord 34 9 0 1 21 35 0, .ldf 9 true 21 35),
    (35 * 2 ^ 26 + 9 * 2 ^ 22 + 2 * 2 ^ 20 + 5 * 2 ^ 17 + 21 * 2 ^ 12 + 35 * 2 ^ 6 + 1 * 2 ^ 3 + 4, .atom 9 2 5 21 35 1 true),
    (36 * 2 ^ 26 + 9 * 2 ^ 22 + 5 * 2 ^ 19 + 33 * 2 ^ 13 + 18 * 2 ^ 7 + 47 * 2, .atoms 9 5 33 18 47),
    (amWord 37 3 2 0 21 35 0x9C, .pref 3 2 false 21 35 0x9C)] = true := by decide

-- Engines, barriers, order and queues (majors 0x28 to 0x2B).
theorem test_words_sync : reads 32 [(arWord 40 33 16 0 0, .cpy 33 16), (arWord 40 33 16 0 1, .cpysp 33 16), (arWord 40 33 16 0 2, .gath 33 16),
    (arWord 40 33 16 0 3, .scat 33 16), (arWord 40 33 16 0 4, .spillb 33 16), (arWord 40 33 16 0 5, .filla 33 16),
    (arWord 41 0 18 47 0x20, .binit 2 18 47), (arWord 41 33 18 47 0x51, .barrive true 1 33 18 47), (arWord 41 0 18 47 0x22, .bexpect 2 18 47),
    (arWord 41 0 18 47 0x13, .bwait 1 18 47), (arWord 41 33 18 47 0x24, .btest 2 33 18 47), (arWord 41 33 18 47 0x15, .bstat 1 33 18 47),
    (42 * 2 ^ 26 + 2 * 2 ^ 12 + 5 * 2 ^ 8, .fence 2 5), (arWord 42 0 0 0 1, .drainnt), (arWord 42 0 18 0 2, .mon 18), (arWord 42 0 0 0 3, .mwait),
    (arWord 43 33 18 48 0, .enq 33 18 48), (arWord 43 40 18 0 1, .deq 40 18), (arWord 43 33 18 47 2, .gstart 33 18 47),
    (arWord 43 33 18 47 3, .gsig 33 18 47)] = true := by decide

-- Safe points, system and handler instructions (majors 0x30, 0x31, 0x38).
theorem test_words_system : reads 32 [(48 * 2 ^ 26 + 0x9ABC * 2 ^ 10, .sp 0x9ABC), (arWord 49 0 0 0 0, .yield), (arWord 49 0 18 0 1, .trap 18),
    (arWord 49 0 0 0 2, .brk), (arWord 49 33 0 11 3, .csrr 33 11), (arWord 49 0 18 12 4, .csrw 18 12), (arWord 49 0 0 0 5, .tstop),
    (arWord 56 0 0 0 0, .fret), (arWord 56 0 0 1 0, .fretSkip), (arWord 56 33 0 0 1, .fmap 33), (arWord 56 0 18 47 2, .femu 18 47),
    (arWord 56 0 0 0 3, .fskip), (arWord 56 0 18 47 4, .fpark 18 47), (arWord 56 33 18 47 5, .hcall 33 18 47),
    (arWord 56 33 18 0 6, .rdfi 33 18)] = true := by decide

/-- A C-word by its opcode, every field of R260 at a value of its own, and imm24. -/
def cTestWord (op imm : Nat) : Nat :=
  op * 2 ^ 88 + 9 * 2 ^ 84 + 5 * 2 ^ 81 + 2 * 2 ^ 79 + 19 * 2 ^ 74 + 0xA1 * 2 ^ 66 + 1 * 2 ^ 64 + 0x5C * 2 ^ 56 + 2 * 2 ^ 54
    + 0x37 * 2 ^ 46 + 3 * 2 ^ 44 + 0x1E * 2 ^ 36 + 1 * 2 ^ 34 + 11 * 2 ^ 30 + 2 * 2 ^ 28 + 6 * 2 ^ 24 + imm

/-- The same fields. -/
def cTestFields (imm : BitVec 24) : CFields where
  stall := 9
  reuse := 5
  msel := 2
  mreg := 19
  d := 0xA1
  dk := 1
  a := 0x5C
  ak := 2
  b := 0x37
  bk := 3
  c := 0x1E
  ck := 1
  ty := 11
  rnd := 2
  mod := 6
  imm := imm

/-- Consecutive opcodes from `op` on decode as the constructors in order (R266). -/
def readsC : Nat → List (CFields → Instr) → Bool
  | _, [] => true
  | op, i :: is => (decodeTableWord 96 (cTestWord op 0x23450C) == some (i (cTestFields 0x23450C))) && readsC (op + 1) is

theorem test_words_lane : (readsC 0x00 [.nop, .end_] && readsC 0x08 [.vadd, .vsub, .vmul, .vmulh, .vmad, .vand, .vor, .vxor, .vshl, .vshr,
    .vsar, .vmin, .vmax, .vabs, .vclz, .vpopc, .vbrev, .vbfe, .vbfi, .vsel, .vicmp]
  && readsC 0x20 [.vfadd, .vfsub, .vfmul, .vfma, .vfmin, .vfmax, .vfrcp, .vfrsq, .vfsqrt, .vfexp2, .vflog2, .vfclass, .vfcmp, .vcvt]) = true := by decide

theorem test_words_cross : (readsC 0x40 [.vqswp, .vshfl, .vbcast, .vballot, .vprefix, .vred, .vtopk, .vqred] && readsC 0x50 [.kop, .kfromv, .vfromk]
  && readsC 0x58 [.vmov, .xbound, .xset] && readsC 0x60 [.emnarrow, .emrestore, .nif, .nelse, .nend, .nbreak] && readsC 0x70 [.vpack, .vunpk, .vscale]
  && readsC 0x78 [.region] && readsC 0x80 [.mma, .mzero, .mload, .mstore, .mdrain, .mbf, .mbw, .mbind]) = true := by decide

-- An MDRAIN of format 15 is the window drain (R342, R344).
theorem test_words_drain : decodeTableWord 96 (cTestWord 0x84 0x23450F) = some (.mdrainWindow (cTestFields 0x23450F)) := by decide

/-- An Odnar word: op, f, and every other field of R267 at a value of its own. -/
def readsO (xs : List (Nat × Nat × (OFields → Instr))) : Bool := xs.all fun x =>
  decodeTableWord 64 (x.1 * 2 ^ 56 + 13 * 2 ^ 52 + 10 * 2 ^ 48 + 6 * 2 ^ 44 + x.2.1 * 2 ^ 40 + 0x8123456789)
    == some (x.2.2 { d := 13, a := 10, b := 6, f := BitVec.ofNat 4 x.2.1, imm := 0x8123456789 })

theorem test_words_odnar : readsO [(0, 0, .odnarNop), (1, 5, .setg), (2, 7, .addg), (3, 4, .peer), (4, 2, .chunk), (5, 0, .sendAcc), (5, 1, .sendOwn),
    (5, 2, .sendMem), (6, 0, .recvAcc), (6, 1, .recvDest), (7, 0, .rrs), (8, 0, .copyOwn), (8, 1, .copyDest), (8, 2, .copyLoad), (8, 3, .copyStore),
    (9, 0, .match_), (10, 0, .combine), (11, 1, .forward), (12, 0, .scalex), (13, 0, .waitWin), (13, 1, .waitSig), (13, 2, .waitTime),
    (13, 3, .waitBar), (14, 0, .signal), (14, 1, .signalSub), (15, 0, .bset), (16, 0, .loop), (17, 0, .endl), (18, 6, .brg), (19, 0, .tstart),
    (20, 0, .yieldc), (21, 0, .ackw), (22, 0, .odnarEnd)] = true := by decide

-- Reserved majors, functions and opcodes, and unused fields that are not zero (R257, R266 to R268).
theorem test_words_reserved : ([14 * 2 ^ 26, 27 * 2 ^ 26, 63 * 2 ^ 26, arWord 0 1 2 3 28, arWord 0 1 2 3 24, arWord 12 1 2 3 0, arWord 13 33 2 3 0,
    arWord 13 1 2 3 14, arWord 18 0 2 0 2, arWord 41 1 2 3 0x0A, arWord 41 1 2 3 0x81, arWord 41 0 2 3 0x40, arWord 49 0 0 0 6, arWord 56 0 0 2 0,
    arWord 56 0 0 0 7, amWord 29 4 0 0 1 2 1, amWord 34 8 1 0 1 2 0, 20 * 2 ^ 26 + 2 ^ 16, 24 * 2 ^ 26 + 2 ^ 22].all fun w => (decodeTableWord 32 w).isNone)
  = true := by decide

theorem test_words_reserved_wide : ([0x02, 0x07, 0x1D, 0x2E, 0x48, 0x53, 0x5B, 0x66, 0x73, 0x79, 0x88, 0xFF].all fun op =>
    (decodeTableWord 96 (cTestWord op 0)).isNone) = true ∧ ([0x17, 0xFF].all fun op => (decodeTableWord 64 (op * 2 ^ 56)).isNone) = true := by decide

/-! ### WellFormed: for each check a term that it refuses, beside one that passes (R255 to R268) -/

/-- The first of each pair is well formed, the second is not. -/
def refuses (xs : List (Instr × Instr)) : Bool := xs.all fun x => x.1.wf && !x.2.wf

/-- f32 operands v1, v2 and v3 and the destination v4. -/
def cf : CFields := { zeroC with d := 4, a := 1, b := 2, c := 3, ty := 6 }

/-- Two i32 operands. -/
def ci : CFields := { zeroC with d := 4, a := 1, b := 2 }

/-- Kind-1 operands and a k-register destination. -/
def ck : CFields := { zeroC with d := 4, dk := 1, a := 1, ak := 1, b := 2, bk := 1, ty := 12 }

-- cc, policy, ty, asp, sc, aop, at (R255, R256).
theorem test_wf_codes : refuses [(.bcc 8 1 0, .bcc 9 1 0), (.bxq 8 0, .bxq 9 0), (.brs 2 1 0, .brs 3 1 0), (.ld 6 2 true 1 2 0, .ld 7 2 true 1 2 0),
    (.ld 6 2 true 1 2 0, .ld 6 3 true 1 2 0), (.lda 5 0 false 1 2 0, .lda 6 0 false 1 2 0), (.lda 5 0 false 1 2 0, .lda 5 3 false 1 2 0),
    (.st 2 0 false 1 2 0, .st 1 0 false 1 2 0), (.st 2 0 false 1 2 0, .st 2 3 false 1 2 0), (.pref 3 0 false 1 2 0, .pref 8 0 false 1 2 0),
    (.pref 3 0 false 1 2 0, .pref 3 3 false 1 2 0), (.ldf 9 false 1 2, .ldf 4 false 1 2), (.atom 13 0 5 1 2 0 true, .atom 14 0 5 1 2 0 true),
    (.atom 9 0 5 1 2 1 true, .atom 9 3 5 1 2 1 true), (.atom 9 0 5 1 2 1 true, .atom 9 0 6 1 2 1 true), (.atom 9 0 5 1 2 1 true, .atom 9 0 5 1 2 2 true),
    (.atom 10 0 5 1 2 0 true, .atom 10 0 5 1 2 1 true), (.atoms 13 5 1 2 3, .atoms 14 5 1 2 3), (.atoms 13 5 1 2 3, .atoms 13 7 1 2 3)] = true := by decide

-- Block bases, barrier spaces, fences, records and control registers (R345, R350 to R353, R363).
theorem test_wf_system : refuses [(.cpy 1 8, .cpy 1 9), (.cpysp 1 8, .cpysp 1 0), (.gath 1 8, .gath 1 4), (.scat 1 8, .scat 1 12),
    (.spillb 1 8, .spillb 1 0), (.filla 1 8, .filla 1 15), (.binit 2 1 2, .binit 3 1 2), (.barrive true 1 1 2 3, .barrive true 3 1 2 3),
    (.bexpect 0 1 2, .bexpect 3 1 2), (.bwait 0 1 2, .bwait 3 1 2), (.btest 0 1 2 3, .btest 3 1 2 3), (.bstat 0 1 2 3, .bstat 3 1 2 3),
    (.fence 1 5, .fence 0 5), (.fence 1 5, .fence 1 6), (.enq 1 2 8, .enq 1 2 9), (.deq 8 1, .deq 9 1), (.deq 8 1, .deq 0 1), (.csrr 1 13, .csrr 1 14),
    (.csrw 1 13, .csrw 1 63)] = true := by decide

-- What every C-word is checked for (R260 to R265, R303, R304).
theorem test_wf_common : refuses [(.vfma cf, .vfma { cf with ty := 5 }), (.vfma { cf with msel := 1, mreg := 3 }, .vfma { cf with mreg := 3 }),
    (.nop zeroC, .nop { zeroC with msel := 2 }), (.nelse zeroC, .nelse { zeroC with msel := 2 }), (.vfma cf, .vfma { cf with a := 32, ak := 1 }),
    (.vfma { cf with b := 4, bk := 2 }, .vfma { cf with b := 5, bk := 2 }), (.vfma { cf with c := 0, ck := 3 }, .vfma { cf with c := 1, ck := 3 }),
    (.vadd { ci with ty := 11, a := 2 }, .vadd { ci with ty := 11 }), (.vadd ci, .vadd { ci with c := 1 }), (.vicmp { ci with c := 5 }, .vicmp { ci with c := 6 }),
    (.vicmp ci, .vicmp { ci with ck := 1 }), (.vqswp { zeroC with ty := 13, c := 1 }, .vqswp { zeroC with ty := 13 }), (.vadd ci, .vadd { ci with dk := 1 }),
    (.vadd { ci with dk := 2, d := 0 }, .vadd { ci with dk := 2 }), (.vadd { ci with ty := 11, a := 2 }, .vadd { ci with ty := 11, a := 2, d := 5 }),
    (.kop ck, .kop { ck with d := 32 }), (.kop { ck with dk := 3, d := 0 }, .kop { ck with dk := 3 }), (.emnarrow { ck with ty := 13, d := 0, dk := 0, b := 0, bk := 0 },
      .emnarrow { ck with ty := 13, d := 1, dk := 0, b := 0, bk := 0 }), (.vfma { cf with reuse := 7 }, .vfma { cf with reuse := 4, a := 0, ak := 2 }),
    (.vfma { cf with a := 0, ak := 3 }, .vfma { cf with a := 0, ak := 3, b := 0, bk := 3 }), (.vfma cf, .vfma { cf with imm := 1 }),
    (.vmin { ci with mod := 14 }, .vmin { ci with mod := 15 }), (.vfma { cf with rnd := 3 }, .vadd { ci with rnd := 3 }), (.end_ zeroC, .end_ { zeroC with stall := 1 })] = true := by decide

-- What single entries of C-words add (R307 to R343).
theorem test_wf_entries : refuses [(.vcvt { zeroC with c := 6 }, .vcvt { zeroC with c := 11 }), (.vcvt { zeroC with ty := 4, c := 0x36 }, .vcvt { zeroC with ty := 6, c := 0x16 }),
    (.vcvt { zeroC with c := 6, rnd := 1 }, .vcvt { zeroC with c := 1, rnd := 1 }), (.vprefix { zeroC with c := 3 }, .vprefix { zeroC with c := 3, ty := 6 }),
    (.vprefix { zeroC with ty := 6, rnd := 1 }, .vprefix { zeroC with rnd := 1 }), (.vred { zeroC with ty := 6, c := 2 }, .vred { zeroC with ty := 6, c := 3 }),
    (.vqred { zeroC with ty := 13, c := 3 }, .vqred { zeroC with ty := 13, c := 2 }), (.vqred { zeroC with ty := 6, rnd := 1 }, .vqred { zeroC with ty := 6, c := 1, rnd := 1 }),
    (.vtopk { zeroC with d := 254, c := 1 }, .vtopk { zeroC with d := 255, c := 1 }), (.vmov { zeroC with ty := 13, d := 0x80, imm := 1 }, .vmov { zeroC with ty := 13, imm := 1 }),
    (.vmov { zeroC with ty := 13 }, .vmov { zeroC with ty := 13, imm := 2 }), (.vpack { zeroC with ty := 4 }, .vpack { zeroC with ty := 6 }),
    (.vpack { zeroC with ty := 6, c := 5 }, .vpack { zeroC with ty := 4, c := 5 }), (.vpack { zeroC with ty := 6, c := 6, a := 244 }, .vpack { zeroC with ty := 6, c := 6, a := 245 }),
    (.vunpk { zeroC with ty := 4, c := 16 }, .vunpk { zeroC with ty := 6, c := 16 }), (.vunpk { zeroC with ty := 6, c := 7 }, .vunpk { zeroC with ty := 6, c := 8 }),
    (.vunpk { zeroC with ty := 6, c := 6, d := 244 }, .vunpk { zeroC with ty := 6, c := 6, d := 245 }), (.mma { cf with c := 0, imm := 0x10 }, .mma { cf with c := 0, imm := 0x20 }),
    (.mma { cf with c := 0, imm := 0x10 }, .mma { cf with imm := 0x10 }), (.mma { ci with ty := 0, imm := 0x44 }, .mma { ci with ty := 6, imm := 0x44 }),
    (.mma { cf with c := 0 }, .mma { cf with c := 0, reuse := 4 }), (.mzero zeroC, .mzero { zeroC with ty := 1 }), (.mload { zeroC with imm := 7 }, .mload { zeroC with imm := 8 }),
    (.mstore { zeroC with imm := 7 }, .mstore { zeroC with imm := 8 }), (.mdrain { zeroC with bk := 1, c := 1, ck := 1, imm := 7 }, .mdrain { zeroC with bk := 1, c := 1, ck := 1, imm := 8 }),
    (.mdrain { zeroC with bk := 1, c := 1, ck := 1 }, .mdrain { zeroC with bk := 1, ck := 1 }), (.mdrainWindow { zeroC with bk := 1, imm := 15 }, .mdrainWindow { zeroC with bk := 1, imm := 31 }),
    (.mdrainWindow { zeroC with bk := 1, imm := 15 }, .mdrainWindow { zeroC with bk := 1, imm := 14 }), (.mbf { zeroC with dk := 1 }, .mbf { zeroC with dk := 1, mod := 1 }),
    (.mbw { zeroC with ak := 3, imm := 0xFFFF }, .mbw { zeroC with ak := 3, imm := 0x10000 }), (.mbw { zeroC with ak := 1 }, .mbw { zeroC with ak := 1, imm := 1 }),
    (.mbind { zeroC with ak := 1, imm := 2 }, .mbind { zeroC with ak := 1, imm := 3 }), (.mbind { zeroC with ak := 1 }, .mbind { zeroC with ak := 1, imm := 4 })] = true := by decide

-- Odnar words (R267, R383 to R391).
theorem test_wf_odnar : refuses [(.odnarNop zeroO, .odnarNop { zeroO with d := 1 }), (.setg { zeroO with f := 12 }, .setg { zeroO with f := 13 }), (.setg { zeroO with f := 8, imm := 15 }, .setg { zeroO with f := 8, imm := 16 }),
    (.setg zeroO, .setg { zeroO with a := 1 }), (.addg { zeroO with f := 7 }, .addg { zeroO with f := 8 }), (.peer { zeroO with f := 2, imm := 64 }, .peer { zeroO with f := 2, imm := 65 }),
    (.peer { zeroO with f := 4, imm := 2 }, .peer { zeroO with f := 4, a := 1, imm := 2 }), (.chunk { zeroO with f := 2 }, .chunk { zeroO with f := 3 }), (.chunk zeroO, .chunk { zeroO with a := 1 }),
    (.sendAcc zeroO, .sendAcc { zeroO with d := 1 }), (.sendOwn { zeroO with f := 1 }, .sendOwn { zeroO with f := 1, imm := 0x100000 }), (.sendMem { zeroO with f := 2, d := 1 }, .sendMem { zeroO with f := 3 }),
    (.recvAcc zeroO, .recvAcc { zeroO with f := 1 }), (.recvDest { zeroO with f := 1 }, .recvDest { zeroO with f := 1, d := 1 }), (.rrs zeroO, .rrs { zeroO with f := 1 }), (.copyOwn zeroO, .copyOwn { zeroO with a := 1 }),
    (.copyDest { zeroO with f := 1 }, .copyDest { zeroO with f := 1, imm := 16 }), (.copyLoad { zeroO with f := 2, a := 1 }, .copyLoad { zeroO with f := 2, d := 1 }), (.copyStore { zeroO with f := 3 }, .copyStore zeroO),
    (.match_ zeroO, .match_ { zeroO with f := 1 }), (.combine zeroO, .combine { zeroO with d := 1 }), (.forward { zeroO with f := 1 }, .forward { zeroO with f := 2 }), (.scalex { zeroO with imm := 0x200000 }, .scalex { zeroO with imm := 0x100000 }),
    (.waitWin zeroO, .waitWin { zeroO with imm := 16 }), (.waitSig { zeroO with f := 1 }, .waitSig { zeroO with f := 1, imm := 1 }), (.waitTime { zeroO with f := 2 }, .waitTime { zeroO with f := 2, b := 1 }),
    (.waitBar { zeroO with f := 3, imm := 1 }, .waitBar { zeroO with f := 3, imm := 2 }), (.signal { zeroO with imm := 0xFFFF }, .signal { zeroO with imm := 0x10000 }), (.signalSub { zeroO with f := 1, b := 1 }, .signalSub { zeroO with f := 1, imm := 1 }),
    (.bset { zeroO with imm := 0xFFF }, .bset { zeroO with imm := 0x1000 }), (.loop { zeroO with d := 3 }, .loop { zeroO with d := 4 }), (.endl { zeroO with d := 3 }, .endl { zeroO with a := 1 }), (.brg { zeroO with f := 6 }, .brg { zeroO with f := 7 }),
    (.brg { zeroO with f := 5, a := 1 }, .brg { zeroO with f := 6, a := 1 }), (.tstart zeroO, .tstart { zeroO with imm := 1 }), (.yieldc zeroO, .yieldc { zeroO with a := 1 }), (.ackw zeroO, .ackw { zeroO with imm := 16 }),
    (.odnarEnd zeroO, .odnarEnd { zeroO with f := 1 })] = true := by decide

/-! ### States that meet the hypotheses of the statements: the A-stream -/

/-- A package in which the group of the one-instruction load executes, with the registers given. -/
def tState (g : Group) : State := { loadStage State.reset g (.a loadGid) with agenda := [], cur := .group loadGid }

/-- The group: s1 the image's base, s2 a small number, s3 an odd one, XQ with one entry. -/
def tGroup : Group :=
  { loadGroup with s := [(1, 0x10000), (2, 7), (3, 0x10001), (4, 1)], xq := [5], follow := true, lastSp := some 1 }

/-- The state in which that group executes. -/
def tS : State := tState tGroup

/-- All of these issue in the state with their own effect. -/
abbrev Issue (is : List Instr) : Prop := ∀ i ∈ is, IssuesA i tS loadGid tGroup loadKernel

theorem wit_ArithmeticResults : ∀ w : Bool, Issue [.add 33 1 2 w, .sub 33 1 2 w, .mul 33 1 2 w, .mulh 33 1 2 w, .mulhn 33 1 2 w, .div 33 1 0 w,
    .divn 33 1 2 w, .rem 33 1 0 w, .remn 33 1 2 w, .min 33 1 2 w, .max 33 1 2 w, .minn 33 1 2 w, .maxn 0 1 2 w, .slt 33 1 2 w, .sltn 33 1 2 w,
    .seq 63 1 2 w] := by decide

theorem wit_BitResults : ∀ w : Bool, Issue [.and_ 33 1 2 w, .or_ 33 1 2 w, .xor 33 1 2 w, .andn 33 1 2 w, .shl 33 1 2 w, .shr 33 1 2 w, .sar 33 1 2 w,
    .rol 33 1 2 w, .brev 33 1 w, .popc 33 1 w, .clz 33 0 w, .ctz 33 0 w] := by decide

theorem wit_ImmediateAndMaskResults : Issue [.addi 33 1 (-1), .andi 33 1 (-1), .ori 33 1 (-1), .xori 33 1 (-1), .shli 33 1 63, .shri 33 1 63,
    .sari 33 1 63, .slti 33 1 (-1), .seqi 33 1 (-1), .lui 33 (-1), .auipc 33 (-1), .emset 2, .emand 2, .emandn 2, .emor 2, .emget 33] := by decide

theorem wit_VectorResults : Issue [.vaadd 31 1 2, .vaadds 31 1 2, .vasub 31 1 2, .vamuls 31 1 2, .vamads 31 1 2, .vashls 31 1 2, .vashrs 31 1 2,
    .vaands 31 1 2, .vaiota 31 1 2, .vamovs 31 1, .vaext 1 31 2, .vains 31 1 2, .valtm 1 2 31, .vaeqm 1 2 31]
    ∧ ∀ n < 32, fillPending tS loadGid n = false := by decide

theorem wit_JumpAndBranchResults : Issue [.j 1, .call (-1), .jr 1, .callr 1, .bcc 0 2 1, .bcc 1 2 1, .bcc 8 2 1, .loopd 4 1, .loopd 2 1, .bxq 0 1, .bxq 1 1]
    ∧ (rs tGroup 1).toNat % 4 = 0 ∧ tGroup.xq = [5] ∧ rs tGroup 4 = 1 ∧ rs tGroup 2 ≠ 1
    ∧ ¬ ccTest 0 (rs tGroup 2) tGroup.em ∧ ccTest 1 (rs tGroup 2) tGroup.em := by
  refine ⟨by decide, by decide, by decide, by decide, by decide, ?_, ?_⟩
  · show ¬ (rs tGroup 2 = 0)
    decide
  · show rs tGroup 2 ≠ 0
    decide

-- KPUT at its bound: eight registers staged, one of them replaced; and one staged when none is.
theorem wit_QueueAndSplitResults : Issue [.kput 0 2, .kput 31 2, .xpop 33, .xpeek 33, .disp 0, .disp 2, .brs 0 2 1, .brs 1 2 1, .brs 2 2 1]
    ∧ tGroup.kput.length < 8 ∧ tGroup.bq.length < 32 ∧ (dispPages tS tGroup (cBase loadKernel + BitVec.ofNat 64 (12 * 2)) (blockPages loadKernel 2)).2.toOption.isSome = true
    ∧ structOut tS tGroup true = none ∧ spawnSp loadKernel tGroup = some 1 ∧ cIdle tGroup = true ∧ regsOwed tS loadGid tGroup = false ∧ 32 ≤ freeRecs tS tGroup.ctx := by decide

theorem wit_QueueAndSplitResults_full : let g := { tGroup with kput := (List.range 8).map fun i => (i + 1, (0 : Word)) }
    IssuesA (.kput 8 2) (tState g) loadGid g loadKernel ∧ g.kput.any (fun e => e.1 = 8) = true ∧ g.kput.length ≤ 8 := by decide

-- BRX with the same index in every lane, below the length; with em zero; JOIN and ENDS.
theorem wit_SpawnJoinEnd : Issue [.brx 1 1 2, .join, .ends] ∧ cIdle tGroup = true ∧ regsOwed tS loadGid tGroup = false ∧ spawnSp loadKernel tGroup = some 1
    ∧ fillPending tS loadGid 1 = false ∧ (∀ l < 32, (aReg tGroup 1 l).toNat < (rs tGroup 2).toNat) ∧ tGroup.em ≠ 0
    ∧ structOut tS tGroup true = none ∧ structOut tS tGroup tGroup.spawned = none ∧ spawns tS tGroup = 0 ∧ storesDone tS loadGid tGroup = true ∧ tGroup.mops = [] ∧ tGroup.batches = [] := by decide

theorem wit_SpawnJoinEnd_table : ∃ s1 ts, readTable tS loadGid tGroup (rs tGroup 1) (sortNats ((lanesOf tGroup.em).map fun l => (aReg tGroup 1 l).toNat))
    = (s1, .got ts) ∧ structOut s1 tGroup true = none ∧ 32 ≤ freeRecs s1 tGroup.ctx ∧ regsOwed s1 loadGid tGroup = false :=
  ⟨_, _, rfl, by decide, by decide, by decide⟩

theorem wit_SpawnJoinEnd_none : let g := { tGroup with em := 0 }
    IssuesA (.brx 1 1 2) (tState g) loadGid g loadKernel := by decide

/-! ### Memory -/

/-- The translation of the image's page with a valid plain format entry. -/
def tMemState (g : Group) : State :=
  { tState g with cores := [(0, { tlb := [{ loadTlb with fmt := some 16 }] })] }

/-- The place of a virtual address in that page. -/
def tPlace (a : Nat) : Loc := .phys a false

/-- An access passes when the facts of `passes_of_hit` compute. -/
theorem tPass {s : State} {g : Group} {a : Word} {n : Nat} {k : Access} {p : Loc} (e : TlbEnt) (t : Trans)
    (h : a.toNat % n = 0 ∧ bits a.toNat 56 8 = 0 ∧ tlbHit (coreOf s g.core).tlb g.ctx a.toNat k = some e
      ∧ (useEntry s g.ctx a.toNat k e).toOption = some t ∧ placeFault s g.ctx t.pa = none ∧ isAlias t.pa = false ∧ isFabric t.pa = false
      ∧ lockBad s g.core (.phys t.pa t.direct) n k a = none ∧ p = .phys t.pa t.direct) : Passes s loadGid g 0 a n k p := by
  obtain ⟨h1, h2, h3, h4, h5, h6, h7, h8, rfl⟩ := h
  refine passes_of_hit h1 (.inl h2) h3 ?_ h5 h6 h7 h8
  cases hu : useEntry s g.ctx a.toNat k e with
  | error _ => simp [hu, Except.toOption] at h4
  | ok y => simpa [hu, Except.toOption] using h4

/-- The same in the page of `tMemState`, at a given address. -/
abbrev tT (a : Nat) : Trans := ⟨a, false, some 16⟩

/-- The entry of that page. -/
abbrev tE : TlbEnt := { loadTlb with fmt := some 16 }

-- LD of two entries at the queue's bound, and LDF, with every lane of em checked.
theorem wit_LoadsReserveEntries : let g := { tGroup with lq := List.replicate 62 {} }
    let s := tMemState g
    IssuesA (.ld 5 0 false 31 1 1) s loadGid g loadKernel ∧ LqRoom s g 2 ∧ isLocal (tPlace 0x10008) = true
      ∧ ∀ l, g.em.getLsbD l = true → Passes s loadGid g 0 (eaAM g 31 1 (BitVec.ofInt 64 ((1 : BitVec 8).toInt * 8)) l) 8 .read (tPlace 0x10008) :=
  ⟨by decide, by decide, by decide, fun l _ => by
    rw [show eaAM _ 31 1 _ l = 0x10008 by simp only [eaAM, if_true]; decide]
    exact tPass tE (tT 0x10008) (by decide)⟩

theorem wit_LoadsReserveEntries_record : let g := tGroup
    let s := tMemState g
    IssuesA (.ldf 8 false 31 1) s loadGid g loadKernel ∧ LqRoom s g 1
      ∧ ∀ x, ldfLane (setGrp s loadGid x) g (hdrOf s g.kern).fmask (rs g 1) 0
        = (setGrp s loadGid x, .ok { va := 0x10000, parts := [(tPlace 0x10000, 4)], code := 0, elt := 0 }) :=
  ⟨by decide, by decide, fun x => by
    have key : translate (setGrp (tMemState tGroup) loadGid x) 0 1 0x10000 .read = (setGrp (tMemState tGroup) loadGid x, .ok (tT 0x10000)) :=
      translate_hit (e := tE) (.inl (by decide)) rfl
    have hp : placeFault (tMemState tGroup) 1 0x10000 = none := by decide
    have hl : lockBad (tMemState tGroup) 0 (.phys 0x10000 false) 4 .read 0x10000 = none := by decide
    rw [show rs tGroup 1 = 0x10000 by decide, show (hdrOf (tMemState tGroup) tGroup.kern).fmask = 255 by decide]
    have hx : ∀ x, isFabric x = x.testBit 55 := fun _ => rfl
    have ha : isAlias 0x10000 = false := by decide
    simp [ldfLane, recordCheck, recordPart, recordOf, key, hp, ha, hx, tPlace, entryFault, entryCode, show tGroup.core = 0 from rfl,
      show tGroup.ctx = 1 from rfl]
    rw [show lockBad (tMemState tGroup) 0 (.phys 65536 false) 4 .read 65536#64 = none from hl, show Nat.testBit 65536 55 = false by decide,
      show Nat.testBit 16 4 = true by decide]
    simp⟩

-- LDA before its load, with em zero, and when its data has arrived; LDS and LDSW.
theorem wit_BlockingLoadResults : let g := tGroup
    let s := tMemState g
    let e := { g with em := 0 }
    let h := { g with ldaDone := true, ldaVal := [(0, 7), (31, 8)] }
    IssuesA (.lda 5 0 false 31 1 31) s loadGid g loadKernel ∧ g.ldaDone = false ∧ ldaOut g = false ∧ fillPending s loadGid 31 = false ∧ g.em ≠ 0
      ∧ IssuesA (.lda 5 0 false 31 1 31) (tMemState e) loadGid e loadKernel
      ∧ IssuesA (.lda 5 0 false 31 1 31) (tMemState h) loadGid h loadKernel ∧ SMap.sorted h.ldaVal = true ∧ (∀ e ∈ h.ldaVal, e.1 < 32) := by decide

theorem wit_BlockingLoadResults_access : let s := tMemState tGroup
    (∀ l, tGroup.em.getLsbD l = true → Passes s loadGid tGroup 0 (eaAM tGroup 31 1 0 l) 8 .read (tPlace 0x10000))
      ∧ IssuesA (.lds 33 1 8) s loadGid tGroup loadKernel ∧ IssuesA (.ldsw 33 1 4) s loadGid tGroup loadKernel
      ∧ InOrder s tGroup (tPlace 0x10008) 8 ∧ InOrder s tGroup (tPlace 0x10004) 4 ∧ reachable s tGroup (tPlace 0x10008) = true
      ∧ Passes s loadGid tGroup 0 (rs tGroup 1 + BitVec.ofInt 64 (8 : BitVec 14).toInt) 8 .read (tPlace 0x10008)
      ∧ Passes s loadGid tGroup 0 (rs tGroup 1 + BitVec.ofInt 64 (4 : BitVec 14).toInt) 4 .read (tPlace 0x10004) :=
  ⟨fun l _ => by
    rw [show eaAM _ 31 1 _ l = 0x10000 by simp only [eaAM, if_true]; decide]
    exact tPass tE (tT 0x10000) (by decide), by decide, by decide, by decide, by decide, by decide,
    tPass tE (tT 0x10008) (by decide), tPass tE (tT 0x10004) (by decide)⟩

-- ST of four entries and CAS with its two, each filling the SAQ; STS.
theorem wit_StoreResults : let g := { tGroup with saq := List.replicate 28 {} }
    let s := tMemState g
    IssuesA (.st 6 0 false 31 1 0) s loadGid g loadKernel ∧ IssuesA (.atom 9 0 3 1 1 1 true) s loadGid g loadKernel ∧ g.atomRes = none
      ∧ g.saq.length + 4 ≤ 32 ∧ LqRoom s g 2 ∧ fillPending s loadGid 1 = false ∧ isLocal (tPlace 0x10000) = true
      ∧ (∀ l, g.em.getLsbD l = true → Passes s loadGid g 0 (eaAM g 31 1 (BitVec.ofInt 64 ((0 : BitVec 8).toInt * 16)) l) 16 .write (tPlace 0x10000))
      ∧ ∀ l, g.em.getLsbD l = true → Passes s loadGid g 0 (eaAA g 1 1 l) 8 .atomic (tPlace 0x10000) :=
  ⟨by decide, by decide, by decide, by decide, by decide, by decide, by decide,
    fun l _ => by
      rw [show eaAM _ 31 1 _ l = 0x10000 by simp only [eaAM, if_true]; decide]
      exact tPass tE (tT 0x10000) (by decide),
    fun l _ => by
      rw [eaAA, show aReg _ _ l = 0 from rfl, show (0 : Word) + rs _ 1 = 0x10000 by decide]
      exact tPass tE (tT 0x10000) (by decide)⟩

theorem wit_StoreResults_scalar : let s := { tState tGroup with cores := [(0, { tlb := [{ loadTlb with direct := true }] })] }
    IssuesA (.sts 2 1 8) s loadGid tGroup loadKernel ∧ InOrder s tGroup (.phys 0x10008 true) 8 ∧ reachable s tGroup (.phys 0x10008 true) = true
      ∧ NoFill s 0 0 (.phys 0x10008 true) ∧ NoFill s 0 0 (.phys 0x10010 true) ∧ placeOf (.phys 0x10008 true) % 8 = 0
      ∧ Passes s loadGid tGroup 0 (rs tGroup 1 + BitVec.ofInt 64 (8 : BitVec 14).toInt) 8 .write (.phys 0x10008 true) :=
  ⟨by decide, by decide, by decide, (fun h => nomatch h), (fun h => nomatch h), by decide,
    tPass { loadTlb with direct := true } ⟨0x10008, true, some 0⟩ (by decide)⟩

-- ATOMS of 8 bytes and, for a floating-point operation, of 4; the operations on the greatest operands of each width.
theorem wit_ScalarAtomicResults : let s := tMemState tGroup
    IssuesA (.atoms 9 3 33 1 2) s loadGid tGroup loadKernel ∧ IssuesA (.atoms 10 3 33 1 2) s loadGid tGroup loadKernel
      ∧ InOrder s tGroup (tPlace 0x10000) 8 ∧ reachable s tGroup (tPlace 0x10000) = true
      ∧ Passes s loadGid tGroup 0 (rs tGroup 1) 8 .atomic (tPlace 0x10000) ∧ Passes s loadGid tGroup 0 (rs tGroup 1) 4 .atomic (tPlace 0x10000) :=
  ⟨by decide, by decide, by decide, by decide, tPass tE (tT 0x10000) (by decide), tPass tE (tT 0x10000) (by decide)⟩

theorem wit_ScalarAtomicResults_widths : ∀ w ∈ [4, 8], 2 ^ (8 * w) - 1 < 2 ^ (8 * w) ∧ (w = 4 ∨ w = 8) := by decide

-- A store of two words in each lane, paired; a load with one lane to come; a ring entry; a page walk of a leaf of 4 KiB.
theorem wit_MemoryEventsComplete_store : let e : SaqEntry := { addr := allLanes.map fun l => (l, 0x10000 + 8 * l), mask := 0xFFFFFFFF, size := 8, count := 2 }
    let g := { tGroup with saq := [e, { e with place := 1 }], sdq := [{ mask := 0xFFFFFFFF }, { mask := 0xFFFFFFFF }] }
    let s := tMemState g
    grp? s loadGid = some g ∧ g.fences = [] ∧ e.count ≤ g.sdq.length ∧ heldByOwn s loadGid g e = false ∧ pairWaits s g.core e = false ∧ linkHolds s g e = false
      ∧ (∀ j < 32, laneReason s g e j = none ∧ isRemoteLane e j = false ∧ isWindowLane e j = false)
      ∧ (lanesOf (e.mask &&& 0xFFFFFFFF)).getLast? = some 31 ∧ saqLoc s g e 31 = some (tPlace 0x100F8) ∧ 0x100F8 % e.size = 0 := by decide

theorem wit_MemoryEventsComplete_load : let r : LoadReq := { issue := 1, lanes := 1, ea := [(0, 0x10000)], acc := [(0, { parts := [(tPlace 0x10000, 4)] })], stamp := 3 }
    let g := { tGroup with loads := [r], lq := [{}] }
    let s := tMemState g
    grp? s loadGid = some g ∧ r.lanes.getLsbD 0 = true ∧ (SMap.get r.acc {} 0).parts.all (partReady s g r) = true
      ∧ partsBad s g 0 (SMap.get r.acc {} 0).parts = none := by decide

theorem wit_MemoryEventsComplete_ring : let g := { tGroup with lq := List.replicate 63 {} }
    let s := { tMemState g with mem := [(0xB00010, 1)] }
    grp? s loadGid = some g ∧ g.st ≠ .saved ∧ g.lq.length < 64 ∧ ringCount s g ≠ 0 ∧ g.hold = [] := by decide

-- Sv57 tables at 0x4000: five pages, each with its entry for virtual page 0x12; the last is a leaf.
theorem wit_MemoryEventsComplete_walk : let leaf : List Host.Cell := [(0x8090, 0xD7), (0x8091, 0x40)]
    let s := { tState tGroup with mem := [(0x4000, 1), (0x4001, 0x14), (0x5000, 1), (0x5001, 0x18), (0x6000, 1), (0x6001, 0x1C), (0x7000, 1), (0x7001, 0x20)] ++ leaf }
    (SMap.find? s.ctxs 1).map (·.state) = some .running ∧ (walk s (dieSt s 0).walks 1 0x12000 .read).2.toOption.isSome = true := by decide +kernel

/-! ### Engines, barriers, order, queues and rounds -/

/-- The kernel with a scratchpad. -/
def tKernel : Kernel := { loadKernel with scratch := 256 }

/-- The state of `tState` with that kernel. -/
def tScratch (g : Group) : State := { tState g with kernels := [(1, tKernel)] }

/-- The group with an engine block in s8 to s15: words 0 to 7 of R345. -/
def tBlock (r : List Nat) : Group := { tGroup with s := [(1, 0x10000), (2, 7)] ++ (r.zipIdx.map fun e => (e.2 + 8, BitVec.ofNat 64 e.1)).filter fun e => e.2 ≠ 0 }

/-- The block of `g` passes the checks that `EnginesAcceptCommands` names. -/
def engMeets (fn : Nat) (g : Group) : Bool :=
  let s := tScratch g
  match engBlock fn (fun j => (sReg g (8 + j)).toNat) tKernel.hdr.na tKernel.hdr.nv with
  | none => false
  | some b =>
    match checkBarrier s g b.bsp b.bar with
    | (_, .error _) => false
    | (s1, .ok _) =>
      let ranges := b.ranges.map fun c => { c with lo := (rangePlace s1 g c).getD c.lo }
      let r := cmdRanges s1 (coreDie g.core) g.ctx ranges
      (b.aligns.all fun x => x.1 % x.2 == 0) && (b.ranges.all fun c => (rangePlace s1 g c).isSome) && (ownShare r.2.1).isNone
        && (tryRegister (newSerial r.1).2 g.core (.engine (newSerial r.1).1) r.2.1).isSome

-- CPY between bank-store offsets, CPYSP into the scratchpad, GATH, SCAT, SPILLB and FILLA; the barrier is the team's slot 0.
theorem wit_EnginesAcceptCommands : ∀ x ∈ [(Instr.cpy 33 8, 0, tBlock [0, 128, 64, 0x200000, 26, 0, 0, 0]), (.cpysp 33 8, 1, tBlock [0, 0, 16, 0x200000, 22, 2, 16, 16]),
    (.gath 33 8, 2, tBlock [0, 128, 2, 0x200000, 26, 0, 2, 0]), (.scat 33 8, 3, tBlock [128, 0, 2, 0x200000, 26, 0, 2, 0]),
    (.spillb 33 8, 4, tBlock [255, 0, 0, 0x200000, 24, 0, 0, 0]), (.filla 33 8, 5, tBlock [0, 31, 0, 0x200000, 18, 0, 0, 0])],
    IssuesA x.1 (tScratch x.2.2) loadGid x.2.2 tKernel ∧ engMeets x.2.1 x.2.2 = true := by decide +kernel

/-- The group with the address of its team's barrier slot 0 in s1; s2 is odd and s3 even. -/
def tBar : Group := { tGroup with s := [(1, 0x200000), (2, 7), (3, 4)] }

-- BWAIT and BTEST with a parity that differs from the phase and with one that does not.
theorem wit_BarrierInstructions : BarReady (tState tBar) loadGid tBar 1 (rs tBar 1) (.scratch 0x200000) ∧ ReleaseReady (tState tBar) loadGid tBar 1
    ∧ (∀ i ∈ [Instr.binit 1 1 2, .bexpect 1 1 2, .barrive false 1 0 1 2, .barrive true 1 0 1 2, .barrive false 1 33 1 2, .barrive true 1 33 1 2,
        .bstat 1 33 1 2, .btest 1 33 1 2, .btest 1 33 1 3, .bwait 1 1 2, .bwait 1 1 3], IssuesA i (tState tBar) loadGid tBar loadKernel)
    ∧ barPh (barRead (barSync (tState tBar) 0 (.scratch 0x200000)) 0 0 (.scratch 0x200000)).ctl ≠ (rs tBar 2).getLsbD 0
    ∧ barPh (barRead (barSync (tState tBar) 0 (.scratch 0x200000)) 0 0 (.scratch 0x200000)).ctl = (rs tBar 3).getLsbD 0 ∧ tBar.woken = false :=
  ⟨⟨rfl, rfl, by decide, by decide, by decide, fun e h => nomatch h⟩, by decide, by decide, by decide, by decide, rfl⟩

-- An object with two arrivals pending and eight bytes to come; one with nothing pending but bytes; and a malformed control word.
theorem wit_BarrierUpdates : let b : BarObj := ⟨barCtl false 2 2, 0, emptyStatus, emptyStatus⟩
    let c : BarObj := ⟨barCtl true 2 0, 2 ^ 32 - 1, emptyStatus, emptyStatus⟩
    b.ctl < 2 ^ 64 ∧ c.ctl < 2 ^ 64 ∧ c.txb < 2 ^ 64 ∧ malformed b.ctl = false ∧ malformed c.ctl = false ∧ malformed (2 ^ 48) = true ∧ barExp b.ctl ≠ 0
      ∧ (2 = barPend b.ctl ∧ b.txb = 0) ∧ ¬ (1 = barPend b.ctl) ∧ barPend b.ctl < 3 ∧ barExp 0 = 0 ∧ malformed 0 = false ∧ barPend c.ctl = 0
      ∧ c.txb = 2 ^ 32 - 1 ∧ 2 ^ 48 ≤ 2 ^ 48 := by decide

theorem wit_BarrierUpdates_status : emptyStatus < 2 ^ 64 ∧ (0x002 : BitVec 12) &&& failMask ≠ 0 ∧ (0x001 : BitVec 12) &&& failMask = 0 := by decide

-- An update of each kind at the front of those under way.
theorem wit_BarrierUpdates_home : ∀ op ∈ [BarOp.init 1, .arrive 1 {}, .expect 8, .complete 8 {}],
    let u : BarUpd := { home := .scratch 0x200000, core := 0, slot := 0, from_ := some loadGid, op := op }
    let s := { tState tBar with homeQ := [u] }
    s.homeQ[0]? = some u ∧ updFirst s 0 u = true ∧ grp? s loadGid = some tBar ∧ tBar.fences = [] := by decide

-- MON on the image's page; MWAIT with no monitor, a hit one and an unhit one; PREF.
theorem wit_OrderResults : (∀ i ∈ [Instr.fence 1 0, .fence 3 5, .drainnt, .mon 1, .mwait, .pref 6 0 false 1 1 0, .pref 0 0 false 31 1 (-1)], IssuesA i tS loadGid tGroup loadKernel)
    ∧ ntPending tS loadGid tGroup = false ∧ (translate tS 0 1 0x10000 .read).2.toOption = some ⟨0x10000, false, some 0⟩ ∧ monFault tS 1 0x10000 = none
    ∧ fabricReason tS 0 1 0x10000 = none ∧ fillPending tS loadGid 1 = false := by decide

theorem wit_OrderResults_wait : ∀ m ∈ [some (514, true), some (514, false)], let g := { tGroup with mon := m }
    IssuesA .mwait (tState g) loadGid g loadKernel := by decide

/-- A queue of context 1 with one record eligible, a plan of context 1 and its round. -/
def tQueue (g : Group) : State :=
  { tState g with
    queues := [(1023, { en := true, ctx := 1 }), (5, { en := true, pull := true, ctx := 1, res := [{ bytes := [1, 2], eligible := some 0 }] })]
    damask := { plans := [(1, { ctx := 1, comm := 1, rank := 0, nranks := 2 }), (2, { ctx := 1, comm := 2, rank := 0, nranks := 2 })], insts := [(0, { plan := 2 })] } }

/-- The group that submits: s1 the greatest queue number, s2 and s3 plan handles, s5 a queue to pull, s8 to s15 a record of kind 2. -/
def tSubmit : Group := { tGroup with s := [(1, 1023), (2, 1), (3, 2), (5, 5), (8, 2)] }

theorem wit_GroupSubmissions : let g := tSubmit
    let s := tQueue g
    ReleaseReady s loadGid g 3 ∧ (∀ i ∈ [Instr.enq 33 1 8, .gstart 33 2 8, .gsig 33 3 8], IssuesA i s loadGid g loadKernel)
      ∧ (rs g 1).toNat ≤ 1023 ∧ (queueOf s 1023).ctx = g.ctx ∧ (queueOf s 1023).en = true ∧ queueState (queueOf s 1023) ≠ 3 ∧ badRecord (recordRegs g 8) = false
      ∧ (plan? s 1).map (·.ctx) = some g.ctx ∧ (plan? s 2).map (·.ctx) = some g.ctx ∧ runningInst s 1 = none ∧ (runningInst s 2).isSome = true
      ∧ SMap.lowestFree s.damask.insts 0 64 = some 1 := by decide

-- DEQ from a queue that serves the group, from one that does not, and after it was woken.
theorem wit_GroupSubmissions_dequeue : ∀ w : Bool, let g := { tSubmit with woken := w }
    let s := tQueue g
    IssuesA (.deq 56 5) s loadGid g loadKernel ∧ IssuesA (.deq 8 1) s loadGid g loadKernel ∧ deqServes s 1 (rs g 5) = true ∧ deqServes s 1 (rs g 1) = false
      ∧ (readyHead s 5).isSome = true ∧ (∀ e ∈ s.groups, e.2.wake = some (.deq (rs g 5)) → e.2.st ≠ .blocked ∨ e.2.woken = true) := by decide

/-! ### Safe points, control registers, faults and handlers -/

-- SP outside a stub, in the stub of its entry, and in a handler; YIELD before and after its team was placed again.
theorem wit_SafePointResults : ∀ g ∈ [tGroup, { tGroup with stub := some (0, 3) }, { tGroup with st := .handler }],
    IssuesA (.sp 0) (tState g) loadGid g loadKernel := by decide

theorem wit_SafePointResults_yield : ∀ w : Bool, let g := { tGroup with replaced := w }
    IssuesA .yield (tState g) loadGid g loadKernel ∧ inHandler g = false ∧ g.woken = false ∧ loadKernel.coop = false := by decide

theorem wit_ControlRegisters : (∀ n < 14, IssuesA (.csrr 33 (BitVec.ofNat 6 n)) tS loadGid tGroup loadKernel ∧ IssuesA (.csrw 2 (BitVec.ofNat 6 n)) tS loadGid tGroup loadKernel) := by
  decide

-- A group with a vector; one without; one in a handler; one that a team stop has reached, before and after its first fault.
theorem wit_FaultEntry : grp? tS loadGid = some tGroup ∧ kern? tS tGroup.kern = some loadKernel ∧ tGroup.st ≠ .handler ∧ tGroup.stop = none ∧ tGroup.fvec ≠ 0xFFFFFFFF
    ∧ (∀ g ∈ [{ tGroup with st := .handler }, { tGroup with fvec := 0xFFFFFFFF }], grp? (tState g) loadGid = some g ∧ kern? (tState g) g.kern = some loadKernel)
    ∧ (∀ f ∈ [none, some { code := 0x02, pc := 0 }], let g : Group := { tGroup with stop := some { prior := .active, reason := 1, origin := 0, fault := f } }
      grp? (tState g) loadGid = some g ∧ g.stop.isSome = true)
    ∧ openWords (faultInside loadKernel tGroup { code := 0x02, pc := 0 }) { code := 0x02, pc := 0 } = [] := by decide

theorem wit_PrivilegeAndAlignmentTraps : let h := { tGroup with st := .handler }
    Acts tS loadGid tGroup loadKernel ∧ canIssue tGroup = true ∧ inHandler tGroup = false ∧ tGroup.afaults = [] ∧ Acts (tState h) loadGid h loadKernel ∧ canIssue h = true
      ∧ inHandler h = true ∧ (rs tGroup 3).toNat % 4 ≠ 0 ∧ (∀ i ∈ [Instr.jr 3, .callr 3, .lds 33 3 0, .ldsw 33 3 0], IssuesA i tS loadGid tGroup loadKernel) ∧ tGroup.fences = [] := by decide

theorem wit_PrivilegeAndAlignmentTraps_form : let g := { tGroup with follow := false }
    let f := { tGroup with spcnt := 64 }
    (∀ i ∈ [Instr.mwait, .join, .yield, .xpop 33], fate loadKernel g i = none ∧ spdistDue loadKernel g i = false) ∧ Acts (tState g) loadGid g loadKernel ∧ canIssue g = true
      ∧ loadKernel.hdr.spdist ≤ f.spcnt ∧ f.stub = none ∧ (∀ i ∈ [Instr.addi 33 1 0, .lds 33 1 0, .mwait], fate loadKernel f i = none) ∧ Acts (tState f) loadGid f loadKernel := by decide

theorem wit_TrapAndStop : (∀ i ∈ [Instr.trap 2, .brk, .tstop], IssuesA i tS loadGid tGroup loadKernel) ∧ inHandler tGroup = false ∧ tGroup.stop = none ∧ tGroup.fvec ≠ 0xFFFFFFFF := by decide

/-- A group in a handler after a load of two entries faulted with PAGE in lane 31: s16 and s17 a page and a lane key. -/
def tHandler : Group :=
  { tGroup with
    st := .handler, hFollow := true, frec := [(0, 0x02), (3, 0x20000), (5, 0x80000000)], retPc := 0x10104
    held := some { kind := .load {}, issue := 0xFFFFFFFF, entries := 2 }, h := [(1, 63), (2, 2), (3, 0)] }

theorem wit_HandlerInstructions : let s := tState tHandler
    (∀ i ∈ [Instr.rdfi 3 2, .femu 2 1, .fskip, .fpark 2 3, .hcall 3 1 2, .fmap 3], IssuesA i s loadGid tHandler loadKernel)
      ∧ (rs tHandler 1).toNat / 32 % 4 < 2 ∧ (faultLanes tHandler).getLsbD ((rs tHandler 1).toNat % 32) = true ∧ (dieSt s 0).preqs.length < 1024
      ∧ faultCode tHandler = 0x02 ∧ pendingMap s 1 (faultPage tHandler) = none := by decide

-- FPARK whose condition holds and one that must wait for its HCALL's response.
theorem wit_HandlerInstructions_park : parkMet (tState tHandler) tHandler (rs tHandler 2) (rs tHandler 3) = true
    ∧ let g := { tHandler with hcst := 2, h := [(2, 6)], woken := false }
      IssuesA (.fpark 2 3) (tState g) loadGid g loadKernel ∧ parkMet (tState g) g (rs g 2) (rs g 3) = false := by decide

-- HCALL with a page-request table that is full.
theorem wit_HandlerInstructions_full :
    let r : PageReq := { ctx := 1, page := 0, kind := 1, group := 0, arg := 0 }
    let s := { tState tHandler with dies := [(0, { preqs := (List.range 1024).map fun n => (n, r) })] }
    IssuesA (.hcall 3 1 2) s loadGid tHandler loadKernel ∧ 1024 ≤ (dieSt s (coreDie tHandler.core)).preqs.length := by decide +kernel

theorem wit_FaultReturn : ∀ i ∈ [Instr.fret, .fretSkip], (let g := { tHandler with held := none }
    IssuesA i (tState g) loadGid g loadKernel) ∧ let e : SaqEntry := { addr := allLanes.map fun l => (l, 0x10000), va := allLanes.map fun l => (l, 0x10000), mask := 0xFFFFFFFF, size := 16, count := 4 }
    let g := { tHandler with saq := List.replicate 28 {}, held := some { kind := .store e none, issue := 0xFFFFFFFF } }
    let s := { tState g with cores := [(0, { tlb := [{ loadTlb with fmt := some 16 }] })] }
    IssuesA i s loadGid g loadKernel ∧ saqFull g e = false ∧ e.rv = false ∧ badLanes (entryChecks (setGrp s loadGid (leaveHandler g)) (leaveHandler g) e).2 = [] := by decide +kernel

/-- A page request and an HCALL request of the group, at die 3. -/
def tRequests (g : Group) : State :=
  { tState g with dies := [(3, { preqs := [(7, { ctx := 1, page := 0x20000, kind := 1, group := loadGid, arg := 0 }),
                                           (8, { ctx := 1, page := 0, kind := 8, group := loadGid, arg := 5 })] })] }

theorem wit_HandlerEvents : let g := { tHandler with hcst := 2, preq := some 7, hcall := some 8 }
    grp? (tRequests g) loadGid = some g ∧ (findPreq (tRequests g) 7).map (fun x => (x.1, x.2.kind)) = some (3, 1) ∧ g.st = .handler ∧ faultCode g = 0x02
      ∧ faultPage g = 0x20000 / 4096 ∧ faultCside g = false ∧ (findPreq (tRequests g) 8).map (fun x => (x.1, x.2.kind, x.2.group)) = some (3, 8, loadGid)
      ∧ g.preq = some 7 ∧ g.hcall = some 8
      ∧ let w := { tHandler with st := .parked, wake := some (.fpark 2 1) }
        grp? (tState w) loadGid = some w ∧ parkMet (tState w) w 2 1 = true := by decide


/-! ### Lane instructions -/

/-- A group in a block: k1 and k2 hold small numbers, k3 the address of its team's barrier slot 0, k4 the image's base, and LQ
three complete entries. -/
def cGroup : Group :=
  { tGroup with
    cpos := some ⟨0, 0, []⟩, k := [(1, 3), (2, 0xFFFFFFFF), (3, 0x200000), (4, 0x10000)], v := [(32, 1), (65, 0x3F800000)],
    lq := List.replicate 3 { data := [(0, 5)], arrived := 0xFFFFFFFF, st := .complete } }

/-- All of these C-instructions issue in the block with their own effect. -/
def issueC (is : List Instr) : Bool := is.all fun i => decide (IssuesC i (tState cGroup) loadGid cGroup loadKernel ⟨0, 0, []⟩)

/-- The fields of a lane instruction of a type over v-registers, with its number of operands. -/
def vF (ty : BitVec 4) (n : Nat) : CFields :=
  { zeroC with ty := ty, d := 10, a := if 0 < n then 2 else 0, b := if 1 < n then 4 else 0, c := if 2 < n then 6 else 0 }

/-- The same with a control in the c field. -/
def vC (ty : BitVec 4) (n : Nat) (c : BitVec 8) : CFields := { vF ty n with c := c }

/-- The same with the destination SDQ. -/
def vQ (f : CFields) : CFields := { f with d := 0, dk := 2 }

/-- The same with a k-register destination. -/
def vK (f : CFields) : CFields := { f with d := 5, dk := 1 }

/-- The same with the destination XQ. -/
def vX (f : CFields) : CFields := { f with d := 0, dk := 3 }

theorem wit_IntegerLaneResults : (∀ ty ∈ [(0 : BitVec 4), 1, 2, 3, 4, 5, 11, 12], issueC [.vadd (vF ty 2), .vsub { vF ty 2 with mod := 1 }, .vmul (vF ty 2),
    .vmad { vF ty 3 with mod := 1 }, .vmulh (vF ty 2), .vmin (vF ty 2), .vmax (vF ty 2)]) ∧ (∀ ty ∈ [(0 : BitVec 4), 2, 4, 11], issueC [.vabs { vF ty 1 with mod := 1 }]) := by
  decide +kernel

-- Sources from LQ, popped and peeked, from a k-register, the lane number and the immediate; SDQ as the destination.
theorem wit_IntegerLaneResults_kinds : issueC [.vadd { vQ (vF 0 2) with a := 0, ak := 2, b := 1, bk := 2 }, .vadd { vF 11 2 with a := 0, ak := 2, b := 2, bk := 1 },
    .vmad { vF 1 3 with a := 2, ak := 2, bk := 3, b := 0, imm := -1, msel := 1, mreg := 2 }] := by decide +kernel

theorem wit_BitLaneResults : (∀ ty ∈ [(13 : BitVec 4), 11, 12], issueC [.vand (vF ty 2), .vor (vF ty 2), .vxor (vF ty 2)])
    ∧ (∀ ty ∈ [(0 : BitVec 4), 1, 2, 3, 4, 5, 11, 12], issueC [.vshl (vF ty 2), .vshr (vF ty 2), .vsar (vF ty 2)])
    ∧ (∀ ty ∈ [(1 : BitVec 4), 3, 5, 13], issueC [.vclz (vF ty 1), .vpopc (vF ty 1), .vbrev (vF ty 1)])
    ∧ issueC [.vbfe (vF 0 2), .vbfe (vF 1 2), .vbfi (vF 13 3), .vsel (vF 13 2), .vsel { vF 11 3 with c := 2, ck := 1 }] := by decide +kernel

theorem wit_CompareLaneResults : (∀ c < 6, ∀ ty ∈ [(0 : BitVec 4), 1, 11, 12], let f := vC ty 2 (BitVec.ofNat 8 c)
    issueC [.vicmp f, .vicmp (vK f), .vicmp (vX f)])
    ∧ ∀ c < 8, let f := vC 6 2 (BitVec.ofNat 8 c)
      issueC [.vfcmp f, .vfcmp (vK f), .vfcmp (vX f)] := by decide +kernel

theorem wit_FloatLaneResults : (∀ ty ∈ [(6 : BitVec 4), 7, 8], ∀ rnd < 4, let r : BitVec 2 := BitVec.ofNat 2 rnd
    issueC [.vfadd { vF ty 2 with rnd := r }, .vfsub { vF ty 2 with mod := 1 }, .vfmul (vF ty 2), .vfma { vF ty 3 with rnd := r }, .vfmin (vF ty 2), .vfmax (vF ty 2),
      .vfclass (vF ty 1), .vscale (vF ty 2)])
    ∧ issueC [.vfrcp (vF 6 1), .vfrsq (vF 6 1), .vfsqrt (vF 6 1), .vfexp2 (vF 6 1), .vflog2 (vF 6 1)]
    ∧ (∀ t ∈ [0, 6, 7, 9, 10], ∀ u < 11, issueC [.vcvt (vC (BitVec.ofNat 4 t) 1 (BitVec.ofNat 8 u)), .vcvt (vQ (vC (BitVec.ofNat 4 t) 1 (BitVec.ofNat 8 u)))])
    ∧ issueC [.vcvt (vC 6 1 (7 + 16)), .vcvt (vC 9 1 (6 + 48))] := by decide +kernel

-- The special values stand in the first element of an operand.
theorem wit_FloatLaneResults_values : ∀ v ∈ [0, 0x80000000, 0x7F800000, 0xFF800000, 0xBF800000], let g := { cGroup with v := [(64, BitVec.ofNat 32 v)] }
    let i := Instr.vfrcp (vF 6 1)
    elA (cEnv loadKernel g i) 0 0 = v ∧ IssuesC i (tState g) loadGid g loadKernel ⟨0, 0, []⟩ := by decide +kernel

-- One half and minus one half; opposite infinities; elements of a fragment that are finite.
theorem wit_ExactArithmetic : (FVal.num false 1 (-1) = .num false 1 (-1)) ∧ (FVal.num true 1 (-1)).rat = -1 / 2
    ∧ (∀ f ∈ [(0, fmtBf16), (1, fmtF16)], ∀ j < 16, (f.2.val (capElem [] 0 f.1 0 0 j)).isFinite = true ∧ (f.2.val (capElem [] 64 f.1 0 0 j)).isFinite = true) := by
  refine ⟨rfl, ?_, by decide +kernel⟩
  norm_num [FVal.rat]

theorem wit_RoundingIsCorrect : ∀ f ∈ [fmtF32, fmtF16, fmtBf16, fmtE5M2], ∀ rm ∈ [RMode.rne, .rtz, .rdn, .rup],
    (f.val (f.enc rm false (.num false 1 0))).isFinite = true ∧ (f.val 1).isFinite = true := by decide +kernel

-- Both forms of VQSWP; every reduction and prefix with its types; VTOPK of one and of every lane.
theorem wit_CrossLaneResults : issueC ([.vqswp (vC 13 1 3), .vqswp (vC 13 1 7), .vshfl (vF 13 2), .vbcast { vF 13 1 with b := 1, bk := 1 }, .vballot (vF 13 1),
      .vballot (vK (vF 13 1)), .vballot (vX (vF 13 1)), .vtopk (vC 0 1 1), .vtopk (vC 6 1 32), .kfromv { vK (vF 13 1) with b := 1, bk := 1 },
      .kfromv { vX (vF 13 1) with bk := 3, imm := 31 }, .vfromk { vF 13 0 with a := 2, ak := 1 }])
    ∧ (∀ c ∈ [0, 1, 2, 3, 4, 5, 6, 7], issueC [.vprefix (vC 0 1 (BitVec.ofNat 8 c)), .vprefix (vQ (vC 1 1 (BitVec.ofNat 8 c)))])
    ∧ (∀ x ∈ [(0, 0), (0, 1), (1, 2), (6, 0), (6, 2), (13, 3), (13, 4), (13, 5), (0, 5)], let f := vC (BitVec.ofNat 4 x.1) 1 (BitVec.ofNat 8 x.2)
      issueC [.vred f, .vred (vK f), .vred (vX f), .vqred f]) := by decide +kernel

theorem wit_CrossLaneResults_sums : ∀ ty ∈ [(0 : BitVec 4), 1], let e := cEnv loadKernel cGroup (.vred (vC ty 1 0))
    (e.ty = 0 ∨ e.ty = 1) ∧ e.f.mod = 0 := by decide +kernel

/-- The kernel in compatibility mode. -/
def cCompat : Kernel := { loadKernel with hdr := { loadKernel.hdr with flags := 1 } }

theorem wit_MaskMoveAndUniformResults : issueC [.nop zeroC, .end_ zeroC, .vmov (vF 13 1), .vmov { vF 11 0 with ak := 3, imm := 1 }, .vmov { vF 13 1 with d := 0x81, imm := 1 },
      .xset { zeroC with ty := 1, a := 2, c := 3 }, .xbound { zeroC with ty := 13, a := 1, ak := 1, bk := 3, imm := 255, c := 3 }, .emnarrow { zeroC with ty := 13, a := 1, ak := 1 },
      .emrestore { zeroC with ty := 13, ak := 3, imm := -1 }, .region { zeroC with d := 3, imm := 0x800001 }]
    ∧ (∀ c < 16, ∀ ty ∈ [(11 : BitVec 4), 12, 13], let f := { vK (vC ty 0 (BitVec.ofNat 8 c)) with a := 1, ak := 1, b := if 12 ≤ c ∧ c ≤ 14 then 0 else 2, bk := if 12 ≤ c ∧ c ≤ 14 then 0 else 1 }
      issueC [.kop f, .kop (vX f)]) := by decide +kernel

theorem wit_MaskMoveAndUniformResults_counters : ∀ i ∈ [Instr.nif { zeroC with ty := 13, a := 2 }, .nelse zeroC, .nend zeroC, .nbreak { zeroC with ty := 13, a := 2, c := 255 }],
    let g := { cGroup with ctr := [(1, 1), (2, 65535)] }
    IssuesC i { tState g with kernels := [(1, cCompat)] } loadGid g cCompat ⟨0, 0, []⟩ := by decide +kernel

theorem wit_PackResults : issueC [.vpack { vF 4 2 with mod := 1 }, .vpack (vF 5 2), .vpack (vC 6 1 1), .vpack (vC 6 1 7), .vpack { vC 6 1 6 with a := 244, d := 254 },
    .vunpk (vC 4 1 16), .vunpk (vC 5 1 0), .vunpk (vC 6 1 1), .vunpk (vC 6 1 7), .vunpk { vC 6 1 6 with a := 254, d := 244 }] := by decide +kernel

theorem wit_RecordFormats : (List.replicate 384 (FVal.num false 1 0)).length = 384 ∧ ∀ code ∈ [1, 2, 3, 4, 5, 7], ∀ x ∈ [0, 2 ^ mxWidth code - 1], x < 2 ^ mxWidth code := by
  decide +kernel

-- A 32-bit and a 64-bit result, an SDQ push, a k-register and an XQ result.
theorem wit_LaneWritesLand : let e (i : Instr) := cEnv loadKernel { cGroup with pend := [] } i
    ((e (.vadd (vF 0 2))).f.dk = 0 ∧ isPair (e (.vadd (vF 0 2))).ty = false ∧ latency (e (.vadd (vF 0 2))).i ≤ 2)
    ∧ ((e (.vmul (vF 11 2))).f.dk = 0 ∧ isPair (e (.vmul (vF 11 2))).ty = true ∧ latency (e (.vmul (vF 11 2))).i ≤ 4)
    ∧ (e (.vadd (vQ (vF 0 2)))).f.dk = 2 ∧ (e (.vballot (vX (vF 13 1)))).f.dk = 3 ∧ (e (.vballot (vK (vF 13 1)))).f.dk = 1 ∧ cGroup.pend = [] := by decide +kernel

/-- The kernel with checked stall counts. -/
def cChecked : Kernel := { loadKernel with hdr := { loadKernel.hdr with flags := 2 } }

-- A reserved type; an empty LQ; a source still owed; an index out of bounds; a bad register.
theorem wit_CStreamFaults : let st (k : Kernel) (g : Group) : State := { tState g with kernels := [(1, k)] }
    let held (k : Kernel) (g : Group) : Bool := decide (Acts (st k g) loadGid g k) && g.cpos == some ⟨0, 0, []⟩ && canIssueC g
    let clear (k : Kernel) (g : Group) (i : Instr) : Bool := held k g && !cIllegal k ⟨0, 0, []⟩ i && !cWaits g i (cEnv k g i)
    let i := Instr.vadd (vF 0 2)
    let j := Instr.vadd { vF 0 2 with a := 0x81, ak := 2 }
    let g1 := { cGroup with pend := [{ reg := .v 2, val := [], left := 1 }] }
    let g2 := { cGroup with badRegs := [(.v 4, 0x80000000)] }
    let g3 := { cGroup with xb := [(0, (0, 7))] }
    (held loadKernel cGroup = true ∧ cIllegal loadKernel ⟨0, 0, []⟩ (.vadd (vF 9 2)) = true)
    ∧ (let g := { cGroup with lq := [] }
      let w := Instr.vadd { vF 0 2 with a := 0, ak := 2 }
      held loadKernel g = true ∧ cIllegal loadKernel ⟨0, 0, []⟩ w = false ∧ cWaits g w (cEnv loadKernel g w) = true)
    ∧ (clear cChecked g1 i = true ∧ checkedStalls cChecked = true ∧ ((regsRead g1 i (cEnv cChecked g1 i).b (cEnv cChecked g1 i).lset).any fun r => (g1.pend.map (·.reg)).contains r.1) = true)
    ∧ (clear loadKernel g3 j = true ∧ checkedStalls loadKernel = false ∧ (boundFault loadKernel g3 j (cEnv loadKernel g3 j).lset).isSome = true)
    ∧ (clear loadKernel g2 i = true ∧ boundFault loadKernel g2 i (cEnv loadKernel g2 i).lset = none
      ∧ ((regsRead g2 i (cEnv loadKernel g2 i).b (cEnv loadKernel g2 i).lset).any (readBad g2.badRegs)) = true
      ∧ eccLanes g2.badRegs g2 i (cEnv loadKernel g2 i) = 0x80000000) := by decide +kernel

/-! ### The matrix unit -/

-- A multiply of each class, a move each way, a drain of every lane and of none, a drain into a window, and the batch instructions.
theorem wit_MatrixIssue : issueC ([(0 : BitVec 24), 0x10, 0x11, 0x32, 0x65, 0xA5, 0x99].map fun m => .mma { zeroC with ty := 6, a := 16, b := 48, imm := m })
    ∧ issueC [.mma { zeroC with a := 16, b := 48, imm := 0x44 }, .mma { zeroC with ty := 6, d := 3, a := 16, b := 48, c := 80, imm := 0x87 }, .mzero zeroC,
      .mload { zeroC with a := 16, imm := 7 }, .mstore { zeroC with d := 16, imm := 7 }, .mdrain { zeroC with b := 4, bk := 1, c := 3, ck := 1, imm := 0x43 },
      .mdrain { zeroC with b := 4, bk := 1, c := 3, ck := 1, msel := 1, mreg := 9, imm := 0x43 }, .mbf (vK zeroC), .mbf (vX zeroC), .mbw { zeroC with a := 1, ak := 1 },
      .mbw { zeroC with ak := 3, imm := 65535 }, .mbind { zeroC with ak := 1 }, .mbind { zeroC with a := 3, ak := 1, imm := 1 }]
    ∧ opRoom (tState cGroup) cGroup = true ∧ (∀ b ∈ cGroup.batches, b.n = 3 → b.open_ = []) := by decide +kernel

theorem wit_MatrixIssue_drain : let s := tState cGroup
    let e := cEnv loadKernel cGroup (.mdrain { zeroC with b := 4, bk := 1, c := 3, ck := 1, imm := 0x43 })
    let e0 := cEnv loadKernel cGroup (.mdrain { zeroC with b := 4, bk := 1, c := 3, ck := 1, msel := 1, mreg := 9, imm := 0x43 })
    let b := checkBarrier s (cView cGroup) 1 (kReg cGroup 3)
    let d := drainDest b.1 (cView cGroup) 0 (kReg cGroup 4) 3
    let n := newSerial d.1
    let r := cmdRanges n.2 0 1 [⟨0, (kReg cGroup 4).toNat, 64 * drainRow 3, true⟩]
    e.lset ≠ 0 ∧ e0.lset = 0 ∧ b.2.toOption = some (.scratch 0x200000) ∧ d.2.toOption.map (·.1) = some 0x10000
      ∧ (lockAll r.1 0 (.engine n.1) r.2.1).map (fun x => (SMap.find? x.ctxs 1).isSome) = some true := by decide +kernel

/-- The package with a loaded window, number 0, whose alias the page of k4 translates to. -/
def tWindow (g : Group) : State :=
  { tState g with
    damask := { plans := [(1, { ctx := 1, comm := 1, rank := 0, nranks := 2 })], wins := [(0, { plan := 1, idx := 0, desc := { length := 16384 } })] }
    cores := [(0, { tlb := [{ loadTlb with pa := 0x20000000000 }, { loadTlb with va := 0x11000, pa := 0x20000001000 }, { loadTlb with va := 0x12000, pa := 0x20000002000 },
      { loadTlb with va := 0x13000, pa := 0x20000003000 }] })] }

theorem wit_MatrixIssue_window : let s := tWindow cGroup
    let i := Instr.mdrainWindow { zeroC with b := 4, bk := 1, msel := 1, mreg := 1, imm := 0x4F }
    let d := drainWindow s (cView cGroup) (kReg cGroup 4)
    IssuesC i s loadGid cGroup loadKernel ⟨0, 0, []⟩ ∧ opRoom s cGroup = true ∧ d.2.toOption.map (fun x => x.length) = some 16384
      ∧ (windowPages d.1 (cView cGroup) (kReg cGroup 4) 4 (drainOffsets (laneRows (cEnv loadKernel cGroup i).lset) 4)).2.toOption.isSome = true := by decide +kernel

/-- The group with one operation of each kind under way. -/
def tOps (k : MKind) : Group := { cGroup with mops := [{ id := 9, kind := k, tile := 3, lanes := 0xFFFFFFFF }] }

theorem wit_MatrixCompletion : ∀ k ∈ [MKind.mzero, .mload 7, .mma 4 4, .mma 0 0, .mstore 7 16, .mdrain 5], let g := tOps k
    let s := tState g
    let o : MOp := { id := 9, kind := k, tile := 3, lanes := 0xFFFFFFFF }
    grp? s loadGid = some g ∧ (g.mops.find? fun x => x.id = 9) = some o ∧ opFirst s g o = true ∧ tileErrors s g (tileAt s g o.tile) o.kind = 0 ∧ g.stop = none := by
  decide +kernel

-- A complete batch, unbound and bound to the team's barrier slot 0; a drain whose rows are captured.
theorem wit_MatrixCompletion_batch : let g := { tOps .mzero with batches := [{ n := 1 }, { n := 2, bound := some (0x200000, 1) }] }
    (g.batches.find? fun x => x.n = 1).map (fun b => (b.open_, b.bound)) = some ([], none)
      ∧ (g.batches.find? fun x => x.n = 2).map (fun b => (b.open_, b.bound)) = some ([], some (0x200000, 1))
      ∧ scratchLoc (tState g) g 0x200000 32 = some (.scratch 0x200000) := by decide +kernel

/-! ### Odnar and Damask -/

/-- A plan of three ranks, this one rank 1, with a REDUCE window of FP32 and a window of bytes, and one program word. -/
def oPlan (i : Instr) (bufs : List DMsg) : Plan :=
  { ctx := 1, comm := 9, rank := 1, nranks := 3, prog := [(encodeO i).getD 0], locs := [(0, 0), (0, 0), (0, 0)], wins := [0, 1], bufs := bufs }

/-- An instance of it: g1 a peer, g2 a chunk, g3 a barrier, g4 a place in memory, g6 a destination. -/
def oInst : Inst := { plan := 1, g := [(1, 2), (3, 0x20000), (4, 0x40000), (6, 2)], registered := true }

/-- The package in which that instance executes `i` under identity page tables. -/
def oState (i : Instr) (p : Plan) (x : Inst) : State :=
  { tState tGroup with
    cur := .damask 0, mem := [(0x4000, 0xDF)], parts := [(0, { partOf State.reset 0 with hbase := 0, hlen := 0x1000000 })]
    damask := { plans := [(1, { p with prog := [(encodeO i).getD 0] })], insts := [(0, x)]
                wins := [(0, { plan := 1, idx := 0, desc := { kind := 2, store := 1, dest := 1, dva := 0x30000, bva := 0x20000 } }),
                         (1, { plan := 1, idx := 1, desc := { dva := 0x38000, bva := 0x20000 } })] } }

/-- The REDUCE window of `oState`. -/
def oWin : Win := { plan := 1, idx := 0, desc := { kind := 2, store := 1, dest := 1, dva := 0x30000, bva := 0x20000 } }

/-- Fields: g[d] the peer of a second message, g[a] the peer, g[b] chunk 0, window 0. -/
def oF : OFields := { zeroO with d := 6, a := 1, b := 2 }

-- Every instruction of the family, its controls at their ends, at an instance that executes.
theorem wit_OdnarControlResults : ∀ i ∈ [Instr.odnarNop zeroO, .setg { oF with a := 0, b := 0, f := 12 }, .addg { oF with f := 7 }, .peer { oF with b := 0, f := 4, imm := 64 }, .chunk { oF with f := 2 },
    .waitWin zeroO, .loop { oF with d := 3 }, .endl { zeroO with d := 3 }, .brg { oF with f := 6 }, .match_ oF, .waitSig oF, .waitTime oF, .bset oF, .tstart oF, .waitBar oF, .signal oF, .signalSub oF,
    .yieldc zeroO, .ackw zeroO, .odnarEnd zeroO], let p := oPlan i []
    RunsO (oState i p oInst) 0 oInst p ∧ planWin (oState i p oInst) p 0 = some (0, oWin) ∧ skewedRank (oState i p oInst) p = none ∧ oInst.timed = none
      ∧ p.prio < 4 ∧ (barrierHome (oState i p oInst) p.ctx oWin.desc.bva).2.toOption.isSome = true ∧ 0 < p.chunk ∧ oInst.acked.contains 0 = false ∧ { oInst with acked := [0] }.acked.contains 0 = true := by decide +kernel

-- A barrier that passes its check and one that is misaligned; a time ahead, now and past; each BRG test both ways.
theorem wit_OdnarControlResults_cases : let i := Instr.waitBar { zeroO with a := 3, f := 3 }
    let s := oState i (oPlan i []) oInst
    (barrierHome s 1 (gReg oInst 3)).2.toOption = some (.phys 0x20000 false) ∧ (barrierHome s 1 (gReg oInst 1)).2.toOption = none
      ∧ s.now / 17 < (gReg oInst 1).toNat ∧ (gReg oInst 2).toNat = s.now / 17
      ∧ (let t := { s with now := 17 * 3 }
        (gReg oInst 1).toNat < t.now / 17)
      ∧ gReg oInst 1 ≠ gReg oInst 2 ∧ gReg oInst 1 = gReg oInst 6 := by decide +kernel

/-- A message of the round from rank 2, chunk 0, tag 0. -/
def oMsg (form : DForm) (items : List (Option (BitVec 32))) : DMsg :=
  { comm := 9, seq := 0, source := 2, dest := 1, chunk := 0, tag := 0, origin := 2, window := 0, form := form, items := items }

/-- Data steps that begin on datapath 0, at window 0 or 1, with a message held. -/
def oBegins (i : Instr) (p : Plan) (x : Inst) : Bool := decide (StepBegins (oState i p x) 0 0 x { p with prog := [(encodeO i).getD 0] } i)

theorem wit_OdnarDataSteps : ∀ m ∈ [oMsg .fp32 [some 0x3F800000, none], oMsg .wire [some 127, some 0x38], oMsg .raw [some 1]],
    ∀ i ∈ [Instr.sendAcc oF, .sendOwn { oF with f := 1 }, .sendMem { oF with d := 4, f := 2, imm := 1 }, .recvAcc oF, .recvAcc { oF with imm := 1 }, .recvDest { oF with f := 1, imm := 1 },
      .rrs oF, .copyOwn { zeroO with b := 2 }, .copyDest { oF with f := 1 }, .copyLoad { oF with a := 2, b := 4, f := 2, imm := 1 }, .copyStore { oF with a := 2, b := 4, f := 3 },
      .combine oF, .forward oF, .forward { oF with f := 1 }], oBegins i (oPlan i [m]) oInst = true ∧ namedMsg (oPlan i [m]) oInst oF = some m := by decide +kernel

-- The peer is reached, the memory is read and written, the forms have elements, and the windows are of both kinds.
theorem wit_OdnarDataSteps_cases : let i := Instr.sendMem { oF with d := 4, f := 2, imm := 1 }
    let p := oPlan i [oMsg .fp32 [some 0x3F800000, none]]
    let s := oState i p oInst
    let t := stepBegun s 0 0 oInst p i
    Routed s p 2 ∧ oInst.accRaw = false ∧ (planWin s p 0).map (fun w => (w.2.desc.kind, w.2.desc.wire)) = some (2, 0) ∧ (planWin s p 1).map (fun w => w.2.desc.kind) = some 1
      ∧ (damRead t p (gReg oInst 4).toNat 8).2.toOption = some (List.replicate 8 0) ∧ (damWrite t p 0x38000 [1, 2]).1.isSome = true
      ∧ (damWrite t p (destAt p oWin p.rank 0) (List.replicate 8 0)).1.isSome = true ∧ (msgElems .fp32 [some 0x3F800000, none]).isSome = true := by
  refine ⟨Or.inl (by decide), ?_⟩
  decide +kernel

/-- The plan of a communicator of one rank, for the SCALEX of a root without children. -/
def oAlone (i : Instr) : Plan := { oPlan i [] with rank := 0, nranks := 1, locs := [(0, 0)] }

theorem wit_OdnarDataSteps_scale : let i := Instr.scalex { zeroO with a := 2, imm := 0x200000 }
    oBegins i (oAlone i) oInst = true ∧ (oAlone i).rank = 0 ∧ (oAlone i).nranks ≤ 1 ∧ oInst.scale = 0 := by decide +kernel

-- A datapath whose step is over, with a ready instance and with none.
theorem wit_OdnarDataSteps_path : let i := Instr.copyOwn { zeroO with b := 2 }
    let s := oState i (oPlan i []) oInst
    let j := Instr.odnarNop zeroO
    let t := oState j (oPlan j []) oInst
    let ends (u : State) : State × State :=
      let v : State := { u with damask := { u.damask with paths := [(5, (9, 0))] } }
      (v, { v with damask := { v.damask with paths := SMap.erase v.damask.paths 5 } })
    (∀ u ∈ [ends s, ends t], SMap.find? u.1.damask.paths 5 = some (9, 0) ∧ 0 ≤ u.1.now ∧ freePath u.2 = some 0)
      ∧ chosen (ends s).2 0 = some 0 ∧ (readyStep (ends s).2 0).isSome = true ∧ chosen (ends t).2 0 = none := by decide +kernel

/-- The package with a store, a message, a credit and a notice on their way to the member. -/
def oArrivals (i : Instr) : State :=
  let s := oState i (oPlan i []) { oInst with timed := some 0, began := 0 }
  { s with
    now := 17000 * 1000000
    fabric := { s.fabric with
      stores := [(5, { core := 0, window := 1, plan := 1, items := [(0, 1), (1, 2)], closes := 1 })]
      msgs := [(6, oMsg .raw [some 1]), (7, { oMsg .raw [some 1] with seq := 1 })], credits := [(8, { comm := 9, from_ := 2, to_ := 1 })]
      notes := [(9, { comm := 9, seq := 0, dest := 1, member := 2 })] } }

theorem wit_DamaskEvents : let i := Instr.tstart { zeroO with d := 6 }
    let s := oArrivals i
    let p := oPlan i []
    let x : Inst := { oInst with timed := some 0 }
    inst? s 0 = some x ∧ plan? s x.plan = some p ∧ (∀ st w, SMap.find? s.fabric.stores 5 = some st → SMap.find? s.damask.wins 1 = some w →
        st.window = 1 ∧ w.plan = st.plan ∧ w.closes < w.desc.closers ∧ w.desc.kind ≠ 2 ∧ (st.items.map (·.1)).Nodup ∧ storeBehind s 5 st = false)
      ∧ (SMap.find? s.fabric.stores 5).isSome = true ∧ (SMap.find? s.damask.wins 1).isSome = true
      ∧ memberPlan s 9 1 = some (1, p) ∧ runningInst s 1 = some (0, x) ∧ (SMap.find? s.fabric.msgs 6).map (·.seq) = some x.seq ∧ x.keys = [] ∧ x.senders.length < p.fanin
      ∧ (SMap.find? s.fabric.msgs 7).map (fun m => decide (p.seq < m.seq)) = some true ∧ (SMap.find? s.fabric.credits 8).isSome = true
      ∧ (SMap.find? s.fabric.notes 9).map (fun d => (d.seq, x.noticed.contains d.member)) = some (0, false) ∧ allAcked p x = false
      ∧ fetchO s 0 = some i ∧ x.timed.map (·.toNat) = some 0 ∧ fetchO (oArrivals (.waitTime { zeroO with f := 2 })) 0 = some (.waitTime { zeroO with f := 2 })
      ∧ onPath s 0 = false ∧ x.began + 17000 * p.limit ≤ s.now := by
  refine ⟨by decide, by decide, ?_, ?_⟩
  · rintro st w h1 h2
    cases h1
    cases h2
    decide
  · decide +kernel

/-! ### Mailboxes and registers -/

/-- The package with its mailboxes open, partition 0 hosted by the host, and one context of the host's. -/
def mState (c : Context) (fields : List (Nat × Nat × Nat)) : State :=
  { tState tGroup with
    ctxs := [(1, c)], parts := [(0, { partOf State.reset 0 with hosting := 1, hbase := 0, hlen := 0x1000000 })]
    imqua := { booted := true, host := { bytes := fields.foldl (fun m f => boxPut m f.1 (natToBytes f.2.1 f.2.2)) [] } } }

/-- The host's command passes what every command passes, as request 7. -/
def mCommand (s : State) (code : Nat) : Bool :=
  let cmd := boxCmd (boxOf s .host)
  boxOpen s .host && !(boxOf s .host).busy && !s.imqua.safe && zeroAt cmd 10 6 && recField cmd 0 8 == 7 && recField cmd 8 2 == code && (entry? s .host 7).isNone

/-- The head of a command record. -/
def mHead (code : Nat) : List (Nat × Nat × Nat) := [(0, 8, 7), (8, 2, code)]

-- Commands that need no more than the head: PING, RESET from a mailbox that may and from one that may not, MARGIN_REPORT and an unlisted code.
theorem wit_MailboxCommands : (∀ code ∈ [0x0001, 0x0002, 0x0041], mCommand (mState loadCtx (mHead code)) code = true) ∧ mCommand (mState loadCtx (mHead 0xFFFF)) 0xFFFF = true
    ∧ listedCode 0xFFFF = false ∧ mayReset (mState loadCtx (mHead 0x0002)) .host = true ∧ begun (mState loadCtx (mHead 0x0002)) = []
    ∧ mayReset { mState loadCtx (mHead 0x0002) with parts := [(0, { partOf State.reset 0 with hosting := 3 })] } .host = false := by decide +kernel

-- QUERY of a request in the journal and of one that is not.
theorem wit_MailboxCommands_query : let s := mState loadCtx (mHead 0x0050 ++ [(16, 8, 5)])
    let t := { s with imqua := { s.imqua with journal := [{ box := .host, id := 5, cmd := [], reply := some (0, []) }] } }
    mCommand s 0x0050 = true ∧ mCommand t 0x0050 = true ∧ (entry? t .host 5).isSome = true ∧ entry? s .host 5 = none := by decide +kernel

-- PART_SET of partition 1, and of a partition to dissolve.
theorem wit_MailboxCommands_partition : let s := mState loadCtx (mHead 0x0010 ++ [(16, 1, 1), (17, 1, 2), (24, 8, 3), (120, 8, 0x40000000), (128, 8, 0x40000000), (140, 1, 8)])
    let cmd := boxCmd (boxOf s .host)
    let new := askedPart s cmd
    mCommand s 0x0010 = true ∧ partLimits cmd = true ∧ new.hosting = 2 ∧ (∀ e ∈ s.parts, e.1 ≠ 1 → partsOverlap e.2 new = false) ∧ partCtxs s 1 = []
      ∧ losesCore s (partOf s 1) new = false ∧ losesRange (partOf s 1) new = false
      ∧ ((List.range 4).mapM (placeShare s 1 (partOf s 1) new)).toOption = some [0, 255, 255, 255] := by decide +kernel

theorem wit_MailboxCommands_dissolve : let s := mState loadCtx (mHead 0x0010 ++ [(16, 1, 2)])
    let cmd := boxCmd (boxOf s .host)
    mCommand s 0x0010 = true ∧ partLimits cmd = true ∧ (askedPart s cmd).hosting = 0 ∧ partCtxs s 2 = [] := by decide +kernel

theorem wit_MailboxCommands_create : let s := mState loadCtx (mHead 0x0020 ++ [(24, 8, 0x4000), (32, 8, 0x8000), (48, 8, 0x100000), (56, 1, 20), (64, 8, 0x800000), (80, 8, 0xA00000), (88, 8, 8192),
      (96, 8, 0xB00000), (104, 4, 16), (112, 8, 0xC00000), (120, 8, 0xD00000), (128, 4, 64), (136, 8, 1)])
    let cmd := boxCmd (boxOf s .host)
    mCommand s 0x0020 = true ∧ hosts (partOf s 0) .host = true ∧ (askedCtx .host cmd).part = 0 ∧ ctxLimits .host cmd = true ∧ ctxRanges s (askedCtx .host cmd) = true
      ∧ ((List.range 4).map (· + 1)).find? (numberFree s) = some 2 := by decide +kernel

-- CTX_DESTROY of a context with a key slot; KEY_SET in mode 1 and, without a session, in mode 2.
theorem wit_MailboxCommands_context : let s := mState { loadCtx with slot := 3 } (mHead 0x0021 ++ [(16, 2, 1)])
    let k (mode : Nat) : State := mState { loadCtx with keyed := true, state := .created } (mHead 0x0022 ++ [(16, 2, 1), (18, 1, mode)])
    mCommand s 0x0021 = true ∧ owns s .host 1 = true ∧ (ctxOf s 1).slot ≠ 0
      ∧ (∀ mode ∈ [1, 2], mCommand (k mode) 0x0022 = true ∧ owns (k mode) .host 1 = true ∧ (ctxOf (k mode) 1).keyed = true ∧ (ctxOf (k mode) 1).state = .created
        ∧ (ctxOf (k mode) 1).conf = false ∧ (ctxOf (k mode) 1).session = none)
      ∧ ((List.range 4).map (· + 1)).find? (fun n => !((k 1).ctxs.any fun e => decide (e.2.slot = n) && e.2.state != .destroyed)) = some 1 := by decide +kernel

/-- The image of a plan of one rank and one END, at 0x40000. -/
def mImage : List Byte :=
  padTo 64 (natToBytes 2 1 ++ natToBytes 2 1 ++ natToBytes 2 0 ++ natToBytes 1 0 ++ natToBytes 1 1 ++ natToBytes 4 5 ++ natToBytes 12 0 ++ natToBytes 4 64 ++ natToBytes 2 1 ++ natToBytes 1 1
    ++ natToBytes 1 0 ++ natToBytes 4 72 ++ natToBytes 4 0) ++ natToBytes 8 ((encodeO (.odnarEnd zeroO)).getD 0).toNat ++ natToBytes 8 0x10000

theorem wit_MailboxCommands_plan : let s := { mState loadCtx (mHead 0x0030 ++ [(16, 2, 1), (24, 8, 0x40000), (32, 4, 80), (40, 8, 0x41000), (48, 8, 64)]) with
      mem := boxPut [] 0x40000 mImage }
    let cmd := boxCmd (boxOf s .host)
    let x := planImage s 1 (memBytes s (slotOf s 1) 0x40000 80)
    mCommand s 0x0030 = true ∧ owns s .host 1 = true ∧ zeroAt cmd 18 6 = true ∧ zeroAt cmd 36 4 = true ∧ zeroAt cmd 56 200 = true ∧ inHbm s 1 0x40000 80 = true
      ∧ inHbm s 1 0x41000 64 = true ∧ s.damask.plans.length < 256 ∧ x.map (fun x => (barsOk s 1 x.descs).2) = some true
      ∧ x.map (fun x => (memberPlan s x.plan.comm x.plan.rank, stagingNeed x, pickChannel s x.plan, decide ((openWins s x.descs.length).length = x.descs.length)))
        = some (none, 64, some 0, true) := by decide +kernel

theorem wit_MailboxCommands_unload : let s := { mState loadCtx (mHead 0x0031 ++ [(16, 4, 1)]) with damask := { plans := [(1, oAlone (.odnarEnd zeroO))] } }
    mCommand s 0x0031 = true ∧ (plan? s 1).map (fun p => owns s .host p.ctx) = some true := by decide +kernel

-- ATTEST of context 0, into the register block and into memory.
theorem wit_MailboxCommands_attest : ∀ at_ ∈ [0, 0x50000], let s := mState loadCtx (mHead 0x0040 ++ [(56, 8, at_)])
    let cmd := boxCmd (boxOf s .host)
    mCommand s 0x0040 = true ∧ zeroAt cmd 18 6 = true ∧ zeroAt cmd 96 160 = true ∧ recField cmd 64 32 = 0 ∧ recField cmd 56 8 = at_ ∧ evidencePlace s .host 0 at_ = true := by
  decide +kernel

-- Request 0; a request in the journal; safe mode; a context of another's; a mailbox that is busy; nothing begun.
theorem wit_MailboxReplies : ∀ code ∈ [0x0002, 0x0010, 0x0020, 0x0021, 0x0022, 0x0030, 0x0031, 0x0040, 0x0041], let s := mState loadCtx (mHead code ++ [(16, 2, 9)])
    let z := mState loadCtx [(8, 2, code)]
    let j := { s with imqua := { s.imqua with journal := [{ box := .host, id := 7, cmd := [], reply := some (0, []) }] } }
    mCommand s code = true ∧ boxOpen z .host = true ∧ recField (boxCmd (boxOf z .host)) 0 8 = 0 ∧ (boxOf z .host).busy = false ∧ (entry? j .host 7).isSome = true
      ∧ owns s .host (recField (boxCmd (boxOf s .host)) 16 2) = false ∧ begun j = [] := by decide +kernel

theorem wit_MailboxReplies_safe : let s := mState loadCtx []
    let t := { s with imqua := { s.imqua with safe := true, booted := false, hc := { bytes := (mHead 0x0010).foldl (fun m f => boxPut m f.1 (natToBytes f.2.1 f.2.2)) [] } } }
    boxOpen t .hc = true ∧ t.imqua.safe = true ∧ safeCode (recField (boxCmd (boxOf t .hc)) 8 2) = false ∧ recField (boxCmd (boxOf t .hc)) 0 8 = 7
      ∧ (boxOf { s with imqua := { s.imqua with host := { busy := true } } } .host).busy = true := by decide +kernel

/-- Queue 5 of the host's context, idle and not. -/
def mQueue (q : Queue) : State := { mState loadCtx [] with queues := [(5, q)] }

theorem wit_RegisterWrites : owns (mQueue {}) .host 1 = true ∧ queueIdle {} = true ∧ queueIdle { en := true, ctx := 1 } = false ∧ queueIdle { ctx := 1 } = true
    ∧ qctlCtx 0x1000000000 = 1 ∧ (queueOf (mQueue {}) 5).ctx = 0 ∧ (queueOf (mQueue { ctx := 1 }) 5).ctx = 1 ∧ owns (mQueue { ctx := 1 }) .host (queueOf (mQueue { ctx := 1 }) 5).ctx = true
    ∧ (16 : Word).getLsbD 4 = true ∧ linkUp (linkOf { mQueue {} with links := [(0, { state := .up })] } 0) = true := by decide +kernel

/-- A context of a state, and a group of it stopped or not. -/
def mCtl (st : CState) (g : Group) : State := { mState { loadCtx with state := st, saveLen := 0x1000000 } [] with groups := [(loadGid, g)] }

/-- A saved context's image of no teams, in its save pool. -/
def mSaved : State := { mState { loadCtx with state := .saved, cimg := 0xA00000 } [] with groups := [], mem := [(0xA00000, 1), (0xA00002, 1), (0xA00009, 1)] }

theorem wit_ControlBlockActions : owns (mCtl .running tGroup) .host 1 = true ∧ (ctxOf (mCtl .running tGroup) 1).state = .running ∧ (ctxOf (mCtl .saved tGroup) 1).state = .saved
    ∧ (∀ e ∈ ctxGroups (mCtl .loaded tGroup) 1, e.2.stop = none) ∧ saveWorst (mCtl .loaded tGroup) 1 ≤ poolFree (ctxOf (mCtl .loaded tGroup) 1)
    ∧ ¬ (∀ e ∈ ctxGroups (mCtl .loaded { tGroup with stop := some { prior := .active, reason := 1, origin := 0 } }) 1, e.2.stop = none)
    ∧ (let s := mCtl .loaded { tGroup with stop := some { prior := .blocked, reason := 1, origin := 0 }, st := .stopped, yreq := true }
      stoppedTeam s (loadGid, { tGroup with stop := some { prior := .blocked, reason := 1, origin := 0 }, st := .stopped, yreq := true }) = true
        ∧ ∀ e ∈ s.groups, e.2.afaults = [] ∧ ∀ x, e.2.stop = some x → x.fault = none) := by
  refine ⟨by decide, by decide, by decide, by decide, by decide +kernel, by decide, by decide, ?_⟩
  intro e h
  simp only [mCtl, List.mem_singleton] at h
  subst h
  refine ⟨rfl, fun x hx => ?_⟩
  cases hx
  rfl

-- SAVE with no room in the save pool.
theorem wit_ControlBlockActions_room : let s := { mState { loadCtx with saveLen := 0 } [] with teams := [(teamKey 1 0, { span := 0, placed := true })] }
    (∀ e ∈ ctxGroups s 1, e.2.stop = none) ∧ poolFree (ctxOf s 1) < saveWorst s 1 := by decide +kernel

theorem wit_ControlBlockActions_restore : let s := mSaved
    let c := ctxOf s 1
    let rd (o k : Nat) : Nat := memNat s c.slot (c.cimg.toNat + o) k
    c.state = .saved ∧ c.cimg.toNat % 4096 = 0 ∧ imagePlace s c c.cimg.toNat 256 = true ∧ badRun s c.cimg.toNat 256 = false
      ∧ imagePlace s c c.cimg.toNat (Nat.max 256 (Nat.min (rd 8 8) c.saveLen)) = true ∧ badRun s c.cimg.toNat (Nat.min (rd 8 8) c.saveLen) = false ∧ imageRecs s 1 rd = some []
      ∧ capacityFail s 1 rd [] = none := by decide +kernel

/-- Migration slot 3 of the package, whose page tables map the page of 0x60000 to itself. -/
def mMigr (m : Migr) : State :=
  { mState loadCtx [] with
    migr := [(3, m)]
    mem := [(0x4000, 1), (0x4001, 0x14), (0x5000, 1), (0x5001, 0x18), (0x6000, 1), (0x6001, 0x1C), (0x7000, 1), (0x7001, 0x24), (0x9300, 0xDF), (0x9301, 0x80), (0x9302, 1)] }

-- A slot that is free, one claimed, with a page to move and with none, one that has moved, one that is moving.
theorem wit_ControlBlockActions_migration : let m : Migr := { ctx := 1, va := 0x60000, dst := 0x70000 }
    let s := mMigr m
    (migrOf (mMigr {}) 3).ctx = 0 ∧ (migrOf (mMigr {}) 3).state = 0 ∧ (migrOf (mMigr {}) 3).waiting = false ∧ migrSource s m = some 0x60000
      ∧ migrSource (mMigr { m with va := 0x61000 }) { m with va := 0x61000 } = none ∧ isHbm (m.dst + migrBytes 0 - 1) = true ∧ isHbm (2 ^ 63 + migrBytes 0 - 1) = false ∧ anyLocked s 0x60000 (migrBytes 0) = false
      ∧ anyLocked s m.dst (migrBytes 0) = false
      ∧ (lockAll s 0 (.migration 3) [⟨m.va.toNat, lockPlace 0x60000, 0x60000, migrBytes 0, true⟩, ⟨m.va.toNat, lockPlace m.dst, m.dst, migrBytes 0, true⟩]).isSome = true
      ∧ (migrOf (mMigr { m with state := 2 }) 3).state = 2 ∧ (migrOf (mMigr { m with state := 1 }) 3).state = 1 := by decide +kernel

/-- The partition with a fence request in the host's mailbox at 0x80000, and perhaps a fence under way. -/
def mFence (fs : List FenceReq) : State :=
  let s := mState loadCtx []
  { s with parts := [(0, { partOf s 0 with up := { mailbox := 0x80000 }, fencing := fs })], mem := [(0x80000, 1), (0x80008, 1)] }

theorem wit_FencesAndCopies : let s := mFence []
    let r := readFence s .host 0x80000
    let t := mFence [r]
    hosts (partOf s 0) .host = true ∧ (proxyOf (partOf s 0) .host).mailbox = 0x80000 ∧ (partOf s 0).fencing = [] ∧ memNat s 0 (0x80000 + 40) 8 ≠ r.seq.toNat ∧ r.bad = false
      ∧ (partOf t 0).fencing.find? (fun x => x.who = .host) = some r ∧ r.wait.all (finished (flushAll t)) = true
      ∧ settledPart (flushAll t) 0 = true ∧ readFence (flushAll t) .host 0x80000 = { r with wait := [] }
      ∧ (let b := { r with wait := [(loadGid, 1)] }
        let u := { mFence [b] with groups := [(loadGid, { tGroup with loads := [{ lanes := 1 }] })] }
        (partOf u 0).fencing.find? (fun x => x.who = .host) = some b ∧ b.wait.all (finished (flushAll u)) = false) := by decide +kernel

theorem wit_FencesAndCopies_copy : let m : Migr := { ctx := 1, rctx := 1, state := 1, src := 0x60000, to_ := 0x70000 }
    let s := mMigr m
    let z := migrBytes 0
    let u := evictEverywhere (evictEverywhere s 0x60000 z) 0x70000 z
    (migrOf s 3).waiting = false ∧ (migrOf s 3).state = 1 ∧ (migrOf s 3).wait.all (finished s) = true ∧ (migrOf s 3).bar = 0 ∧ (migrOf s 3).rsize = 0
      ∧ onWay u 0x60000 z = false ∧ onWay u 0x70000 z = false ∧ badRun u 0x60000 z = false ∧ inStruct u m.rctx 0x60000 z = true ∧ inStruct u m.rctx 0x70000 z = true := by decide +kernel

/-! ### Queues, kernels, graphs, groups, the fabric and links -/

/-- The package under identity page tables, with a core and a die for partition 0. -/
def qBase : State :=
  let s := mState loadCtx []
  { s with mem := [(0x4000, 0xDF)], parts := [(0, { partOf s 0 with masks := [1, 0, 0, 0] })], queues := [], groups := [], teams := [], kernels := [] }

/-- Queue 5 of that package. -/
def qState (q : Queue) : State := { qBase with queues := [(5, q)] }

/-- A resident record of kind 1, eligible, and a queue that is full. -/
def qRec : Resident := { bytes := natToBytes 64 1, eligible := some 0 }
def qFull : Queue := { en := true, ctx := 1, res := List.replicate 16 qRec }

-- A write that is no record, one to a disabled queue, to a full one, a malformed one, one accepted in a resident place and one spilled.
theorem wit_QueueEvents : isEnq (0x30000000000 + 64 * 5) = true ∧ (natToBytes 64 1).length = 64 ∧ badRecord (natToBytes 64 1) = false ∧ badRecord (natToBytes 64 0) = true
    ∧ (queueOf (qState {}) 5).en = false ∧ queueState qFull = 3 ∧ queueState { qFull with quota := 4 } ≠ 3 ∧ queueState { en := true } ≠ 3 ∧ 16 ≤ qFull.res.length
    ∧ (queueOf (qState qFull) 5).en = true ∧ (queueOf (qState qFull) 5).res = qRec :: List.replicate 15 qRec := by decide +kernel

theorem wit_QueueEvents_handover : let s := qState qFull
    bestQueue s (s.queues.map (·.1)) = some (5, 0, 0) ∧ readyHead s 5 = some qRec ∧ recField qRec.bytes 0 2 = 1 ∧ recField qRec.bytes 24 8 = 0 := by decide +kernel

/-- A copy of 64 bytes that has not registered, and one that has. -/
def qCopy (reg : Bool) : EngCmd :=
  { kind := .cpy 0x10000 0x12000 64, for_ := .record (.node 2 0) 0, ctx := 1, die := 0, core := 0, token := 0, registered := reg, todo := if reg then [(0, 32), (32, 32)] else [] }

-- A copy that registers, and one whose destination another command has locked.
theorem wit_QueueEvents_register : let s := { qBase with engines := [(9, qCopy false)] }
    let t := { s with dies := [(0, { locks := [(0, { first := 0x240, last := 0x240, dst := true, by_ := .engine 8, id := 8 })] })] }
    let r := cmdRanges s 0 1 [⟨0, 0x10000, 64, false⟩, ⟨0, 0x12000, 64, true⟩]
    let u := cmdRanges t 0 1 [⟨0, 0x10000, 64, false⟩, ⟨0, 0x12000, 64, true⟩]
    (tryRegister r.1 0 (.engine 9) r.2.1).isSome = true ∧ tryRegister u.1 0 (.engine 9) u.2.1 = none := by decide +kernel

-- A portion that leaves another, and the last one of a record's command and of a group's.
theorem wit_QueueEvents_portion : ∀ c ∈ [qCopy true, { qCopy true with todo := [(0, 64)] }, { qCopy true with todo := [(0, 64)], for_ := .group 99 0 }],
    let s := { qBase with engines := [(9, c)] }
    ∃ off k, c.todo[0]? = some (off, k) ∧ c.ready = true ∧ c.registered = true ∧ inOrder c 0 = true ∧ engFree s c = true ∧ (runPortion s c off k).2 ≠ .wait := by
  intro c hc
  fin_cases hc
  · exact ⟨0, 32, by decide +kernel⟩
  · exact ⟨0, 64, by decide +kernel⟩
  · exact ⟨0, 64, by decide +kernel⟩

theorem wit_QueueEvents_complete : let c := { qCopy true with todo := [] }
    let s := { qBase with engines := [(9, c)], graphs := [(2, { ctx := 1 })] }
    SMap.find? s.engines 9 = some c ∧ c.for_ = .record (.node 2 0) 0 ∧ c.registered = true ∧ c.todo = [] ∧ (SMap.find? s.graphs 2).isSome = true := by decide +kernel

/-- An image at 0x40000 of one lane and one safe point, written from R108 and R111. -/
def kImage : List Byte :=
  let put (bs : List Byte) (at_ n v : Nat) : List Byte := bs.take at_ ++ natToBytes n v ++ bs.drop (at_ + n)
  ([(0, 2, 1), (4, 4, 64), (8, 8, 1024), (16, 4, 4), (20, 4, 0xFFFFFFFF), (24, 8, 1024), (40, 8, 256), (48, 4, 1), (52, 4, 64), (72, 2, 1), (256 + 80, 4, 128)] : List (Nat × Nat × Nat)).foldl
    (fun bs f => put bs f.1 f.2.1 f.2.2) (List.replicate 352 0)

/-- The package with that image and one kernel. -/
def kState (k : Kernel) : State := { qBase with kernels := [(3, k)], mem := boxPut [(0x4000, 0xDF)] 0x40000 kImage }

/-- A kernel of the image, ready to be taken. -/
def kReady : Kernel := { ctx := 1, image := 0x40000 }

/-- The first of the dispatcher's order to be taken. -/
def kTurn (s : State) (n : Nat) (k : Kernel) : Bool :=
  decide (kern? s n = some k) && k.state == .ready && mayHand s k.ctx && s.kernels.all fun e => !(e.2.state == .ready && mayHand s e.2.ctx && kernBefore e (n, k))

-- A header that is not there, launch values that are none, a kernel that fits and one that does not.
theorem wit_KernelAndGraphEvents : (let k := { kReady with image := 0x50000 }
      kTurn (kState k) 3 k = true ∧ (readHeader (kState k) 1 k.image).2 = none)
    ∧ (let s := kState kReady
      kTurn s 3 kReady = true ∧ (readHeader s 1 kReady.image).2.map (fun x => (launchValues kReady x.1, launchValues { kReady with teams := 0 } x.1)) = some (some (1, 0), none)
        ∧ (readHeader s 1 kReady.image).2.map (fun x => (fits s { kReady with hdr := x.1, perSpan := 1, state := .placing },
          fits { s with parts := [] } { kReady with hdr := x.1, perSpan := 1, state := .placing })) = some (true, false)) := by decide +kernel

/-- A kernel to be placed, one that runs at a lower priority, and its team on core 0. -/
def kPlace (prio : Nat) : Kernel := { kReady with state := .placing, hdr := { lanes := 1 }, prio := prio }

-- A kernel that places its span, and one that finds no core.
theorem wit_KernelAndGraphEvents_place : let s := kState (kPlace 0)
    let t := { s with parts := [] }
    placing s (kPlace 0) = true ∧ (∀ e ∈ s.kernels, kernBefore e (3, kPlace 0) = true → (placing s e.2 = true → placeable s e.1 e.2 = none) ∧ ¬ (e.2.state = .ready ∧ mayHand s e.2.ctx = true)) ∧ savedBad s 3 (kPlace 0) = false
      ∧ (placeable s 3 (kPlace 0)).isSome = true ∧ placing t (kPlace 0) = true ∧ placeable t 3 (kPlace 0) = none := by decide +kernel

-- A kernel that has waited: with no kernel below it, and with one whose one team would have to go.
theorem wit_KernelAndGraphEvents_preempt : let k := kPlace 3
    let v : Kernel := { kPlace 0 with state := .running, nextSpan := 1, hdr := { lanes := 512, bslots := 250 } }
    let s := { kState { k with hdr := { lanes := 512, bslots := 250 } } with now := 850000 }
    let w := { s with kernels := [(3, { k with hdr := { lanes := 512, bslots := 250 } }), (4, v)], teams := [(teamKey 4 0, { span := 0 })] }
    placing s { k with hdr := { lanes := 512, bslots := 250 } } = true ∧ openSpans s 3 { k with hdr := { lanes := 512, bslots := 250 } } ≠ [] ∧ k.waitFrom + 850000 ≤ s.now ∧ lowestKern s 0 3 = none
      ∧ lowestKern w 0 3 = some (4, v) ∧ ((kernTeams w 4).filter fun e => e.2.placed && coreDie e.2.core == 0).map (fun e => e.1 % 4294967296) = [0]
      ∧ (∀ e ∈ kernTeams w 4, e.2.reserved = 0) ∧ wouldFit w 3 { k with hdr := { lanes := 512, bslots := 250 } } 0 [] = false ∧ (team? w 4 0).isSome = true
      ∧ (reserveTeams w 4 v (yieldTeams w 4 0 v)).isSome = true := by decide +kernel

theorem wit_KernelAndGraphEvents_end : let d := { kPlace 0 with state := .draining }
    let r := { kPlace 0 with state := .running, hdr := { lanes := 1, budget := 5 }, count := 170 }
    d.state = .draining ∧ enginesDone (kState d) 3 = true ∧ isLive r = true ∧ r.state ≠ .suspended ∧ r.first = false ∧ budgetOf (kState r) r ≤ r.count / 17 ∧ 2 * budgetOf (kState r) r ≤ r.count / 17 := by
  decide +kernel

/-- A graph of one condition node at 0x60000, written from R124, with its state area at 0x61000. -/
def kGraph : State :=
  { qBase with graphs := [(2, { ctx := 1, va := 0x60000, area := 0x61000 })], mem := boxPut (boxPut [(0x4000, 0xDF)] 0x60000 (natToBytes 2 1 ++ natToBytes 2 1)) 0x60040 (natToBytes 1 4) }

-- A graph that reads, and one that is malformed.
theorem wit_KernelAndGraphEvents_graph : let s := kGraph
    let r := readGraph s 1 0x60000 0x61000
    mayHand s 1 = true ∧ graphsAt s 0 < 256 ∧ r.2 = some [{ kind := 4, no := 0 }] ∧ ({ kind := 4, no := 0 } : GNode).preds = 0 ∧ (pkgWrite r.1 1 0x61000 (natToBytes 4 0)).2 = true ∧ (readGraph s 1 0x60001 0x61000).2 = none := by
  decide +kernel

-- A node that ends while another is live, and the last one.
theorem wit_KernelAndGraphEvents_node : ∀ live ∈ [[0, 1], [0]], let g : Graph := { ctx := 1, started := true, nodes := [{ kind := 1 }, { kind := 1 }], live := live, done := [(0, {})] }
    g.nodes[0]? = some { kind := 1 } ∧ g.done.find? (fun e => e.1 = 0) = some (0, {}) ∧ (({} : Status).bits &&& failMask = 0) ∧ g.done.erase (0, {}) = [] ∧ g.ready = [] := by decide

/-- Two groups of core 0, the loaded one and a second. -/
def gState (a b : Group) : State := { tState a with groups := [(loadGid, a), (loadGid + 1, { b with entry := 1, handle := 1, slot := 1 })], now := 100000 }

-- The active set: a pending group that is ready, one that gives its place, and a promotion.
theorem wit_GroupEvents : let p := { loadGroup with st := .pending, cpos := none }
    let s := gState p { loadGroup with st := .active, bq := [{ block := 0 }] }
    setSize s 0 < 8 ∧ (eldest (readyPending s 0)).map (·.1) = some loadGid ∧ (coreOf s 0).lastPromotion + cycles 4096 ≤ s.now
      ∧ (eldest ((readyPending s 0).filter fun e => e.2.setSince + cycles 4096 ≤ s.now)).map (·.1) = some loadGid ∧ (eldest (activeSet s 0)).map (·.1) = some (loadGid + 1)
      ∧ (let h := { loadGroup with st := .handler, out := true }
        let t := gState h { loadGroup with st := .active }
        setSize t 0 < 8 ∧ (eldest (readyPending t 0)).map (·.1) = some loadGid) := by
  decide +kernel

/-- The loaded image with `VADD` of an LQ entry in its block, and `LD` as its A-instruction. -/
def gSwap : State :=
  let c := ((encodeC (.vadd { vF 0 2 with a := 0, ak := 2 })).getD 0).toNat
  let l : LoadReq := { lanes := 1 }
  let x := { loadGroup with cpos := some ⟨0, 0, []⟩, xq := [], pc := 0x10104, lq := [{}], resv := 1, loads := [l] }
  let s := gState { loadGroup with st := .pending } x
  { s with mem := boxPut (boxPut s.mem 0x10200 (natToBytes 12 c)) 0x10104 (natToBytes 4 (encodeA (.xpeek 3)).toNat) }

-- A group that waits long for its load and cannot issue, and a pending one that is ready.
theorem wit_GroupEvents_swap : ((activeSet gSwap 0).find? (fun e => waitsLong gSwap e.1 e.2 && !readyA gSwap e.1 e.2)).map (·.1) = some (loadGid + 1)
    ∧ (eldest (readyPending gSwap 0)).map (·.1) = some loadGid := by decide +kernel

theorem wit_GroupEvents_wake : ∀ w ∈ [Wake.join, .xpop, .lda, .mwait], let g := { loadGroup with st := .blocked, wake := some w, xq := [5], ldaDone := true }
    grp? (tState g) loadGid = some g ∧ g.st = .blocked ∧ g.wake = some w ∧ spawns (tState g) g = 0 ∧ g.xq ≠ [] ∧ g.ldaDone = true ∧ g.mon = none := by decide

-- A barrier wait that was woken, and a DEQ of a queue with an eligible head and of one that does not serve the group.
theorem wit_GroupEvents_wake_other : (let g := { loadGroup with st := .blocked, wake := some (.bwait (.scratch 0x200000) 1 0x200000 false), woken := true }
      grp? (tState g) loadGid = some g ∧ g.st = .blocked ∧ g.wake = some (.bwait (.scratch 0x200000) 1 0x200000 false) ∧ g.woken = true) := by decide

/-- The loaded group, blocked at a DEQ of a queue. -/
def gDeq (q : Word) : Group := { loadGroup with st := .blocked, wake := some (.deq q) }

theorem wit_GroupEvents_wake_deq : (wakeDeq (tQueue (gDeq 5)) loadGid (gDeq 5) 5).isSome = true ∧ (wakeDeq (tQueue (gDeq 1023)) loadGid (gDeq 1023) 1023).isSome = true := by
  decide +kernel

-- A cut of a group to be evicted, and one of a team of two.
theorem wit_GroupEvents_cut : ∀ e : Bool, let g := { loadGroup with st := .yielding, evict := e, yreq := !e, lastSp := some 1 }
    let s := gState g loadGroup
    cutReady s loadGid g = true ∧ cutBad s loadKernel g = false ∧ (grp? s (loadGid + 1)).map (fun x => (decide (x.kern = g.kern ∧ x.team = g.team), decide (x.st = .saved))) = some (true, false) := by
  decide +kernel

-- The cut of a parked group that has a yield request.
theorem wit_GroupEvents_cut_parked : let g := { tHandler with st := .parked, yreq := true, wake := some (.fpark 0 1) }
    let s := gState g loadGroup
    kern? s g.kern = some loadKernel ∧ unitsDone s loadGid g = true ∧ spillOut s loadGid g true = false
      ∧ (grp? s (loadGid + 1)).map (fun x => (decide (x.kern = g.kern ∧ x.team = g.team), decide (x.st = .saved))) = some (true, false) := by decide +kernel

theorem wit_GroupEvents_save : let s := mState { loadCtx with state := .quiescing } []
    let t := { s with teams := [], groups := [] }
    (ctxOf t 1).state = .quiescing ∧ quiet t 1 = true := by decide +kernel

-- A stop to be recorded; a saved group that lost its slot, and one that was evicted; a monitor that is hit.
theorem wit_GroupEvents_rest : (let g := { loadGroup with stop := some { prior := .active, reason := 1, origin := 0 } }
      g.stop.map (·.written) = some false ∧ g.mops = [] ∧ kern? (tState g) g.kern = some loadKernel)
    ∧ (∀ e : Bool, let g := { loadGroup with st := .saved, evict := e, saveAt := 4096, lastSp := some 1 }
      let s := gState g loadGroup
      (freeSlots s 0).head? = some 0 ∧ restorable s g = true ∧ (∀ x ∈ teamGroups s 1 0, restorable s x.2 = true → x.2.evict = false → g.handle ≤ x.2.handle) ∧ badRun s ((ctxOf s 1).savePool + g.saveAt) (recSize loadKernel g) = false)
    ∧ (let g := { loadGroup with wake := some .mwait, mon := some (514, true) }
      g.wake = some .mwait ∧ g.mon = some (514, true)) := by decide +kernel

/-- The package with one line in core 0's L1. -/
def gLine (d : BitVec 128) : State := { tState loadGroup with cores := [(0, { l1 := [(514, { slot := 0, data := 0, dirty := d })] })] }

-- A line of L1, dirty and clean.
theorem wit_GroupEvents_line : (SMap.find? (coreOf (gLine 255) 0).l1 514).map (·.dirty) = some 255 ∧ (SMap.find? (coreOf (gLine 0) 0).l1 514).map (·.dirty) = some 0 := by
  decide +kernel

/-- A spawn record of kernel 1, team 0, at place 0 of the context's spawn ring. -/
def bState (f : SMap Forming) (g : Group) : State :=
  { tState g with mem := boxPut [] 0x100000 (natToBytes 8 1), dies := [(0, { waiting := [(1, 0)], forming := f })], now := 100000 }

-- A record that opens an entry and one that joins its entry.
theorem wit_SpawnEvents : let s := bState [] loadGroup
    let f : Forming := { kern := 1, team := 0, target := 0, records := List.replicate 31 9 }
    let t := bState [(7, f)] loadGroup
    recRead s 1 0 0 8 = 1 ∧ recRead s 1 0 12 4 = 0 ∧ recRead s 1 0 16 8 = 0 ∧ (openEntries s 0).find? (fun e => e.2.kern = 1 ∧ e.2.team = 0 ∧ e.2.target = 0 ∧ e.2.records.length < 32) = none
      ∧ (openEntries s 0).length < 64 ∧ (openEntries t 0).find? (fun e => e.2.kern = 1 ∧ e.2.team = 0 ∧ e.2.target = 0 ∧ e.2.records.length < 32) = some (7, f) ∧ teamHeld t 1 0 = false := by
  decide +kernel

-- An entry that is old, and one that a group waits for while nothing is ready.
theorem wit_SpawnEvents_launch : let f : Forming := { kern := 1, team := 0, target := 0x10100, records := [0] }
    let s := bState [(7, f)] { loadGroup with st := .blocked, wake := some .join }
    mayLaunch s 0 7 = some f ∧ f.opened + cycles 2048 ≤ s.now ∧ (teamGroups s 1 0).map (fun x => (x.2.st, x.2.wake)) = [(.blocked, some .join)]
      ∧ (∀ x ∈ slotHolders s (((team? s 1 0).map (·.core)).getD 0), ready s x.1 x.2 = false) := by decide +kernel

-- A launched entry that is placed, and one for which the blocked group gives up its slot.
theorem wit_SpawnEvents_place : let f : Forming := { kern := 1, team := 0, target := 0x10100, records := [0], launched := some 3 }
    let b := { loadGroup with st := .blocked, wake := some .join, spawned := true, lastSp := some 1 }
    let s := bState [(7, f)] b
    let t := { s with groups := (List.range 32).map fun i => (loadGid + i, { b with entry := i, handle := i, slot := i }) }
    teamHeld s 1 0 = false ∧ cycleOf 3 < cycleOf s.now ∧ (∀ y ∈ (dieSt s 0).forming, ∀ m, y.2.launched = some m → launchedBefore y.1 m 7 3 = false)
      ∧ (kern? s 1 = some loadKernel ∧ (team? s 1 0).isSome = true) ∧ (∀ y ∈ s.groups, y.2.core = 0 → restorable s y.2 = false) ∧ (freeSlots s 0).head? = some 1 ∧ freeEntry s 1 = some 1
      ∧ freeSlots t 0 = [] ∧ (∀ y ∈ teamGroups t 1 0, y.2.st = .yielding → y.2.evict = false) ∧ (victim t loadKernel 1 0).map (·.1) = some loadGid
      ∧ (poolTake t 1 (recSize loadKernel b)).isSome = true := by decide +kernel

/-- A read of a line of package 7 by core 0, and its state. -/
def fReq : RReq := { core := 0, g := loadGid, line := { line := 4, mask := 3, bytes := [], aop := 0, at64 := false, rv := false, scope := 0, lanes := [] }, op := 1, dst := 7 }
def fState (r : RReq) : State :=
  { tState loadGroup with
    now := 17000000, parts := [(0, { partOf State.reset 0 with hbase := 0, hlen := 0x1000000, ports := 1 })]
    fabric := { routes := [(7, 0x8000000000000001)], reqs := [(11, r)], portsUp := true } }

/-- A route of one port leaves on that port, whatever the hash. -/
theorem onePort (h : Nat) : pickPort 1 h = some 0 := by
  have : (List.range 32).filter (fun i => (1 : BitVec 32).getLsbD i) = [0] := by decide
  simp only [pickPort, this, List.length_singleton, Nat.mod_one, List.getElem?_cons_zero]

-- A packet that leaves on the one port of its partition and route.
theorem wit_FabricAndLinkEvents : let s := fState fReq
    (SMap.find? s.fabric.reqs 11).isSome = true ∧ s.fabric.portsUp = true ∧ (openPacket s 0 fReq).map (·.1) = [11] ∧ fReq.opened + cycles 32 ≤ s.now
      ∧ partRoute s fReq.part fReq.dst = 1 ∧ routeMask s 7 = 1 ∧ pickTags s 0 1 = some 0 := by decide +kernel

theorem wit_FabricAndLinkEvents_port : pickPort (partRoute (fState fReq) fReq.part fReq.dst) (Config.portHash (lineKeyOf fReq.dst fReq.line.line)) = some 0
    ∧ pickPort (routeMask (fState fReq) 7) (Config.portHash (lineKeyOf 7 4)) = some 0 := by
  rw [show partRoute (fState fReq) fReq.part fReq.dst = 1 by decide +kernel, show routeMask (fState fReq) 7 = 1 by decide +kernel]
  exact ⟨onePort _, onePort _⟩

/-- The package with a packet of package 7 at it, of an operation on the line of `fReq`, and its receive buffers full or not. -/
def fArrive (op : Nat) (full : Bool) : State :=
  { fState fReq with fabric := { (fState fReq).fabric with rxFull := full, net := [(12, { op := op, src := 7, dst := 0, tag := 0, reqs := [fReq.line], status := [], words := [] })] } }

-- A read, a store and an atomic that arrive, performed and turned away.
theorem wit_FabricAndLinkEvents_arrival : ∀ op ∈ [1, 3, 4], ∀ full : Bool, (fArrive op full).fabric.rxFull = full ∧ (fArrive op full).fabric.portsUp = true
    ∧ (SMap.find? (fArrive op full).fabric.net 12).map (fun p => decide (p.op = op) && p.reqs.all fun l => !enterHeld (fArrive op full) (128 * l.line)) = some true := by decide +kernel

theorem wit_FabricAndLinkEvents_answers : ∀ x ∈ [(2, 1), (7, 3), (5, 4)], let r := { fReq with op := x.2, sent := true }
    let p : Packet := { op := x.1, src := 7, dst := 0, tag := 0, reqs := [], status := [0], words := [1, 2] }
    let s := { fState r with fabric := { (fState r).fabric with net := [(12, p)] } }
    SMap.find? s.fabric.net 12 = some p ∧ (answered s p 0).map (·.1) = some 11 ∧ r.sync = false ∧ r.line.rv = false := by decide +kernel

-- A request to be tried again, one to be given up, one never answered, and a packet to send anew.
theorem wit_FabricAndLinkEvents_resend : let r := { fReq with op := 3, sent := true, refusedAt := some 0, retryAt := some 0 }
    let u := { fReq with op := 3, sent := true }
    let p : Packet := { op := 1, src := 7, dst := 7, tag := 0, reqs := [fReq.line], status := [], words := [] }
    let s := { fState r with fabric := { (fState r).fabric with sent := [(13, { pkt := p, reqs := [11], at_ := 0 })] } }
    s.fabric.portsUp = true ∧ 0 + 17000000 ≤ s.now ∧ (SMap.find? s.fabric.reqs 11).map (fun x => (x.op, x.sync, x.refusedAt, x.retryAt)) = some (3, false, some 0, some 0)
      ∧ (SMap.find? (fState u).fabric.reqs 11).map (fun x => (x.sent, x.refusedAt, x.began)) = some (true, none, 0)
      ∧ (SMap.find? s.fabric.sent 13).map (fun x => partRoute s x.part x.pkt.dst) = some 1 := by decide +kernel

/-- A good flit of sequence number 0 that carries a payload of zeros: its header and its checksum. -/
def fFlit : BitVec 2048 :=
  let h : BitVec 1984 := 0x1000000
  (crc64 ((List.range 248).map fun i => h.extractLsb' (8 * i) 8)) ++ h

/-- A NAK flit of ACK 5. -/
def fNak : BitVec 2048 :=
  let h : BitVec 1984 := 0x2005000
  (crc64 ((List.range 248).map fun i => h.extractLsb' (8 * i) 8)) ++ h

/-- A link that is up on three lanes, with a flit of SEQ 5 acknowledged last and one of SEQ 6 unacknowledged at the switch's end. -/
def fLink (a : List Nat) (n : Bool) : Link :=
  { state := .up, lanes := 0x8005, die := { again := a, nakDue := n, replay := if a = [] then [] else [{ seq := 0, cls := 0, bytes := List.replicate 240 0 }] }
    switch := { replay := [{ seq := 5, cls := 0, bytes := [] }, { seq := 6, cls := 0, bytes := [1] }] } }

-- Links that train, have failed their attempts, have errors and are up; good flits and one that is not.
theorem wit_FabricAndLinkEvents_links : (∀ st ∈ [LState.training, .retraining], let x : Link := { state := st, dropped := 1, tries := 2 }
      (x.state = .training ∨ x.state = .retraining) ∧ 1 ≤ popc 16 (3 &&& ~~~x.dropped).toNat ∧ popc 16 (1 &&& ~~~x.dropped).toNat = 0 ∧ 2 ≤ x.tries)
    ∧ (let x : Link := { state := .up, die := { nakTimes := List.replicate 64 0 } }
      linkUp x = true ∧ linkErrors 0 x.die = true)
    ∧ (dieSt qBase 0).powered = true ∧ flitGood 1 = false ∧ flitGood fFlit = true ∧ hKind (flitHeader fFlit) = 1 ∧ hSeq (flitHeader fFlit) = 0
    ∧ flitGood fNak = true ∧ hKind (flitHeader fNak) = 2 ∧ bits (flitHeader fNak) 12 12 = 5 := by decide +kernel

-- A flit replayed and a NAK sent toward the switch, over three lanes: what the lanes carry is the flit, and one lane's error is seen.
theorem wit_FabricAndLinkEvents_flits : linkUp (fLink [0] true) = true ∧ linkN (fLink [0] true) = 3
    ∧ canSendFlit (fLink [0] true).die (fLink [0] true).switch (flitHeader fFlit) (flitPay fFlit) = true ∧ canSendFlit (fLink [0] true).die (fLink [0] true).switch (flitHeader fNak) (flitPay fNak) = true
    ∧ (unackedFlits (fLink [0] true).switch.replay 5).map (·.seq) = [6]
    ∧ (let ls := (List.range 16).map fun i => if i = 0 then (stripe 3 fFlit).getD 0 [] else if i = 2 then (stripe 3 fFlit).getD 1 [] else if i = 15 then (stripe 3 fFlit).getD 2 [] else []
      unstripe 3 (workingStreams 0x8005 ls) = fFlit ∧ flitGood (unstripe 3 (workingStreams 0x8005 (ls.set 15 []))) = false) := by decide +kernel

-- A new flit: one of the other end's credits is always left when it holds nothing.
theorem wit_FabricAndLinkEvents_new : canSendFlit (fLink [] false).die (fLink [] false).switch (flitHeader fFlit) (flitPay fFlit) = true := by
  have hk : hKind (flitHeader fFlit) = 1 := by decide +kernel
  have hs : hSeq (flitHeader fFlit) = 0 := by decide +kernel
  simp [canSendFlit, hk, hs, fLink, creditLeft]

/-- The package before power-up, and one that runs. -/
def wBoot (q : Imqua) : State := { State.reset with imqua := q }

-- A first power-up, a third failure of step 1, a host port in reset with a context of the host's and with none, samples, re-plans and voltage steps.
theorem wit_BootAndHostEvents : (wBoot {}).imqua.bootCnt = [] ∧ begun (wBoot {}) = [] ∧ stepCount (wBoot { bootCnt := [(1, 2)] }) 1 = 2 ∧ (0 : BitVec 10).getLsbD 0 = false
    ∧ (∀ e ∈ begun qBase, e.box ≠ .host) ∧ (ctxOf qBase 1).owner = .host ∧ (ctxOf qBase 1).state ≠ .destroyed ∧ (wBoot {}).ctxs = []
    ∧ qBase.imqua.booted = true ∧ qBase.imqua.safe = false ∧ qBase.fabric.hostReset = false ∧ noSuchPlace (2 ^ 56) = true ∧ noSuchPlace 0 = false ∧ isHbm 0 = true ∧ isHbm 7 = true
    ∧ isHostMem 0x800000000000 = true ∧ isHostMem (0x800000000000 + 8 - 1) = true
    ∧ ({ qBase with now := 17000000000 }).imqua.lastSample + 17000000000 ≤ ({ qBase with now := 17000000000 } : State).now ∧ 1000 * hourTicks ≤ (wBoot { powered := 1000 * hourTicks }).imqua.powered
    ∧ (∃ x ∈ (wBoot { drift := [201] }).imqua.drift, 200 < x) ∧ (wBoot {}).imqua.lastVolt + 17000000 ≤ ({ wBoot {} with now := 17000000 } : State).now := by decide +kernel

/-! ### Steps -/

/-- The package right after reset with one instruction placed where the next step fetches. -/
def placed (nbits w : Nat) : State := State.reset.withFetchWord nbits w

/-- ADDI s1, s0, -3. -/
def wordAddi : Nat := (encodeA (.addi 1 0 (-3))).toNat

theorem wit_StepRunsDecoded : let s := placed 32 wordAddi
    ∃ x rest, nextTurn s = (some x, rest) ∧ x.move = .a loadGid ∧ (let s0 := passTime s x.dt rest
      (grp? s0 loadGid).map (fun g => (decide (kern? s0 g.kern = some loadKernel), canIssue g && turnA s0 loadGid g, inACode loadKernel g.pc, (fetchBytes s0 g g.pc 4).2.toOption))
        = some (true, true, true, some wordAddi) ∧ (decodeA (BitVec.ofNat 32 wordAddi)).toOption = some (.addi 1 0 (-3))) := by
  exact ⟨{ dt := 0, move := .a loadGid }, [], by decide +kernel, rfl, by decide +kernel⟩

theorem wit_StepRunsDecoded_c : let s := placed 96 0x2000000200803001803F8000
    ∃ x rest, nextTurn s = (some x, rest) ∧ x.move = .c loadGid ∧ (let s0 := passTime s x.dt rest
      (grp? s0 loadGid).map (fun g => (decide (kern? s0 g.kern = some loadKernel), canIssueC g && turnC s0 loadGid g, spillHolds s0 loadGid, (startBlock g).cpos.map (·.idx),
          ((startBlock g).cpos.bind fun p => (fetchWordC (setGrp s0 loadGid (startBlock g)) (startBlock g) loadKernel p).2.toOption)))
        = some (true, true, false, some 0, some 0x2000000200803001803F8000)) ∧ 12 * 0 + 12 ≤ loadKernel.hdr.clen := by
  exact ⟨{ dt := 0, move := .c loadGid }, [], by decide +kernel, rfl, by decide +kernel, by decide⟩

theorem wit_StepRunsDecoded_o : let s := placed 64 0x0D00000000000000
    ∃ x rest, nextTurn s = (some x, rest) ∧ x.move = .odnar 0 ∧ (let s0 := passTime s x.dt rest
      (inst? s0 0).map (fun y => (plan? s0 y.plan).map fun p => p.prog[y.pc]?) = some (some (some 0x0D00000000000000))) := by
  exact ⟨{ dt := 0, move := .odnar 0 }, [], by decide +kernel, rfl, by decide +kernel⟩

theorem wit_StepRunsDecoded_event : takesPlace State.reset .hostPortResetExit = true ∧ nextTurn { State.reset with agenda := [{ dt := 5, move := .ev .hostPortResetExit }] } = (some { dt := 5, move := .ev .hostPortResetExit }, []) := by
  decide

-- A well-formed instruction of each stream, by its word.
theorem wit_DecodeEncodeAgree : (Instr.add 0 0 0 false).wf = true ∧ encodeC (.add 0 0 0 false) = none ∧ encodeO (.add 0 0 0 false) = none
    ∧ (Instr.jr 63).wf = true ∧ encodeC (.jr 63) = none ∧ encodeO (.jr 63) = none ∧ encodeA (.jr 63) ≠ 0 ∧ (Instr.vfadd { zeroC with dk := 2, ak := 2, bk := 3, ty := 6, imm := 0x3F8000 }).wf = true
    ∧ (encodeC (.vfadd { zeroC with dk := 2, ak := 2, bk := 3, ty := 6, imm := 0x3F8000 })).isSome = true ∧ (Instr.setg { zeroO with d := 3, imm := -1 }).wf = true
    ∧ (encodeO (.setg { zeroO with d := 3, imm := -1 })).isSome = true := by decide

-- A state whose memory is canonical and not empty, and whose next step answers a next state.
theorem wit_StepKeepsCanonical : Canonical (placed 32 wordAddi) ∧ (placed 32 wordAddi).mem ≠ [] ∧ (match step (placed 32 wordAddi) with | .next _ => true | _ => false) = true := by
  refine ⟨?_, by decide +kernel, by decide +kernel⟩
  show Memory.wf (placed 32 wordAddi).mem = true
  decide +kernel

theorem wit_RegisterFrame : Acts tS loadGid tGroup loadKernel ∧ inHandler tGroup = false ∧ (match exec (.xpop 33) tS with | .next t => (grp? t loadGid).isSome | _ => false) = true := by
  decide +kernel

theorem wit_ZeroRegisters : inHandler tGroup = false ∧ inHandler { tGroup with st := .handler } = true := by decide

/-! ### Small steps, their results from the spec's rules -/

/-- What a group holds after one A-instruction of the group `g`. -/
def after (g : Group) (i : Instr) : Option Group :=
  match exec i (tState g) with
  | .next t => grp? t loadGid
  | _ => none

-- R258: the 32-bit form keeps the low 32 bits and extends their sign; the 64-bit form wraps.
theorem test_add_wraps : (after { tGroup with s := [(1, 0x7FFFFFFF), (2, 1)] } (.add 3 1 2 true)).map (sReg · 3) = some 0xFFFFFFFF80000000
    ∧ (after { tGroup with s := [(1, BitVec.allOnes 64), (2, 1)] } (.add 3 1 2 false)).map (sReg · 3) = some 0 := by decide +kernel

-- R258: a quotient by zero is all ones, and a remainder by zero the dividend.
theorem test_division_by_zero : (after { tGroup with s := [(1, 7)] } (.div 3 1 0 false)).map (sReg · 3) = some (BitVec.allOnes 64)
    ∧ (after { tGroup with s := [(1, 7)] } (.rem 3 1 0 false)).map (sReg · 3) = some 7 := by decide +kernel

-- R274: SUB takes the second operand from the first, and a destination that is also a source is read first.
theorem test_sub_order : (after { tGroup with s := [(1, 7), (2, 9)] } (.sub 1 1 2 false)).map (sReg · 1) = some (-2) := by decide +kernel

-- R279, R280: a branch counts words from its own address.
theorem test_branch_back : (after tGroup (.bcc 1 2 (-3))).map (·.pc) = some (0x10100 - 12) ∧ (after tGroup (.bcc 0 2 (-3))).map (·.pc) = some 0x10104 := by decide +kernel

-- R279: CALL leaves the next word's address in s63.
theorem test_call_links : (after tGroup (.call 2)).map (fun g => (g.pc, sReg g 63)) = some (0x10108, 0x10104) := by decide +kernel

-- R10: a result for s0 is lost.
theorem test_zero_register : (after tGroup (.addi 0 1 5)).map (fun g => (sReg g 0, g.pc)) = some (0, 0x10104) := by decide +kernel

-- R289: XPOP takes the oldest value and leaves the queue empty.
theorem test_xpop : (after tGroup (.xpop 3)).map (fun g => (sReg g 3, g.xq)) = some (5, []) := by decide +kernel

-- R38, R295: a misaligned LDS takes ALIGN, code 5, with the address in word 3.
theorem test_lds_misaligned : (after tGroup (.lds 5 3 0)).map (fun g => (g.st, SMap.get g.frec 0 0 % 256, SMap.get g.frec 0 3)) = some (.handler, 5, 0x10001) := by decide +kernel

-- R308, R264: a VADD of one writes its register two cycles on, so a stall count of two shows it.
theorem test_vadd : (after { cGroup with cpos := some ⟨0, 0, []⟩, v := [(64, 40)] } (.vadd { vF 0 1 with bk := 3, b := 0, imm := 2, stall := 2 })).map (fun g => vReg g 10 0) = some 42 := by decide +kernel

-- R307: END leaves the C-stream between blocks.
theorem test_end : (after cGroup (.end_ zeroC)).map (·.cpos) = some none := by decide +kernel

-- R328: NIF counts lanes whose value is zero from 0 to 1.
theorem test_nif : (match exec (.nif { zeroC with ty := 13, a := 2 }) { tState { cGroup with v := [(64, 1)] } with kernels := [(1, cCompat)] } with
    | .next t => (grp? t loadGid).map fun g => (SMap.get g.ctr 0 0, SMap.get g.ctr 0 1)
    | _ => none) = some (0, 1) := by decide +kernel

-- R384: SETG with control 0 extends its immediate's sign; R385: the parent of rank 1 in a binary heap is rank 0.
theorem test_odnar : (match exec (.setg { zeroO with d := 3, imm := -1 }) (oState (.odnarNop zeroO) (oPlan (.odnarNop zeroO) []) oInst) with
      | .next t => (inst? t 0).map fun x => (gReg x 3, x.pc)
      | _ => none) = some (BitVec.allOnes 64, 1)
    ∧ (match exec (.peer { zeroO with d := 3, f := 2, imm := 2 }) (oState (.odnarNop zeroO) (oPlan (.odnarNop zeroO) []) oInst) with
      | .next t => (inst? t 0).map fun x => gReg x 3
      | _ => none) = some 0 := by decide +kernel

-- R96: the last arrival of two flips the phase and takes up the expected count anew.
theorem test_barrier_flips : barApply ⟨barCtl false 2 1, 0, emptyStatus, emptyStatus⟩ (.arrive 1 {}) = (⟨barCtl true 2 2, 0, emptyStatus, emptyStatus⟩, true) := by decide

-- R233: 1 + 2^-24 is a tie, which goes to the even neighbour.
theorem test_rounding_tie : fmtF32.enc .rne false (FVal.add .rne (.num false 1 0) (.num false 1 (-24))) = 0x3F800000
    ∧ fmtF32.enc .rup false (FVal.add .rup (.num false 1 0) (.num false 1 (-24))) = 0x3F800001 := by decide +kernel

-- R165, R166: PING answers status 0 with the request's number.
theorem test_ping : (match exec (.ping .host) (mState loadCtx (mHead 0x0001)) with
    | .next t => (boxReply (boxOf t .host)).take 11
    | _ => []) = natToBytes 8 7 ++ natToBytes 2 0 ++ natToBytes 1 0 := by decide +kernel

-- R76: a write to a disabled queue is refused, counted and flagged.
theorem test_enqueue_disabled : (match exec (.enqueueArrival .host (0x30000000000 + 64 * 5) (natToBytes 64 1)) (qState {}) with
    | .next t => let q := queueOf t 5
      (q.refused, q.refd, q.res)
    | _ => (0, false, [])) = (1, true, []) := by decide +kernel
end Sys2Proof.Tests
end

section
/-! PROOFS. Barrier objects (R94 to R99): the fields of a control word, what each update makes of an object, the merge of
statuses, and the object that a barrier-home event leaves at its home (R96). -/

namespace Sys2Proof.Machine

open Sys2Proof

/-! ### The fields of a control word (R94) -/

theorem bits_lt (v lo n : Nat) : bits v lo n < 2 ^ n := Nat.mod_lt _ (Nat.two_pow_pos n)

theorem barExp_lt (c : Nat) : barExp c < 65536 := bits_lt c 32 16

theorem barPend_lt (c : Nat) : barPend c < 65536 := bits_lt c 16 16

section
variable {ph : Bool} {e p : Nat}

theorem barExp_barCtl (he : e < 65536) (hp : p < 65536) : barExp (barCtl ph e p) = e := by
  cases ph <;> simp only [barExp, bits, barCtl, if_true, Bool.false_eq_true, if_false] <;> omega

theorem barPend_barCtl (hp : p < 65536) : barPend (barCtl ph e p) = p := by
  cases ph <;> simp only [barPend, bits, barCtl, if_true, Bool.false_eq_true, if_false] <;> omega

theorem barPh_barCtl (he : e < 65536) (hp : p < 65536) : barPh (barCtl ph e p) = ph := by
  cases ph <;>
    simp only [barPh, Nat.testBit_eq_decide_div_mod_eq, barCtl, if_true, Bool.false_eq_true, if_false,
      decide_eq_true_eq, decide_eq_false_iff_not] <;> omega

theorem barCtl_lt (he : e < 65536) (hp : p < 65536) : barCtl ph e p < 2 ^ 64 := by
  cases ph <;> simp only [barCtl, if_true, Bool.false_eq_true, if_false] <;> omega

/-- A control word made from a count within the expected one is well formed. -/
theorem malformed_barCtl (he : e < 65536) (hp : p ≤ e) : malformed (barCtl ph e p) = false := by
  have hp' : p < 65536 := by omega
  have hz : bits (barCtl ph e p) 48 15 = 0 ∧ bits (barCtl ph e p) 0 16 = 0 := by
    cases ph <;> simp only [bits, barCtl, if_true, Bool.false_eq_true, if_false] <;> omega
  simp [malformed, hz, barExp_barCtl he hp', barPend_barCtl hp', hp]

end

/-! ### The merge of statuses (R99) -/

section
variable (acc : Nat) (c : Status)

/-- The merged status bits fill the low twelve bits. -/
theorem mergedBits_lt : bits acc 0 12 ||| c.bits.toNat < 4096 :=
  Nat.or_lt_two_pow (n := 12) (bits_lt acc 0 12) c.bits.isLt

theorem mergeStatus_of_not_failed (h : c.bits &&& failMask = 0) : mergeStatus acc c =
    bits acc 16 48 * 65536 + bits acc 12 4 * 4096 + (bits acc 0 12 ||| c.bits.toNat) := by
  simp only [mergeStatus, h, if_true]

theorem mergeStatus_of_failed (h : c.bits &&& failMask ≠ 0) : mergeStatus acc c =
    Nat.min (bits acc 32 32 + c.failures) 0xFFFFFFFF * 2 ^ 32 + Nat.min (bits acc 16 16) (c.member % 65536) * 65536
      + bits acc 12 4 * 4096 + (bits acc 0 12 ||| c.bits.toNat) := by
  simp only [mergeStatus, h, if_false]

theorem minFailures_lt : Nat.min (bits acc 32 32 + c.failures) 0xFFFFFFFF < 2 ^ 32 :=
  Nat.lt_of_le_of_lt (Nat.min_le_right _ _) (by decide)

theorem minMember_lt : Nat.min (bits acc 16 16) (c.member % 65536) < 65536 :=
  Nat.lt_of_le_of_lt (Nat.min_le_left _ _) (bits_lt acc 16 16)

theorem mergeStatus_lt : mergeStatus acc c < 2 ^ 64 := by
  have hb := mergedBits_lt acc c
  have hr := bits_lt acc 12 4
  by_cases h : c.bits &&& failMask = 0
  · have := bits_lt acc 16 48
    rw [mergeStatus_of_not_failed acc c h]
    omega
  · have := minFailures_lt acc c
    have := minMember_lt acc c
    rw [mergeStatus_of_failed acc c h]
    omega

theorem mergeStatus_low : mergeStatus acc c % 2 ^ 12 = bits acc 0 12 ||| c.bits.toNat := by
  have hb := mergedBits_lt acc c
  by_cases h : c.bits &&& failMask = 0
  · rw [mergeStatus_of_not_failed acc c h]
    omega
  · rw [mergeStatus_of_failed acc c h]
    omega

/-- Merging ORs the status bits. -/
theorem mergeStatus_testBit {i : Nat} (hi : i < 12) :
    (mergeStatus acc c).testBit i = (acc.testBit i || c.bits.getLsbD i) := by
  have hlow : (mergeStatus acc c % 2 ^ 12).testBit i = (mergeStatus acc c).testBit i := by
    rw [Nat.testBit_mod_two_pow, decide_eq_true hi, Bool.true_and]
  have hacc : (bits acc 0 12).testBit i = acc.testBit i := by
    simp only [bits, pow_zero, Nat.div_one, Nat.testBit_mod_two_pow, hi, decide_true, Bool.true_and]
  rw [← hlow, mergeStatus_low, Nat.testBit_or, hacc, BitVec.getLsbD]

theorem mergeStatus_keeps_counts (h : c.bits &&& failMask = 0) : bits (mergeStatus acc c) 16 48 = bits acc 16 48 := by
  have := mergedBits_lt acc c
  have := bits_lt acc 12 4
  have := bits_lt acc 16 48
  rw [mergeStatus_of_not_failed acc c h]
  show _ / 2 ^ 16 % 2 ^ 48 = _
  omega

theorem mergeStatus_failures (h : c.bits &&& failMask ≠ 0) :
    bits (mergeStatus acc c) 32 32 = Nat.min (bits acc 32 32 + c.failures) 0xFFFFFFFF := by
  have := mergedBits_lt acc c
  have := bits_lt acc 12 4
  have := minFailures_lt acc c
  have := minMember_lt acc c
  rw [mergeStatus_of_failed acc c h]
  show _ / 2 ^ 32 % 2 ^ 32 = _
  omega

theorem mergeStatus_member (h : c.bits &&& failMask ≠ 0) :
    bits (mergeStatus acc c) 16 16 = Nat.min (bits acc 16 16) (c.member % 65536) := by
  have := mergedBits_lt acc c
  have := bits_lt acc 12 4
  have := minMember_lt acc c
  rw [mergeStatus_of_failed acc c h]
  show _ / 2 ^ 16 % 2 ^ 16 = _
  omega

end

/-! ### The updates of an object (R95 to R98) -/

section
variable {b : BarObj} {m t p x a : Nat} {st : Status}

theorem barProto_eq : barProto b = ({ b with acc := b.acc ||| 0x400 }, false) := rfl

theorem barApply_arrive (h : malformed b.ctl = false) : barApply b (.arrive m st) =
    if barExp b.ctl = 0 ∨ m = 0 ∨ barPend b.ctl < m then barProto b
    else barSettle b (barPend b.ctl - m) b.txb (mergeStatus b.acc st) := by simp [barApply, h]

theorem barApply_expect (h : malformed b.ctl = false) : barApply b (.expect t) =
    if barExp b.ctl = 0 ∨ t = 0 ∨ 2 ^ 48 ≤ t then barProto b
    else barSettle b (barPend b.ctl) ((b.txb + t) % 2 ^ 64) b.acc := by simp [barApply, h]

theorem barApply_complete (h : malformed b.ctl = false) : barApply b (.complete t st) =
    if barExp b.ctl = 0 ∨ t = 0 ∨ 2 ^ 32 ≤ t then barProto b
    else barSettle b (barPend b.ctl) ((b.txb + (2 ^ 64 - t)) % 2 ^ 64) (mergeStatus b.acc st) := by simp [barApply, h]

/-- A malformed word discards every update but BINIT (R95). -/
theorem barApply_of_barDiscards {op : BarOp} (h : barDiscards b op = true) : barApply b op = (b, false) := by
  cases op with
  | init n => simp [barDiscards] at h
  | arrive m st | expect t | complete t st =>
    have hm : malformed b.ctl = true := h
    simp [barApply, hm]

theorem barApply_init_zero : barApply b (.init 0) = (⟨0, 0, 0xFFFF0000, 0xFFFF0000⟩, false) := rfl

theorem barApply_init_pos (h0 : 0 < m) (hm : m < 65536) :
    barApply b (.init m) = (⟨barCtl false m m, 0, emptyStatus, emptyStatus⟩, false) := by
  have hne : m ≠ 0 := by omega
  simp [barApply, Nat.mod_eq_of_lt hm, hne]

/-- The update that leaves nothing pending flips the phase (R98). -/
theorem barSettle_flip (hp : p = 0) (hx : x = 0) : barSettle b p x a =
    (⟨barCtl (!barPh b.ctl) (barExp b.ctl) (barExp b.ctl), 0, emptyStatus, a⟩, true) := by
  simp only [barSettle, hp, hx, and_self, if_true]

/-- An update that leaves arrivals or bytes pending changes what it counts and the accumulating status alone. -/
theorem barSettle_pending (hp : p < 65536) (h : ¬ (p = 0 ∧ x = 0)) :
    let r := barSettle b p x a
    barPend r.1.ctl = p ∧ barExp r.1.ctl = barExp b.ctl ∧ barPh r.1.ctl = barPh b.ctl ∧ r.1.txb = x ∧ r.1.acc = a
      ∧ r.1.last = b.last ∧ r.2 = false := by
  have he := barExp_lt b.ctl
  have e : barSettle b p x a = (⟨barCtl (barPh b.ctl) (barExp b.ctl) p, x, a, b.last⟩, false) := if_neg h
  rw [e]
  exact ⟨barPend_barCtl hp, barExp_barCtl he hp, barPh_barCtl he hp, rfl, rfl, rfl, rfl⟩

/-- Bytes subtracted modulo 2^64 leave zero when they were all that was pending. -/
theorem subBytes_eq_zero_iff (hx : x < 2 ^ 64) (h0 : 0 < t) (ht : t < 2 ^ 32) : (x + (2 ^ 64 - t)) % 2 ^ 64 = 0 ↔ t = x := by
  omega

theorem subBytes_toInt (ht : t < 2 ^ 32) :
    (((x + (2 ^ 64 - t)) % 2 ^ 64 : Nat) : Int) = ((x : Int) - t) % 2 ^ 64 := by
  omega

end


/-! ### The words of an object (R94) -/

/-- Each word of an object is one of 64 bits. -/
structure BarObj.Fits (b : BarObj) : Prop where
  ctl  : b.ctl < 2 ^ 64
  txb  : b.txb < 2 ^ 64
  acc  : b.acc < 2 ^ 64
  last : b.last < 2 ^ 64

theorem emptyStatus_lt : emptyStatus < 2 ^ 64 := by decide

section
variable {b : BarObj}

theorem barProto_fits (h : b.Fits) : (barProto b).1.Fits :=
  ⟨h.ctl, h.txb, Nat.or_lt_two_pow (n := 64) h.acc (by decide), h.last⟩

theorem barSettle_fits {p x a : Nat} (h : b.Fits) (hp : p < 65536) (hx : x < 2 ^ 64) (ha : a < 2 ^ 64) :
    (barSettle b p x a).1.Fits := by
  have he := barExp_lt b.ctl
  unfold barSettle
  split
  · exact ⟨barCtl_lt he he, Nat.two_pow_pos 64, emptyStatus_lt, ha⟩
  · exact ⟨barCtl_lt he hp, hx, ha, h.last⟩

theorem barApply_fits (h : b.Fits) (op : BarOp) : (barApply b op).1.Fits := by
  cases op with
  | init n =>
    have hn : n % 65536 < 65536 := Nat.mod_lt _ (by decide)
    simp only [barApply]
    split
    · exact ⟨by decide, by decide, by decide, by decide⟩
    · exact ⟨barCtl_lt hn hn, Nat.two_pow_pos 64, emptyStatus_lt, emptyStatus_lt⟩
  | arrive m st =>
    have hp : barPend b.ctl - m < 65536 := Nat.lt_of_le_of_lt (Nat.sub_le _ _) (barPend_lt _)
    simp only [barApply]
    split_ifs
    · exact h
    · exact barProto_fits h
    · exact barSettle_fits h hp h.txb (mergeStatus_lt _ _)
  | expect t =>
    simp only [barApply]
    split_ifs
    · exact h
    · exact barProto_fits h
    · exact barSettle_fits h (barPend_lt _) (Nat.mod_lt _ (by decide)) h.acc
  | complete t st =>
    simp only [barApply]
    split_ifs
    · exact h
    · exact barProto_fits h
    · exact barSettle_fits h (barPend_lt _) (Nat.mod_lt _ (by decide)) (mergeStatus_lt _ _)

end

/-! ### The object at its home (R93) -/

/-- The place a number of bytes further on. -/
def locOff : Loc → Nat → Loc
  | .scratch o, k => .scratch (o + k)
  | .phys pa d, k => .phys (pa + k) d

theorem locOff_locOff (l : Loc) (j k : Nat) : locOff (locOff l j) k = locOff l (j + k) := by
  cases l <;> simp only [locOff, Nat.add_assoc]

theorem bytesToNat_lt (bs : List Byte) : bytesToNat bs < 256 ^ bs.length := by
  induction bs with
  | nil => decide
  | cons b bs ih =>
    have := b.isLt
    rw [bytesToNat, List.length_cons, Nat.pow_succ]
    omega

section
variable (s : State) (core slot : Nat) (l : Loc)

theorem locNat_eq (n : Nat) :
    locNat s core slot l n = bytesToNat ((List.range n).map fun i => locByte s core slot (locOff l i)) := by
  cases l <;> rfl

theorem locNat_word_lt : locNat s core slot l 8 < 2 ^ 64 := by
  rw [locNat_eq]
  simpa using bytesToNat_lt ((List.range 8).map fun i => locByte s core slot (locOff l i))

theorem barRead_eq : barRead s core slot l = ⟨locNat s core slot (locOff l 0) 8, locNat s core slot (locOff l 8) 8,
    locNat s core slot (locOff l 16) 8, locNat s core slot (locOff l 24) 8⟩ := by
  cases l <;> rfl

theorem barRead_fits : (barRead s core slot l).Fits := by
  rw [barRead_eq]
  exact ⟨locNat_word_lt .., locNat_word_lt .., locNat_word_lt .., locNat_word_lt ..⟩

theorem locByte_locWrite (bs : List Byte) {k : Nat} (h : k < bs.length) :
    locByte (locWrite s core slot l bs) core slot (locOff l k) = bs.getD k 0 := by
  cases l with
  | scratch o =>
    simp only [locOff, locByte, locWrite]
    rw [scratch_scratchWrite, if_pos (by omega), Nat.add_sub_cancel_left]
  | phys pa d =>
    simp only [locOff, locByte, locWrite]
    rw [memByte_homeWrite, if_pos (by omega), Nat.add_sub_cancel_left]

/-- A value read from among bytes written to a place is made of those bytes. -/
theorem locNat_locWrite (bs : List Byte) {k n : Nat} (h : k + n ≤ bs.length) :
    locNat (locWrite s core slot l bs) core slot (locOff l k) n = bytesToNat ((bs.drop k).take n) := by
  rw [locNat_eq]
  congr 1
  refine List.ext_getElem (by simp; omega) fun i h1 h2 => ?_
  have hi : k + i < bs.length := by simp at h1; omega
  simp only [List.getElem_map, List.getElem_range, List.getElem_take, List.getElem_drop]
  rw [locOff_locOff, locByte_locWrite _ _ _ _ _ hi, List.getD_eq_getElem _ _ hi]

theorem barBytes_length (b : BarObj) : (barBytes b).length = 32 := by simp [barBytes, natToBytes_length]

/-- A word at the front of bytes. -/
theorem bytesToNat_take_word {v : Nat} (hv : v < 2 ^ 64) (rest : List Byte) :
    bytesToNat ((natToBytes 8 v ++ rest).take 8) = v := by
  rw [take_natToBytes_append, bytesToNat_natToBytes, Nat.mod_eq_of_lt hv]

/-- The object written to a home is the object read there. -/
theorem barRead_locWrite {b : BarObj} (h : b.Fits) :
    barRead (locWrite s core slot l (barBytes b)) core slot l = b := by
  have hw (k : Nat) (hk : k + 8 ≤ 32) := locNat_locWrite s core slot l (barBytes b) (k := k) (n := 8)
    (by rw [barBytes_length]; exact hk)
  have e : barBytes b = natToBytes 8 b.ctl ++ (natToBytes 8 b.txb ++ (natToBytes 8 b.acc ++ (natToBytes 8 b.last ++ []))) := by
    simp only [barBytes, List.append_assoc, List.append_nil]
  have d1 := drop_natToBytes_append 8 b.ctl (natToBytes 8 b.txb ++ (natToBytes 8 b.acc ++ (natToBytes 8 b.last ++ [])))
  have d2 := drop_natToBytes_append 8 b.txb (natToBytes 8 b.acc ++ (natToBytes 8 b.last ++ []))
  have d3 := drop_natToBytes_append 8 b.acc (natToBytes 8 b.last ++ [])
  have hctl : bytesToNat (((barBytes b).drop 0).take 8) = b.ctl := by
    rw [e, List.drop_zero, bytesToNat_take_word h.ctl]
  have htxb : bytesToNat (((barBytes b).drop 8).take 8) = b.txb := by
    rw [e, d1, bytesToNat_take_word h.txb]
  have hacc : bytesToNat (((barBytes b).drop 16).take 8) = b.acc := by
    rw [e, show 16 = 8 + 8 from rfl, ← List.drop_drop, d1, d2, bytesToNat_take_word h.acc]
  have hlast : bytesToNat (((barBytes b).drop 24).take 8) = b.last := by
    rw [e, show 24 = 8 + 8 + 8 from rfl, ← List.drop_drop, ← List.drop_drop, d1, d2, d3, bytesToNat_take_word h.last]
  rw [barRead_eq, hw 0 (by decide), hw 8 (by decide), hw 16 (by decide), hw 24 (by decide), hctl, htxb, hacc, hlast]

end

/-! ### What a change leaves of the homes -/

/-- Two states hold the same bytes at every home. -/
structure SameHomes (s t : State) : Prop where
  mem     : t.mem = s.mem
  lineKey : t.lineKey = s.lineKey
  keys    : t.keys = s.keys
  scratch : ∀ c, (coreOf t c).scratch = (coreOf s c).scratch

section
variable {s t : State}

theorem SameHomes.refl (s : State) : SameHomes s s := ⟨rfl, rfl, rfl, fun _ => rfl⟩

theorem SameHomes.trans {r : State} (h : SameHomes r s) (h' : SameHomes s t) : SameHomes r t :=
  ⟨h'.mem.trans h.mem, h'.lineKey.trans h.lineKey, h'.keys.trans h.keys, fun c => (h'.scratch c).trans (h.scratch c)⟩

theorem memByte_of_sameHomes (h : SameHomes s t) (slot pa : Nat) : memByte t slot pa = memByte s slot pa := by
  have hcell (a : Nat) : cell t a = cell s a := by rw [cell, cell, h.mem]
  have hslot (a : Nat) : lineSlot t a = lineSlot s a := by rw [lineSlot, lineSlot, h.lineKey]
  have hraw (line : Nat) : rawLine t line = rawLine s line := by simp only [rawLine, hcell]
  rw [memByte, memByte, hcell, hslot, lineImage_congr slot (pa / 128) (hslot _) (hraw _) h.keys]

theorem locByte_of_sameHomes (h : SameHomes s t) (core slot : Nat) (l : Loc) :
    locByte t core slot l = locByte s core slot l := by
  cases l with
  | scratch o => simp only [locByte, h.scratch]
  | phys pa d => exact memByte_of_sameHomes h slot pa

theorem barRead_of_sameHomes (h : SameHomes s t) (core slot : Nat) (l : Loc) :
    barRead t core slot l = barRead s core slot l := by
  simp only [barRead_eq, locNat_eq, locByte_of_sameHomes h]

end

section
variable (s : State)

theorem sameHomes_wakeWaiters (core : Nat) (home : Loc) : SameHomes s (wakeWaiters s core home) :=
  ⟨rfl, rfl, rfl, fun _ => rfl⟩

theorem sameHomes_countWin (home : Loc) (w : Nat × Nat) : SameHomes s (countWin s home w) := ⟨rfl, rfl, rfl, fun _ => rfl⟩

theorem sameHomes_unlock (by_ : LockBy) : SameHomes s (unlock s by_) := by
  refine ⟨rfl, rfl, rfl, fun c => ?_⟩
  simp only [coreOf, unlock, SMap.get]
  rw [SMap.find?_map s.cores c (fun e => (e.1, { e.2 with locks := e.2.locks.filter fun l => l.2.by_ ≠ by_ })) fun _ => rfl]
  cases SMap.find? s.cores c <;> rfl

theorem sameHomes_freeWins (home : Loc) : SameHomes s (freeWins s home) := by
  unfold freeWins
  exact List.foldlRecOn (motive := SameHomes s) _ _ ⟨rfl, rfl, rfl, fun _ => rfl⟩
    fun _ h _ _ => h.trans (sameHomes_unlock _ _)

end

/-! ### What a change leaves of the updates under way and of the fences -/

/-- The fences that a group, if there is one, still has to bring into force. -/
def fencesOf (s : State) (gid : Nat) : Option (List FenceRec) := (grp? s gid).map (·.fences)

/-- Two states have the same updates on their way to their homes, and the same groups with the same fences. -/
structure SameOrder (s t : State) : Prop where
  homeQ  : t.homeQ = s.homeQ
  fences : ∀ gid, fencesOf t gid = fencesOf s gid

theorem SameOrder.refl (s : State) : SameOrder s s := ⟨rfl, fun _ => rfl⟩

theorem SameOrder.trans {r s t : State} (h : SameOrder r s) (h' : SameOrder s t) : SameOrder r t :=
  ⟨h'.homeQ.trans h.homeQ, fun gid => (h'.fences gid).trans (h.fences gid)⟩

theorem sameOrder_foldl {α : Type} {f : State → α → State} (h : ∀ s x, SameOrder s (f s x)) (s : State) (xs : List α) :
    SameOrder s (xs.foldl f s) :=
  List.foldlRecOn (motive := SameOrder s) _ _ (.refl s) fun _ hs _ _ => hs.trans (h _ _)

section
variable (s : State)

/-- A change of each group that keeps its number and its fences. -/
theorem sameOrder_mapGroups (f : Nat × Group → Nat × Group) (hf : ∀ e, (f e).1 = e.1 ∧ (f e).2.fences = e.2.fences) :
    SameOrder s { s with groups := s.groups.map f } := by
  refine ⟨rfl, fun gid => ?_⟩
  simp only [fencesOf, grp?]
  rw [SMap.find?_map _ _ _ fun e => (hf e).1]
  cases SMap.find? s.groups gid with
  | none => rfl
  | some g => exact congrArg some (hf (gid, g)).2

theorem sameOrder_hitMonitors (pa n : Nat) : SameOrder s (hitMonitors s pa n) := by
  refine sameOrder_mapGroups s _ fun e => ?_
  split
  · split <;> exact ⟨rfl, rfl⟩
  · exact ⟨rfl, rfl⟩

theorem sameOrder_wakeWaiters (core : Nat) (home : Loc) : SameOrder s (wakeWaiters s core home) := by
  refine sameOrder_mapGroups s _ fun e => ?_
  split <;> exact ⟨rfl, rfl⟩

theorem sameOrder_dropCopies (pa n : Nat) : SameOrder s (dropCopies s pa n) := ⟨rfl, fun _ => rfl⟩
theorem sameOrder_modCore (c : Nat) (f : Core → Core) : SameOrder s (modCore s c f) := ⟨rfl, fun _ => rfl⟩
theorem sameOrder_modDie (d : Nat) (f : Die → Die) : SameOrder s (modDie s d f) := ⟨rfl, fun _ => rfl⟩
theorem sameOrder_countWin (home : Loc) (w : Nat × Nat) : SameOrder s (countWin s home w) := ⟨rfl, fun _ => rfl⟩
theorem sameOrder_unlock (by_ : LockBy) : SameOrder s (unlock s by_) := ⟨rfl, fun _ => rfl⟩
theorem sameOrder_setCell (pa : Nat) (b : Byte) : SameOrder s (setCell s pa b) := ⟨rfl, fun _ => rfl⟩

theorem sameOrder_setCells (pa : Nat) (bs : List Byte) : SameOrder s (setCells s pa bs) := by
  induction bs generalizing s pa with
  | nil => exact .refl s
  | cons b bs ih => exact (sameOrder_setCell s pa b).trans (ih _ _)

theorem sameOrder_claimLine (slot pa : Nat) : SameOrder s (claimLine s slot pa) := by
  unfold claimLine
  split
  · exact (sameOrder_setCells s _ _).trans ⟨rfl, fun _ => rfl⟩
  · exact .refl s

theorem sameOrder_memWrite (slot pa : Nat) (bs : List Byte) : SameOrder s (memWrite s slot pa bs) := by
  induction bs generalizing s pa with
  | nil => exact .refl s
  | cons b bs ih => exact ((sameOrder_claimLine s slot pa).trans (sameOrder_setCell _ pa b)).trans (ih _ _)

theorem sameOrder_homeWrite (slot pa : Nat) (bs : List Byte) : SameOrder s (homeWrite s slot pa bs) := by
  unfold homeWrite
  split
  · exact .refl s
  · exact ((sameOrder_memWrite s slot pa bs).trans (sameOrder_hitMonitors ..)).trans (sameOrder_dropCopies ..)

theorem sameOrder_scratchWrite (c off : Nat) (bs : List Byte) : SameOrder s (scratchWrite s c off bs) := by
  induction bs generalizing s off with
  | nil => exact .refl s
  | cons b bs ih => exact (sameOrder_modCore s c _).trans (ih _ _)

theorem sameOrder_locWrite (core slot : Nat) (l : Loc) (bs : List Byte) : SameOrder s (locWrite s core slot l bs) := by
  cases l with
  | scratch o => exact sameOrder_scratchWrite s core o bs
  | phys pa d => exact sameOrder_homeWrite s slot pa bs

theorem sameOrder_forwardLines (die : Nat) (on : Nat → Bool) : SameOrder s (forwardLines s die on) :=
  (sameOrder_modDie s die _).trans
    (sameOrder_foldl (fun s _ => sameOrder_foldl (fun s _ => sameOrder_homeWrite s _ _ _) s _) _ _)

theorem sameOrder_dieWrite (die slot line : Nat) (bs : List (Nat × Byte)) : SameOrder s (dieWrite s die slot line bs) := by
  unfold dieWrite
  split
  · exact .refl s
  · split
    · refine SameOrder.trans ?_ (sameOrder_modDie ..)
      split
      · exact sameOrder_forwardLines s die _
      · exact .refl s
    · exact sameOrder_foldl (fun s _ => sameOrder_homeWrite s _ _ _) s bs

theorem sameOrder_evictLine (c line : Nat) : SameOrder s (evictLine s c line) := by
  unfold evictLine
  split
  · exact .refl s
  · exact (sameOrder_dieWrite s _ _ _ _).trans (sameOrder_modCore ..)

theorem sameOrder_settleLine (c line : Nat) : SameOrder s (settleLine s c line) :=
  (sameOrder_evictLine s c line).trans (sameOrder_forwardLines _ _ _)

theorem sameOrder_barSync (core : Nat) (l : Loc) : SameOrder s (barSync s core l) := by
  cases l with
  | scratch o => exact .refl s
  | phys pa d => exact sameOrder_settleLine s core (pa / 128)

theorem sameOrder_freeWins (home : Loc) : SameOrder s (freeWins s home) := by
  unfold freeWins
  exact List.foldlRecOn (motive := SameOrder s) _ _ ⟨rfl, fun _ => rfl⟩
    fun _ h _ _ => h.trans (sameOrder_unlock _ _)

/-- Where no fence is to come into force, none does. -/
theorem settleFences_of_empty {gid : Nat} (h : ∀ g, grp? s gid = some g → g.fences = []) : settleFences s gid = s := by
  unfold settleFences
  split
  · rfl
  · next g hg => simp only [h g hg, List.isEmpty_nil, if_true]

end

/-! ### An update at its home (R96) -/

/-- What an update finds: the core of the group that sent it, if a group did, has given up its bytes of the line. -/
def homeSynced (s : State) (u : BarUpd) : State := if u.from_.isSome then barSync s u.core u.home else s

/-- The home after an update has written it, before the flip's consequences for others. -/
def updWritten (s : State) (u : BarUpd) : State :=
  let b := barRead (homeSynced s u) u.core u.slot u.home
  if barDiscards b u.op then homeSynced s u
  else locWrite (homeSynced s u) u.core u.slot u.home (barBytes (barApply b u.op).1)

/-- What follows from an update for the groups and windows that wait for its barrier (R105, R380). -/
def updFollowed (s : State) (u : BarUpd) (took flip : Bool) : State :=
  let s2 := match u.win with
    | some w => if took then countWin s u.home w else s
    | none => s
  if flip then freeWins (wakeWaiters s2 u.core u.home) u.home else s2

theorem performUpd_eq (s : State) (u : BarUpd) : ∃ took flip, performUpd s u = updFollowed (updWritten s u) u took flip :=
  ⟨_, _, rfl⟩

section
variable (s : State) (u : BarUpd)

theorem barRead_updWritten : barRead (updWritten s u) u.core u.slot u.home =
    (barApply (barRead (homeSynced s u) u.core u.slot u.home) u.op).1 := by
  simp only [updWritten]
  split
  · next h => rw [barApply_of_barDiscards h]
  · exact barRead_locWrite _ _ _ _ (barApply_fits (barRead_fits ..) _)

theorem sameOrder_updWritten : SameOrder s (updWritten s u) := by
  have hs : SameOrder s (homeSynced s u) := by
    unfold homeSynced
    split
    · exact sameOrder_barSync s _ _
    · exact .refl s
  simp only [updWritten]
  split
  · exact hs
  · exact hs.trans (sameOrder_locWrite ..)

/-- What follows from an update leaves the homes, the updates under way and the fences as they were. -/
theorem updFollowed_keeps (took flip : Bool) :
    SameHomes s (updFollowed s u took flip) ∧ SameOrder s (updFollowed s u took flip) := by
  have hwin (home : Loc) (w : Nat × Nat) : SameHomes s (if took then countWin s home w else s) ∧
      SameOrder s (if took then countWin s home w else s) := by
    split
    · exact ⟨sameHomes_countWin s home w, sameOrder_countWin s home w⟩
    · exact ⟨.refl s, .refl s⟩
  have hcount : SameHomes s (updFollowed s u took false) ∧ SameOrder s (updFollowed s u took false) := by
    simp only [updFollowed, Bool.false_eq_true, if_false]
    split
    · exact hwin _ _
    · exact ⟨.refl s, .refl s⟩
  cases flip with
  | false => exact hcount
  | true =>
    exact ⟨hcount.1.trans ((sameHomes_wakeWaiters _ u.core u.home).trans (sameHomes_freeWins _ u.home)),
      hcount.2.trans ((sameOrder_wakeWaiters _ u.core u.home).trans (sameOrder_freeWins _ u.home))⟩

theorem barRead_performUpd : barRead (performUpd s u) u.core u.slot u.home =
    (barApply (barRead (homeSynced s u) u.core u.slot u.home) u.op).1 := by
  obtain ⟨took, flip, e⟩ := performUpd_eq s u
  rw [e, barRead_of_sameHomes (updFollowed_keeps _ u took flip).1, barRead_updWritten]

theorem sameOrder_performUpd : SameOrder s (performUpd s u) := by
  obtain ⟨took, flip, e⟩ := performUpd_eq s u
  rw [e]
  exact (sameOrder_updWritten s u).trans (updFollowed_keeps _ u took flip).2

end

/-! ### The barrier-home events (R96) -/

/-- The event by which update `n` of those under way reaches its home (noncomputable because Lean's runtime has no tag for a
constructor so late in Instr). -/
noncomputable def homeEvent (n : Nat) : BarOp → Instr
  | .init _ => .barrierInit n
  | .arrive _ _ => .barrierArrival n
  | .expect _ => .barrierExpect n
  | .complete _ _ => .barrierEngineCompletion n

theorem exec_homeEvent (s : State) (n : Nat) (op : BarOp) :
    ∃ ok : BarOp → Bool, ok op = true ∧ exec (homeEvent n op) s = .next (reachHome s n ok) := by
  cases op <;> exact ⟨_, by rfl, rfl⟩

/-- An update that may go is performed; the group that sent it has no fence that waits for it. -/
theorem reachHome_performs {s : State} {n : Nat} {u : BarUpd} {ok : BarOp → Bool} (hu : s.homeQ[n]? = some u)
    (hok : ok u.op = true) (hfirst : updFirst s n u = true) (hheld : updHeld s u = false)
    (hfences : ∀ gid g, u.from_ = some gid → grp? s gid = some g → g.fences = []) :
    reachHome s n ok = performUpd { s with homeQ := s.homeQ.eraseIdx n } u := by
  simp only [reachHome, hu, hok, hfirst, hheld, Bool.not_false, Bool.and_self, if_true]
  split
  · next gid hg =>
    refine settleFences_of_empty _ fun g' hg' => ?_
    have hsame : fencesOf (performUpd { s with homeQ := s.homeQ.eraseIdx n } u) gid = fencesOf s gid :=
      (sameOrder_performUpd _ u).fences gid
    rw [fencesOf, hg', fencesOf] at hsame
    obtain ⟨g, hs, hf⟩ := Option.map_eq_some_iff.1 hsame.symm
    exact hf.symm.trans (hfences gid g hg hs)
  · rfl

/-- Settles O22: the table of R96 with the discards of R97 and the flip of R98, the merge of R99, and the events at a home. -/
theorem barrierUpdates : Obligations.BarrierUpdates := by
  unfold Obligations.BarrierUpdates
  refine ⟨fun b st m t hx _ => ⟨fun hm op hop => ?malformed, fun h0 hm => ?init, barApply_init_zero, fun hm => ?wellFormed⟩,
    fun acc c _ => ⟨mergeStatus_lt acc c, fun i hi => mergeStatus_testBit acc c hi, mergeStatus_keeps_counts acc c,
      fun h => ⟨mergeStatus_failures acc c h, mergeStatus_member acc c h⟩⟩,
    fun s n u hu hfirst hheld hfences => ?event⟩
  case malformed =>
    refine barApply_of_barDiscards ?_
    simp only [List.mem_cons, List.not_mem_nil, or_false] at hop
    rcases hop with rfl | rfl | rfl <;> exact hm
  case init =>
    rw [barApply_init_pos h0 hm]
    exact ⟨barExp_barCtl hm hm, barPend_barCtl hm, barPh_barCtl hm hm, rfl, rfl, rfl, malformed_barCtl hm le_rfl, rfl⟩
  case wellFormed =>
    have hp := barPend_lt b.ctl
    rw [barApply_arrive hm, barApply_expect hm, barApply_complete hm]
    refine ⟨fun h => if_pos h, fun h => if_pos h, fun h => if_pos h, ?_, ?_, ?_, ?_, ?_⟩
    · intro he h0 hle
      rw [if_neg (by omega)]
      exact ⟨fun h => barSettle_flip (by omega) h.2, fun h => barSettle_pending (by omega) (by omega)⟩
    · intro he h0 ht hleft
      rw [if_neg (by omega)]
      have hzero := subBytes_eq_zero_iff hx h0 ht
      obtain ⟨rpend, rexp, rph, rtxb, rest⟩ := barSettle_pending (b := b) (a := mergeStatus b.acc st) hp
        fun h => hleft.elim (· h.1) (· (hzero.1 h.2))
      exact ⟨rpend, rexp, rph, (congrArg Int.ofNat rtxb).trans (subBytes_toInt ht), rest⟩
    · intro he h0 ht hp0 ht0
      rw [if_neg (by omega)]
      exact barSettle_flip hp0 ((subBytes_eq_zero_iff hx h0 ht).2 ht0)
    · intro he h0 ht hleft
      rw [if_neg (by omega)]
      exact barSettle_pending hp fun h => hleft.elim (· h.1) (· h.2)
    · intro he h0 ht hp0 hx0
      rw [if_neg (by omega)]
      exact barSettle_flip hp0 hx0
  case event =>
    obtain ⟨ok, hok, hexec⟩ := exec_homeEvent s n u.op
    refine ⟨_, hexec, ?_⟩
    rw [reachHome_performs hu hok hfirst hheld hfences]
    exact ⟨(sameOrder_performUpd _ u).homeQ, barRead_performUpd _ u⟩

end Sys2Proof.Machine
end

section
/-! PROOFS. The immediate forms, LUI, AUIPC and the exec mask (R275 to R277): each operation on an immediate is the exact result
that the spec names, and a register instruction that issues writes it and goes on to the next word. -/

namespace Sys2Proof.Machine

open Sys2Proof

/-! ### Signed immediates and offsets (R255) -/

theorem sx_eq_ofInt {n : Nat} (imm : BitVec n) : sx imm = BitVec.ofInt 64 imm.toInt := rfl

theorem toInt_sx {n : Nat} (h : n ≤ 64) (imm : BitVec n) : (sx imm).toInt = imm.toInt := BitVec.toInt_signExtend_of_le h

/-- A word added to a word given as an integer. -/
theorem add_ofInt (x : Word) (v : Int) : x + BitVec.ofInt 64 v = BitVec.ofInt 64 (x.toInt + v) := by
  rw [BitVec.ofInt_add, BitVec.ofInt_toInt]

theorem upper_eq_ofInt (imm : BitVec 20) : upper imm = BitVec.ofInt 64 (imm.toInt * 2 ^ 14) := by
  rw [BitVec.ofInt_mul, ← sx_eq_ofInt, upper, BitVec.shiftLeft_eq_mul_twoPow]
  rfl

/-! ### The operations of the AI instructions (R275) -/

theorem ite_one_zero_eq_ofInt_flag (c : Prop) [Decidable c] : (if c then 1 else 0 : Word) = BitVec.ofInt 64 (flag c) := by
  by_cases h : c
  · rw [flag, if_pos h, if_pos h]; rfl
  · rw [flag, if_neg h, if_neg h]; rfl

section
variable (x : Word) (imm : BitVec 14) (amt : BitVec 6)

theorem opAdd_sx : opAdd 64 x (sx imm) = BitVec.ofInt 64 (x.toInt + imm.toInt) := add_ofInt x imm.toInt

theorem opSlt_sx : opSlt 64 x (sx imm) = BitVec.ofInt 64 (flag (x.toInt < imm.toInt)) := by
  rw [← ite_one_zero_eq_ofInt_flag, ← toInt_sx (by decide) imm]
  simp only [opSlt, BitVec.slt_iff_toInt_lt]

theorem opSeq_sx : opSeq 64 x (sx imm) = BitVec.ofInt 64 (flag (x.toInt = imm.toInt)) := by
  rw [← ite_one_zero_eq_ofInt_flag, ← toInt_sx (by decide) imm]
  simp only [opSeq, BitVec.toInt_inj]

/-- A six-bit amount is below the width: the shifts take it as it is. -/
theorem zeroExtend_amt_mod : (amt.zeroExtend 64).toNat % 64 = amt.toNat := by
  have hlt := amt.isLt
  rw [BitVec.zeroExtend, BitVec.toNat_setWidth]
  omega

theorem opShl_amt : opShl 64 x (amt.zeroExtend 64) = BitVec.ofNat 64 (x.toNat * 2 ^ amt.toNat) := by
  apply BitVec.eq_of_toNat_eq
  rw [opShl, zeroExtend_amt_mod, BitVec.toNat_shiftLeft, Nat.shiftLeft_eq, BitVec.toNat_ofNat]

theorem opShr_amt : opShr 64 x (amt.zeroExtend 64) = BitVec.ofNat 64 (x.toNat / 2 ^ amt.toNat) := by
  have hle : x.toNat / 2 ^ amt.toNat ≤ x.toNat := Nat.div_le_self _ _
  apply BitVec.eq_of_toNat_eq
  rw [opShr, zeroExtend_amt_mod, BitVec.toNat_ushiftRight, Nat.shiftRight_eq_div_pow, BitVec.toNat_ofNat,
    Nat.mod_eq_of_lt (hle.trans_lt x.isLt)]

theorem opSar_amt : opSar 64 x (amt.zeroExtend 64) = BitVec.ofInt 64 (x.toInt / 2 ^ amt.toNat) := by
  rw [opSar, zeroExtend_amt_mod, BitVec.sshiftRight, Int.shiftRight_eq_div_pow]
  norm_cast

end

/-! ### Instructions that change only the group's registers -/

section
variable {i : Instr} {s : State} {gid : Nat} {g : Group} {k : Kernel} {f : Group → Group} {y : Group}

/-- A register instruction that issues leaves the group as its own function makes it. -/
theorem exec_eq_setGrp (hi : IssuesA i s gid g k) (hexec : exec i s = issueReg i s f) (hf : f g = y) :
    exec i s = .next (setGrp s gid y) := by
  rw [hexec, issueReg_of hi, hf]

/-- A register instruction whose function writes `v` to `d` and goes on to the next word. -/
theorem exec_eq_wrote {d : BitVec 6} {v : Word} (hi : IssuesA i s gid g k) (hexec : exec i s = issueReg i s f)
    (hf : f g = advance (ws g d v)) : exec i s = .next (wrote s gid g d v) := exec_eq_setGrp hi hexec hf

/-- An AI instruction whose operation gives `v`. -/
theorem exec_eq_wrote_of_immStep {op : (n : Nat) → BitVec n → BitVec n → BitVec n} {d a : BitVec 6} {c v : Word}
    (hi : IssuesA i s gid g k) (hexec : exec i s = issueReg i s (immStep op d a c)) (hop : op 64 (rs g a) c = v) :
    exec i s = .next (wrote s gid g d v) := exec_eq_wrote hi hexec (by rw [immStep, hop])

end

/-- Settles O10: each operation on the immediate is the exact result, and every mask written is ANDed with the present one. -/
theorem immediateAndMaskResults : Obligations.ImmediateAndMaskResults := by
  unfold Obligations.ImmediateAndMaskResults
  constructor
  case left =>
    intro s gid g k d a amt imm up
    simp only [List.forall_mem_cons, List.not_mem_nil, false_imp_iff, implies_true, and_true]
    refine ⟨?addi, ?andi, ?ori, ?xori, ?shli, ?shri, ?sari, ?slti, ?seqi, ?lui, ?auipc⟩ <;> intro hi
    case addi => exact exec_eq_wrote_of_immStep hi rfl (opAdd_sx _ imm)
    case andi => exact exec_eq_wrote_of_immStep (op := opAnd) hi rfl rfl
    case ori => exact exec_eq_wrote_of_immStep (op := opOr) hi rfl rfl
    case xori => exact exec_eq_wrote_of_immStep (op := opXor) hi rfl rfl
    case shli => exact exec_eq_wrote_of_immStep hi rfl (opShl_amt _ amt)
    case shri => exact exec_eq_wrote_of_immStep hi rfl (opShr_amt _ amt)
    case sari => exact exec_eq_wrote_of_immStep hi rfl (opSar_amt _ amt)
    case slti => exact exec_eq_wrote_of_immStep hi rfl (opSlt_sx _ imm)
    case seqi => exact exec_eq_wrote_of_immStep hi rfl (opSeq_sx _ imm)
    case lui => exact exec_eq_wrote hi rfl (by rw [upper_eq_ofInt])
    case auipc => exact exec_eq_wrote hi rfl (by rw [upper_eq_ofInt, add_ofInt])
  case right =>
    intro s gid g k d a
    simp only [List.forall_mem_cons, List.not_mem_nil, false_imp_iff, implies_true, and_true]
    refine ⟨⟨?emset, ?emand, ?emandn, ?emor⟩, ?emget⟩ <;> intro hi
    case emset | emand | emandn | emor => exact exec_eq_setGrp hi rfl rfl
    case emget => exact exec_eq_wrote hi rfl rfl

end Sys2Proof.Machine
end

section
/-! PROOFS. Jumps, calls and branches (R279 to R282): targets, the tests of R280, and where each instruction goes. -/

namespace Sys2Proof.Machine

open Sys2Proof

/-! ### Targets and tests -/

theorem target_eq_relTarget {n : Nat} (pc : Word) (off : BitVec n) : target pc off = relTarget pc off := by
  rw [relTarget, ← add_ofInt, BitVec.ofInt_mul]
  rfl

section
variable (v : Word) (em : BitVec 32)

/-- Bit `l` of the low word masked by em. -/
theorem getLsbD_truncate_and {l : Nat} (hl : l < 32) :
    (v.truncate 32 &&& em).getLsbD l = (v.getLsbD l && em.getLsbD l) := by
  rw [BitVec.getLsbD_and, BitVec.truncate, BitVec.getLsbD_setWidth, decide_eq_true hl, Bool.true_and]

/-- BALLEM (R280). -/
theorem truncate_and_eq_self_iff :
    v.truncate 32 &&& em = em ↔ ∀ l < 32, em.getLsbD l = true → v.getLsbD l = true := by
  rw [BitVec.eq_of_getLsbD_eq_iff]
  refine forall₂_congr fun l hl => ?_
  rw [getLsbD_truncate_and v em hl]
  cases v.getLsbD l <;> cases em.getLsbD l <;> decide

/-- BNONEEM (R280). -/
theorem truncate_and_eq_zero_iff :
    v.truncate 32 &&& em = 0 ↔ ∀ l < 32, em.getLsbD l = true → v.getLsbD l = false := by
  rw [BitVec.eq_of_getLsbD_eq_iff]
  refine forall₂_congr fun l hl => ?_
  rw [getLsbD_truncate_and v em hl, show (0 : BitVec 32).getLsbD l = false from BitVec.getLsbD_zero]
  cases v.getLsbD l <;> cases em.getLsbD l <;> decide

/-- BANYEM (R280). -/
theorem truncate_and_ne_zero_iff :
    v.truncate 32 &&& em ≠ 0 ↔ ∃ l < 32, em.getLsbD l = true ∧ v.getLsbD l = true := by
  rw [Ne, truncate_and_eq_zero_iff]
  push Not
  simp only [ne_eq, Bool.not_eq_false]

theorem not_slt_iff_toInt_le (x y : Word) : (!x.slt y) = true ↔ y.toInt ≤ x.toInt := by
  rw [Bool.not_eq_true', ← Bool.not_eq_true, BitVec.slt_iff_toInt_lt, Int.not_lt]

/-- The machine's condition is the test of R280. -/
theorem ccHolds_iff_ccTest (cc : BitVec 4) : ccHolds cc v em = true ↔ ccTest cc.toNat v em := by
  unfold ccHolds ccTest
  generalize cc.toNat = c
  -- the codes 0 to 5 compare with zero, the others test the bits of em
  match c with
  | 0 => exact beq_iff_eq
  | 1 => exact bne_iff_ne
  | 2 => exact BitVec.slt_iff_toInt_lt
  | 3 => exact not_slt_iff_toInt_le v 0
  | 4 => exact BitVec.slt_iff_toInt_lt
  | 5 => exact not_slt_iff_toInt_le 0 v
  | 6 => exact beq_iff_eq.trans (truncate_and_eq_self_iff v em)
  | 7 => exact bne_iff_ne.trans (truncate_and_ne_zero_iff v em)
  | _ + 8 => exact beq_iff_eq.trans (truncate_and_eq_zero_iff v em)

end

/-! ### Branches -/

section
variable {g : Group} {cc : BitVec 4} {v : Word} {em : BitVec 32}

theorem branch_of_ccTest (off : BitVec 16) (h : ccTest cc.toNat v em) :
    branch g (ccHolds cc v em) off = jump g (relTarget g.pc off) := by
  rw [branch, if_pos ((ccHolds_iff_ccTest v em cc).2 h), target_eq_relTarget]

theorem branch_of_not_ccTest (off : BitVec 16) (h : ¬ ccTest cc.toNat v em) :
    branch g (ccHolds cc v em) off = jump g (g.pc + 4) := by
  rw [branch, if_neg (mt (ccHolds_iff_ccTest v em cc).1 h)]

@[simp] theorem ws_pc (g : Group) (n : BitVec 6) (x : Word) : (ws g n x).pc = g.pc := by
  unfold ws
  split_ifs <;> rfl

/-- LOOPD's branch, by the register it counts down (R281). -/
theorem branch_ws_countdown (a : BitVec 6) (off : BitVec 16) :
    branch (ws g a (v - 1)) (v - 1 != 0) off =
      jump (ws g a (v - 1)) (if v = 1 then g.pc + 4 else relTarget g.pc off) := by
  rw [branch, ws_pc, target_eq_relTarget]
  by_cases h : v = 1
  · rw [h]; rfl
  · have hne : v - 1 ≠ 0 := fun h0 => h (sub_eq_zero.1 h0)
    rw [if_pos (bne_iff_ne.2 hne), if_neg h]

end

/-! ### Jumps to a register -/

theorem jumpReg_of_aligned {s : State} {gid : Nat} {g g' : Group} {t : Word} (h : t.toNat % 4 = 0) :
    jumpReg s gid g g' t = setGrp s gid (jump g' t) := if_neg (not_not.2 h)

/-- A register jump that issues goes to an aligned target. -/
theorem exec_jumpReg {i : Instr} {s : State} {gid : Nat} {g : Group} {k : Kernel} {x : Group → Group} {t : Group → Word}
    (hi : IssuesA i s gid g k) (hexec : exec i s = issueA i s fun gid g s => jumpReg s gid g (x g) (t g))
    (ht : (t g).toNat % 4 = 0) : exec i s = .next (setGrp s gid (jump (x g) (t g))) := by
  rw [hexec, issueA_of hi, jumpReg_of_aligned ht]

/-- BXQ with an entry in XQ branches on it and pops it (R282). -/
theorem exec_bxq_of_cons {s : State} {gid : Nat} {g : Group} {k : Kernel} {cc : BitVec 4} {off : BitVec 16} {v : Word}
    {rest : List Word} (hxq : g.xq = v :: rest) (hi : IssuesA (.bxq cc off) s gid g k) :
    exec (.bxq cc off) s = .next (setGrp s gid (branch { g with xq := rest } (ccHolds cc v g.em) off)) :=
  exec_eq_setGrp hi rfl (by rw [hxq])

/-- Settles O12: the targets of the jumps, and each branch by its test. -/
theorem jumpAndBranchResults : Obligations.JumpAndBranchResults := by
  unfold Obligations.JumpAndBranchResults
  constructor
  case left =>
    intro s gid g k a off
    refine ⟨?j, ?call, fun haligned => ⟨?jr, ?callr⟩⟩ <;> intro hi
    case j => exact exec_eq_setGrp hi rfl (by rw [target_eq_relTarget])
    case call => exact exec_eq_setGrp hi rfl (by rw [target_eq_relTarget])
    case jr => exact exec_jumpReg (x := id) (t := (rs · a)) hi rfl haligned
    case callr => exact exec_jumpReg (x := fun g => link g (g.pc + 4)) (t := (rs · a)) hi rfl haligned
  case right =>
    intro s gid g k cc a off
    refine ⟨fun hi => ⟨fun h => ?bccTaken, fun h => ?bccNext⟩, fun hi => ?loopd,
      fun v rest hxq hi => ⟨fun h => ?bxqTaken, fun h => ?bxqNext⟩⟩
    case bccTaken => exact exec_eq_setGrp hi rfl (branch_of_ccTest off h)
    case bccNext => exact exec_eq_setGrp hi rfl (branch_of_not_ccTest off h)
    case loopd => exact exec_eq_setGrp hi rfl (branch_ws_countdown a off)
    case bxqTaken => rw [exec_bxq_of_cons hxq hi, branch_of_ccTest off h]
    case bxqNext => rw [exec_bxq_of_cons hxq hi, branch_of_not_ccTest off h]

end Sys2Proof.Machine
end

section
/-! PROOFS. The cross-lane instructions (R315 to R322): the lane that each lane reads, ballots, prefixes, the tree of R249, the
ranks of VTOPK, and the transfers between lanes and k-registers. -/

namespace Sys2Proof.Machine

open Sys2Proof

/-! ### C-instructions that change only the group -/

section
variable {i : Instr} {s : State} {gid : Nat} {g : Group} {k : Kernel} {p : CPos}

/-- A C-instruction that issues leaves the group as its own function makes it. -/
theorem exec_eq_cNext {body : CEnv → Group → Group} {x : Group} (hi : IssuesC i s gid g k p)
    (hexec : exec i s = issueC i s body) (hx : body (cEnv k g i) (popLq (cEnv k g i) g) = x) :
    exec i s = .next (cNext s gid (cEnv k g i) x) := by
  rw [hexec, issueC_of hi, hx]

theorem laneResult_of {body : CEnv → Group → Group} {val : Nat → Word} {q : CEnv → Nat → Word → Prop}
    (hi : IssuesC i s gid g k p) (hexec : exec i s = issueC i s body)
    (hbody : body (cEnv k g i) (popLq (cEnv k g i) g) = putLanes (cEnv k g i) (popLq (cEnv k g i) g) val)
    (hq : ∀ l, l < 32 → q (cEnv k g i) l (val l)) : LaneResult i s gid g k q :=
  ⟨val, exec_eq_cNext hi hexec hbody, hq⟩

theorem uniformResult_of {body : CEnv → Group → Group} {v : Word} {q : CEnv → Word → Prop}
    (hi : IssuesC i s gid g k p) (hexec : exec i s = issueC i s body)
    (hbody : body (cEnv k g i) (popLq (cEnv k g i) g) = putUniform (cEnv k g i) (popLq (cEnv k g i) g) v)
    (hq : q (cEnv k g i) v) : UniformResult i s gid g k q :=
  ⟨v, exec_eq_cNext hi hexec hbody, hq⟩

end

section
variable {e : CEnv} {g : Group} {lanes : Nat → Word} {uni : Word}

theorem putEither_of_v (h : e.f.dk = 0) : putEither e g lanes uni = putLanes e g lanes :=
  if_neg (by rw [h]; decide)

theorem putEither_of_uniform (h : e.f.dk = 1 ∨ e.f.dk = 3) : putEither e g lanes uni = putUniform e g uni := if_pos h

end

/-- Two writes that wait for their latency, in their order (R264). -/
theorem delayed_delayed (e : CEnv) (g : Group) (r r' : RegRef) (x x' : SMap Word) : delayed e (delayed e g r x) r' x' =
    { g with pend := g.pend ++
        [{ reg := r, val := x, left := latency e.i }, { reg := r', val := x', left := latency e.i }] } := by
  rw [delayed, delayed, List.append_assoc, List.singleton_append]

/-! ### What an instruction that issues may name (R262, R263) -/

section
variable {i : Instr} {s : State} {gid : Nat} {g : Group} {k : Kernel} {p : CPos}

/-- A C-instruction that issues is well formed (R268). -/
theorem IssuesC.wf (hi : IssuesC i s gid g k p) : i.wf = true := by
  obtain ⟨_, _, _, _, hfate⟩ := hi
  unfold cFate at hfate
  by_cases hwf : i.wf = true
  · exact hwf
  · have hill : cIllegal k p i = true := by simp [cIllegal, hwf]
    rw [if_pos hill] at hfate
    exact absurd hfate (Option.some_ne_none _)

/-- The kinds and the destination that the entry of a C-instruction accepts. -/
theorem IssuesC.accepted {f : CFields} {sp : CSpec} (hi : IssuesC i s gid g k p) (hspec : cSpec i = some (f, sp))
    (hwf : i.wf = (cWf i && oWf i)) :
    operandOk sp.a f.ty.toNat f.a f.ak = true ∧ operandOk sp.b f.ty.toNat f.b f.bk = true ∧ destOk sp f = true := by
  have h := hi.wf
  simp only [hwf, cWf, hspec, commonOk, Bool.and_eq_true] at h
  tauto

end

theorem cFields_of_cSpec {i : Instr} {f : CFields} {sp : CSpec} (h : cSpec i = some (f, sp)) : cFields i = f := by
  rw [cFields, h]
  rfl

theorem kind_mem_of_operandOk {ks : List Nat} {ty : Nat} {v : BitVec 8} {kd : BitVec 2} (hne : ks.isEmpty = false)
    (h : operandOk ks ty v kd = true) : kd.toNat ∈ ks := by
  rw [operandOk, hne, if_neg Bool.false_ne_true, Bool.and_eq_true] at h
  exact List.contains_iff_mem.1 h.1

/-- A destination accepted among lanes, k-registers and XQ that is not lanes is uniform. -/
theorem uniform_of_destOk {sp : CSpec} {f : CFields} (hdks : sp.dks = [0, 1, 3]) (h : destOk sp f = true) (h0 : f.dk ≠ 0) :
    f.dk = 1 ∨ f.dk = 3 := by
  have hmem : f.dk.toNat ∈ [0, 1, 3] := hdks ▸ List.contains_iff_mem.1 (Bool.and_eq_true_iff.1 h).1
  simp only [List.mem_cons, List.not_mem_nil, or_false] at hmem
  rcases hmem with hd | hd | hd
  · exact absurd (BitVec.eq_of_toNat_eq hd) h0
  · exact .inl (BitVec.eq_of_toNat_eq hd)
  · exact .inr (BitVec.eq_of_toNat_eq hd)

/-- An instruction that gives a value to lanes, or another to a k-register or XQ, gives the one that its destination takes
(R317, R319). -/
theorem eitherResult_of {i : Instr} {s : State} {gid : Nat} {g : Group} {k : Kernel} {p : CPos} {f : CFields} {sp : CSpec}
    {lanes : CEnv → Nat → Word} {uni : CEnv → Word} {q : CEnv → Nat → Word → Prop} {q' : CEnv → Word → Prop}
    (hi : IssuesC i s gid g k p) (hexec : exec i s = issueC i s fun e g => putEither e g (lanes e) (uni e))
    (hspec : cSpec i = some (f, sp)) (hdks : sp.dks = [0, 1, 3]) (hwf : i.wf = (cWf i && oWf i))
    (hlanes : ∀ l, l < 32 → q (cEnv k g i) l (lanes (cEnv k g i) l)) (huni : q' (cEnv k g i) (uni (cEnv k g i))) :
    (f.dk = 0 → LaneResult i s gid g k q) ∧ (f.dk ≠ 0 → UniformResult i s gid g k q') := by
  obtain ⟨_, _, hdest⟩ := hi.accepted hspec hwf
  have hf : (cEnv k g i).f = f := cFields_of_cSpec hspec
  constructor <;> intro h
  · exact laneResult_of hi hexec (putEither_of_v (hf ▸ h)) hlanes
  · exact uniformResult_of hi hexec (putEither_of_uniform (hf ▸ uniform_of_destOk hdks hdest h)) huni

/-! ### Operand values by lane -/

theorem mem_allLanes {l : Nat} : l ∈ allLanes ↔ l < 32 := List.mem_range

theorem mem_lanesOf {m : BitVec 32} {l : Nat} : l ∈ lanesOf m ↔ l < 32 ∧ m.getLsbD l = true := by
  rw [lanesOf, List.mem_filter, mem_allLanes]

theorem pairwise_lanesOf (m : BitVec 32) : (lanesOf m).Pairwise (· < ·) := List.pairwise_lt_range.filter _

theorem nodup_lanesOf (m : BitVec 32) : (lanesOf m).Nodup := (pairwise_lanesOf m).imp Nat.ne_of_lt

/-- The non-zero values of a function as a table read as the function. -/
theorem get_filter_map (f : Nat → Word) (ls : List Nat) (l : Nat) :
    SMap.get ((ls.map fun j => (j, f j)).filter fun e => e.2 ≠ 0) 0 l = if l ∈ ls then f l else 0 := by
  induction ls with
  | nil => rfl
  | cons a ls ih =>
    rw [List.map_cons]
    by_cases h0 : f a = 0
    · rw [List.filter_cons_of_neg (by simpa using h0), ih]
      by_cases hl : l = a <;> simp [hl, h0]
    · rw [List.filter_cons_of_pos (by simpa using h0), SMap.get, SMap.find?_cons]
      by_cases hl : l = a
      · simp [hl]
      · simpa [hl, SMap.get] using ih

theorem get_perLane (f : Nat → Word) {l : Nat} (hl : l < 32) : SMap.get (perLane f) 0 l = f l := by
  rw [perLane, get_filter_map, if_pos (mem_allLanes.2 hl)]

/-- A k-register or an immediate has one value in every lane (R262). -/
theorem get_readOperand_uniform {k : Kernel} {g : Group} {f : CFields} {o : Nat × Nat} {p l : Nat} (ho : o.2 = 1 ∨ o.2 = 3)
    (hl : l < 32) : SMap.get (readOperand k g f o p).1 0 l = SMap.get (readOperand k g f o p).1 0 0 := by
  obtain ⟨v, kd⟩ := o
  have h0 := Nat.zero_lt_of_lt hl
  rcases ho with rfl | rfl <;> exact (get_perLane (fun _ => _) hl).trans (get_perLane (fun _ => _) h0).symm

/-- A k-register's low 32 bits stand in every lane (R262). -/
theorem getLsbD_readOperand_k (k : Kernel) (g : Group) (f : CFields) (n p : Nat) {l b : Nat} (hl : l < 32) (hb : b < 32) :
    (SMap.get (readOperand k g f (n, 1) p).1 0 l).getLsbD b = (kReg g n).getLsbD b := by
  have hlow : ∀ b < 32, (0xFFFFFFFF : Word).getLsbD b = true := by decide
  refine (congrArg (·.getLsbD b) (get_perLane (fun _ => _) hl)).trans ?_
  split
  · rfl
  · rw [BitVec.getLsbD_and, hlow b hb, Bool.and_true]

/-! ### Masks (R317) -/

theorem getLsbD_laneBit (j l : Nat) : (laneBit j).getLsbD l = (decide (l < 32) && decide (j = l)) := by
  rw [laneBit, BitVec.getLsbD_ofNat, Nat.testBit_two_pow]

theorem getLsbD_maskOf (ls : List Nat) (l : Nat) : (maskOf ls).getLsbD l = true ↔ l < 32 ∧ l ∈ ls := by
  have general (m : BitVec 32) : (ls.foldl (fun m j => m ||| laneBit j) m).getLsbD l = true ↔
      m.getLsbD l = true ∨ l < 32 ∧ l ∈ ls := by
    induction ls generalizing m with
    | nil => simp
    | cons j ls ih =>
      rw [List.foldl_cons, ih, BitVec.getLsbD_or, Bool.or_eq_true, getLsbD_laneBit, Bool.and_eq_true, decide_eq_true_eq,
        decide_eq_true_eq, List.mem_cons, eq_comm (a := j)]
      tauto
  exact (general 0).trans (by simp)

/-- The ballot of R317 holds the lanes of L whose value is not zero. -/
theorem getLsbD_ballot (e : CEnv) (l : Nat) :
    ((maskOf ((lanesOf e.lset).filter fun j => e.av j ≠ 0)).zeroExtend 64).getLsbD l = true ↔
      l < 32 ∧ e.lset.getLsbD l = true ∧ e.av l ≠ 0 := by
  rw [BitVec.zeroExtend, BitVec.getLsbD_setWidth, Bool.and_eq_true, getLsbD_maskOf, List.mem_filter, mem_lanesOf,
    decide_eq_true_eq, decide_eq_true_eq]
  constructor
  · rintro ⟨_, hl, ⟨_, hL⟩, hv⟩
    exact ⟨hl, hL, hv⟩
  · rintro ⟨hl, hL, hv⟩
    exact ⟨by omega, hl, ⟨hl, hL⟩, hv⟩

/-! ### Prefixes (R318) -/

/-- What VPREFIX gives a lane: the running combination of the listed lanes below it, and of itself under incl. -/
theorem find?_prefixes (step : Nat → Nat → Nat) (incl : Bool) (e : CEnv) {l : Nat} {ls : List Nat}
    (hsorted : ls.Pairwise (· < ·)) (hl : l ∈ ls) (t : Option Nat) :
    ((prefixes step incl e ls t).find? fun x => x.1 = l).map (·.2) =
      some ((ls.filter fun j => decide (j < l) || (incl && decide (j = l))).foldl
        (fun t j => redJoin step t (redLeaf e j)) t) := by
  induction ls generalizing t with
  | nil => exact absurd hl List.not_mem_nil
  | cons a ls ih =>
    obtain ⟨hlt, hsorted⟩ := List.pairwise_cons.1 hsorted
    rw [prefixes]
    rcases List.mem_cons.1 hl with rfl | hmem
    · have hrest : (ls.filter fun j => decide (j < l) || (incl && decide (j = l))) = [] := by
        refine List.filter_eq_nil_iff.2 fun j hj => ?_
        have hlj := hlt j hj
        simp [hlj.le, hlj.ne']
      rw [List.find?_cons_of_pos (by simp), Option.map_some, List.filter_cons, hrest]
      cases incl <;> simp
    · have hal := hlt l hmem
      rw [List.find?_cons_of_neg (by simpa using hal.ne), ih hsorted hmem, List.filter_cons_of_pos (by simp [hal]),
        List.foldl_cons]

/-- VPREFIX gives a lane of L the combination of the lanes that R318 names. -/
theorem find?_prefixes_lanesOf (step : Nat → Nat → Nat) (incl : Bool) (e : CEnv) {l : Nat} (hl : l < 32)
    (hL : e.lset.getLsbD l = true) :
    (((prefixes step incl e (lanesOf e.lset) none).find? fun x => x.1 = l).map (·.2)).getD none =
      (lanesUpTo e.lset incl l).foldl (fun t j => redJoin step t (redLeaf e j)) none := by
  rw [find?_prefixes step incl e (pairwise_lanesOf _) (mem_lanesOf.2 ⟨hl, hL⟩) none]
  rfl

theorem prefixOp_mod (c : Nat) : prefixOp (c % 4) = prefixOp c := by rw [prefixOp, Nat.mod_mod]; rfl

/-- The incl bit of VPREFIX's control (R318). -/
theorem getLsbD_two_eq (c : BitVec 8) : c.getLsbD 2 = decide (c.toNat / 4 % 2 = 1) := Nat.testBit_eq_decide_div_mod_eq

/-! ### Sums (R229, R249, R318) -/

section
variable {e : CEnv}

/-- Signed or not, an element of 32 bits stands for itself modulo 2^32. -/
theorem toI_emod {ty : Nat} (hty : ty = 0 ∨ ty = 1) (x : Nat) : toI ty x % 2 ^ 32 = (x : Int) % 2 ^ 32 := by
  have hbits : elemBits ty = 32 := by rcases hty with rfl | rfl <;> rfl
  simp only [toI, hbits]
  split
  · exact Int.sub_emod_right _ _
  · rfl

/-- Without sat an integer add of 32 bits wraps (R229). -/
theorem stepOf_add (hty : e.ty = 0 ∨ e.ty = 1) (hmod : e.f.mod = 0) (a b : Nat) : stepOf e .add a b = (a + b) % 2 ^ 32 := by
  have hsat : satM e.f = false := by rw [satM, hmod]; rfl
  have hbits : elemBits e.ty = 32 := by rcases hty with h | h <;> rw [h] <;> rfl
  have hint : e.ty ≠ 6 := by omega
  have hsum : (toI e.ty a + toI e.ty b) % 2 ^ 32 = ((a + b) % 2 ^ 32 : Nat) := by
    rw [Int.add_emod, toI_emod hty, toI_emod hty, ← Int.add_emod]
    norm_cast
  rw [stepOf, redStep, if_neg hint, toElem, hsat, hbits, if_neg Bool.false_ne_true]
  exact congrArg Int.toNat hsum

/-- The sum of some lanes, modulo 2^32. -/
def laneSum (e : CEnv) (ls : List Nat) : Nat := (ls.map fun l => (e.av l).toNat).sum % 2 ^ 32

theorem laneSum_append (ls ms : List Nat) : laneSum e (ls ++ ms) = (laneSum e ls + laneSum e ms) % 2 ^ 32 := by
  rw [laneSum, List.map_append, List.sum_append, Nat.add_mod]
  rfl

theorem laneSum_singleton (l : Nat) : laneSum e [l] = (e.av l).toNat % 2 ^ 32 := by
  rw [laneSum, List.map_singleton, List.sum_singleton]

theorem laneSum_lt (ls : List Nat) : laneSum e ls < 2 ^ 32 := Nat.mod_lt _ (by decide)

theorem redLeaf_getD (l : Nat) : (redLeaf e l).getD 0 = laneSum e ([l].filter fun j => e.lset.getLsbD j) := by
  by_cases h : e.lset.getLsbD l = true
  · rw [redLeaf, if_pos h, List.filter_cons_of_pos h, List.filter_nil, laneSum_singleton]
    rfl
  · rw [redLeaf, if_neg h, List.filter_cons_of_neg h]
    rfl

theorem redJoin_getD {step : Nat → Nat → Nat} (hstep : ∀ a b, step a b = (a + b) % 2 ^ 32) {a b : Option Nat}
    (ha : a.getD 0 < 2 ^ 32) (hb : b.getD 0 < 2 ^ 32) :
    (redJoin step a b).getD 0 = (a.getD 0 + b.getD 0) % 2 ^ 32 := by
  match a, b with
  | none, b =>
    rw [Option.getD_none, Nat.zero_add, Nat.mod_eq_of_lt hb]
    rfl
  | some x, none => exact (Nat.mod_eq_of_lt ha).symm
  | some x, some y => exact hstep x y

/-- The tree of R249 over an add is the sum of its lanes of L. -/
theorem redTree_getD {step : Nat → Nat → Nat} (hstep : ∀ a b, step a b = (a + b) % 2 ^ 32) (n l : Nat) :
    (redTree step (redLeaf e) n l).getD 0 = laneSum e ((List.range' l (2 ^ n)).filter fun j => e.lset.getLsbD j) := by
  induction n generalizing l with
  | zero => exact redLeaf_getD l
  | succ n ih =>
    rw [redTree, redJoin_getD hstep (by rw [ih]; exact laneSum_lt _) (by rw [ih]; exact laneSum_lt _), ih, ih,
      ← laneSum_append, ← List.filter_append, List.range'_append_1, pow_succ, mul_two]

/-- A running add of lanes of L is their sum. -/
theorem foldl_redJoin_getD {step : Nat → Nat → Nat} (hstep : ∀ a b, step a b = (a + b) % 2 ^ 32) {ls : List Nat}
    (hls : ∀ l ∈ ls, e.lset.getLsbD l = true) {t : Option Nat} (ht : t.getD 0 < 2 ^ 32) :
    (ls.foldl (fun t j => redJoin step t (redLeaf e j)) t).getD 0 = (t.getD 0 + laneSum e ls) % 2 ^ 32 := by
  induction ls generalizing t with
  | nil => exact (Nat.mod_eq_of_lt ht).symm
  | cons l ls ih =>
    obtain ⟨hl, hrest⟩ := List.forall_mem_cons.1 hls
    have hleaf : (redLeaf e l).getD 0 = laneSum e [l] := by rw [redLeaf_getD, List.filter_cons_of_pos hl, List.filter_nil]
    have hjoin := redJoin_getD hstep (b := redLeaf e l) ht (by rw [hleaf]; exact laneSum_lt _)
    have hcons : laneSum e (l :: ls) = (laneSum e [l] + laneSum e ls) % 2 ^ 32 := laneSum_append [l] ls
    rw [List.foldl_cons, ih hrest (by rw [hjoin]; exact Nat.mod_lt _ (by decide)), hjoin, hleaf, hcons]
    omega

end

/-! ### The ranks of VTOPK (R320) -/

section
variable {e : CEnv}

/-- The magnitude by which a lane ranks. -/
def topKeyOf (e : CEnv) (l : Nat) : Nat := topKey e.ty ((e.av l).toNat % 2 ^ 32)

/-- Lane `j` goes before lane `l`: by its magnitude, and by its number on a tie. -/
def goesBefore (e : CEnv) (j l : Nat) : Bool :=
  decide (topKeyOf e l < topKeyOf e j) || (decide (topKeyOf e j = topKeyOf e l) && decide (j < l))

theorem goesBefore_iff (j l : Nat) :
    goesBefore e j l = true ↔ topKeyOf e l < topKeyOf e j ∨ topKeyOf e j = topKeyOf e l ∧ j < l := by
  rw [goesBefore, Bool.or_eq_true, Bool.and_eq_true, decide_eq_true_eq, decide_eq_true_eq, decide_eq_true_eq]

theorem goesBefore_irrefl (l : Nat) : ¬ goesBefore e l l = true := by
  rw [goesBefore_iff]
  omega

theorem goesBefore_trans {i j l : Nat} (hij : goesBefore e i j = true) (hjl : goesBefore e j l = true) :
    goesBefore e i l = true := by
  rw [goesBefore_iff] at *
  omega

theorem goesBefore_total {j l : Nat} (h : j ≠ l) : goesBefore e j l = true ∨ goesBefore e l j = true := by
  rw [goesBefore_iff, goesBefore_iff]
  omega

theorem topRank_eq (l : Nat) : topRank e l = ((lanesOf e.lset).filter fun j => goesBefore e j l).length := rfl

theorem topRank_lt_length {l : Nat} (hl : l ∈ lanesOf e.lset) : topRank e l < (lanesOf e.lset).length :=
  List.length_filter_lt_length_iff_exists.2 ⟨l, hl, goesBefore_irrefl l⟩

/-- A lane of L that goes before another has the lower rank: what goes before it goes before the other too, and so does it. -/
theorem topRank_lt_of_goesBefore {j l : Nat} (hj : j ∈ lanesOf e.lset) (h : goesBefore e j l = true) :
    topRank e j < topRank e l := by
  have hsub : ((lanesOf e.lset).filter fun i => goesBefore e i j) =
      ((lanesOf e.lset).filter fun i => goesBefore e i l).filter fun i => goesBefore e i j := by
    rw [List.filter_filter]
    refine List.filter_congr fun i _ => ?_
    rw [Bool.eq_iff_iff, Bool.and_eq_true]
    exact ⟨fun hi => ⟨hi, goesBefore_trans hi h⟩, And.left⟩
  rw [topRank_eq, topRank_eq, hsub]
  exact List.length_filter_lt_length_iff_exists.2 ⟨j, List.mem_filter.2 ⟨hj, h⟩, goesBefore_irrefl j⟩

theorem topRank_injOn : Set.InjOn (topRank e) (lanesOf e.lset).toFinset := by
  intro j hj l hl heq
  by_contra hne
  rcases goesBefore_total hne with h | h
  · exact (topRank_lt_of_goesBefore (List.mem_toFinset.1 hj) h).ne heq
  · exact (topRank_lt_of_goesBefore (List.mem_toFinset.1 hl) h).ne' heq

/-- Every rank below the number of lanes of L is a lane's: the ranks are distinct and as many as the lanes. -/
theorem exists_topRank_eq {r : Nat} (hr : r < (lanesOf e.lset).length) : ∃ j ∈ lanesOf e.lset, topRank e j = r := by
  have hcard : (Finset.range (lanesOf e.lset).length).card ≤ (lanesOf e.lset).toFinset.card := by
    rw [List.toFinset_card_of_nodup (nodup_lanesOf _), Finset.card_range]
  have hmaps : Set.MapsTo (topRank e) (lanesOf e.lset).toFinset (Finset.range (lanesOf e.lset).length) := fun l hl =>
    Finset.mem_coe.2 (Finset.mem_range.2 (topRank_lt_length (List.mem_toFinset.1 hl)))
  obtain ⟨j, hj, hrank⟩ := Finset.surjOn_of_injOn_of_card_le (topRank e) hmaps topRank_injOn hcard
    (Finset.mem_coe.2 (Finset.mem_range.2 hr))
  exact ⟨j, List.mem_toFinset.1 hj, hrank⟩

/-- The lane whose values VTOPK writes to lane `r` of its two registers. -/
def topLane (e : CEnv) (r : Nat) : Option Nat :=
  if r < e.ctl then (lanesOf e.lset).find? fun l => topRank e l = r else none

theorem topLane_of_ranked {r : Nat} (hctl : r < e.ctl) (hlen : r < (lanesOf e.lset).length) :
    ∃ j ∈ lanesOf e.lset, topRank e j = r ∧ topLane e r = some j := by
  obtain ⟨i, hi, hrank⟩ := exists_topRank_eq hlen
  have hsome : ((lanesOf e.lset).find? fun l => topRank e l = r).isSome = true :=
    List.find?_isSome.2 ⟨i, hi, decide_eq_true hrank⟩
  obtain ⟨j, hfind⟩ := Option.isSome_iff_exists.1 hsome
  have hj : topRank e j = r := by simpa using List.find?_some hfind
  exact ⟨j, List.mem_of_find?_eq_some hfind, hj, (if_pos hctl).trans hfind⟩

theorem topLane_of_not_ranked {r : Nat} (h : ¬ (r < e.ctl ∧ r < (lanesOf e.lset).length)) : topLane e r = none := by
  unfold topLane
  split
  · next hctl =>
    refine List.find?_eq_none.2 fun l hl hrank => h ⟨hctl, ?_⟩
    exact of_decide_eq_true hrank ▸ topRank_lt_length hl
  · rfl

/-- The value that VTOPK writes to lane `r` of its first register. -/
def topValue (e : CEnv) (r : Nat) : Word :=
  match topLane e r with
  | some j => e.av j &&& 0xFFFFFFFF
  | none => 0

/-- The lane number that VTOPK writes to lane `r` of its second register. -/
def topNumber (e : CEnv) (r : Nat) : Word :=
  match topLane e r with
  | some j => BitVec.ofNat 64 j
  | none => 0xFF

theorem topValue_topNumber_of_ranked {r : Nat} (h : r < e.ctl ∧ r < (lanesOf e.lset).length) :
    ∃ j ∈ lanesOf e.lset, topRank e j = r ∧ topValue e r = e.av j &&& 0xFFFFFFFF ∧ topNumber e r = BitVec.ofNat 64 j := by
  obtain ⟨j, hj, hrank, hlane⟩ := topLane_of_ranked h.1 h.2
  exact ⟨j, hj, hrank, by rw [topValue, hlane], by rw [topNumber, hlane]⟩

theorem topValue_topNumber_of_not_ranked {r : Nat} (h : ¬ (r < e.ctl ∧ r < (lanesOf e.lset).length)) :
    topValue e r = 0 ∧ topNumber e r = 0xFF := by
  rw [topValue, topNumber, topLane_of_not_ranked h]
  exact ⟨rfl, rfl⟩

end

/-- The quad's lanes, by their numbers. -/
theorem filter_quad (m : BitVec 32) {q : Nat} (hq : q < 8) :
    (lanesOf m).filter (fun l => l / 4 = q) = (List.range' (4 * q) 4).filter fun l => m.getLsbD l := by
  have hrange : ∀ q < 8, allLanes.filter (fun l => l / 4 = q) = List.range' (4 * q) 4 := by decide
  rw [← hrange q hq, lanesOf, List.filter_filter, List.filter_filter]
  exact List.filter_congr fun l _ => Bool.and_comm _ _

/-- Integer adds over lanes of L, by the tree, by quads and by prefixes, are sums modulo 2^32 (R229, R249, R318). -/
theorem laneAdds_eq_laneSum {e : CEnv} (hty : e.ty = 0 ∨ e.ty = 1) (hmod : e.f.mod = 0) :
    (redTree (stepOf e .add) (redLeaf e) 5 0).getD 0 = laneSum e (lanesOf e.lset)
    ∧ (∀ q < 8, (redTree (stepOf e .add) (redLeaf e) 2 (4 * q)).getD 0 =
        laneSum e ((lanesOf e.lset).filter fun l => l / 4 = q))
    ∧ ∀ l < 32, ∀ incl, ((lanesUpTo e.lset incl l).foldl (fun t j => redJoin (stepOf e .add) t (redLeaf e j)) none).getD 0 =
        laneSum e (lanesUpTo e.lset incl l) := by
  have hstep := stepOf_add hty hmod
  refine ⟨?tree, fun q hq => ?quad, fun l _ incl => ?upTo⟩
  case tree =>
    rw [redTree_getD hstep, ← List.range_eq_range']
    rfl
  case quad => rw [redTree_getD hstep, filter_quad _ hq]; rfl
  case upTo =>
    have hmem : ∀ j ∈ lanesUpTo e.lset incl l, e.lset.getLsbD j = true := fun j hj =>
      (mem_lanesOf.1 (List.mem_of_mem_filter hj)).2
    rw [foldl_redJoin_getD hstep hmem (by decide), Option.getD_none, Nat.zero_add, Nat.mod_eq_of_lt (laneSum_lt _)]

/-! ### The meanings of the cross-lane instructions -/

section
variable (f : CFields) (s : State)

theorem exec_vqswp : exec (.vqswp f) s = execVqswp f s := rfl
theorem exec_vshfl : exec (.vshfl f) s = execVshfl f s := rfl
theorem exec_vbcast : exec (.vbcast f) s = execVbcast f s := rfl
theorem exec_vballot : exec (.vballot f) s = execVballot f s := rfl
theorem exec_vprefix : exec (.vprefix f) s = execVprefix f s := rfl
theorem exec_vred : exec (.vred f) s = execVred f s := rfl
theorem exec_vqred : exec (.vqred f) s = execVqred f s := rfl

/-- VTOPK writes both its registers (R320). -/
theorem exec_vtopk : exec (.vtopk f) s = issueC (.vtopk f) s fun e g =>
    delayed e (delayed e g (.v e.f.d.toNat) (onLanes (sourceLanes g) (topValue e))) (.v (e.f.d.toNat + 1))
      (onLanes (sourceLanes g) (topNumber e)) := rfl

theorem exec_kfromv : exec (.kfromv f) s = execKfromv f s := rfl
theorem exec_vfromk : exec (.vfromk f) s = execVfromk f s := rfl

end

/-! ### Sources of the exchanges (R315, R316) -/

theorem quadLane_eq (c l : Nat) : quadLane c l = if c < 4 then l ^^^ c else l / 4 * 4 + (c - 4) := by
  unfold quadLane
  split <;> omega

section
variable {s : State} {gid : Nat} {g : Group} {k : Kernel} {p : CPos} {f : CFields}

/-- VBCAST's b is a k-register or an immediate: lane 0's value is every lane's. -/
theorem vbcast_bv (hi : IssuesC (.vbcast f) s gid g k p) {l : Nat} (hl : l < 32) :
    (cEnv k g (.vbcast f)).bv l = (cEnv k g (.vbcast f)).bv 0 := by
  obtain ⟨_, hb, _⟩ := hi.accepted rfl rfl
  have hkind : f.bk.toNat = 1 ∨ f.bk.toNat = 3 := by simpa using kind_mem_of_operandOk rfl hb
  exact get_readOperand_uniform (o := (f.b.toNat, f.bk.toNat)) hkind hl

/-- VFROMK's a is a k-register, whose low bits it reads. -/
theorem vfromk_av (hi : IssuesC (.vfromk f) s gid g k p) {l : Nat} (hl : l < 32) :
    ((cEnv k g (.vfromk f)).av 0).getLsbD l = (kReg g f.a.toNat).getLsbD l := by
  obtain ⟨ha, _, _⟩ := hi.accepted rfl rfl
  have hkind : f.ak.toNat = 1 := by simpa using kind_mem_of_operandOk rfl ha
  have hread := getLsbD_readOperand_k k g f f.a.toNat 0 (l := 0) (by decide) hl
  rw [← hkind] at hread
  exact hread

end

/-- Settles O39: each lane's source, the ballot, the prefixes and trees with their sums, and the ranks. -/
theorem crossLaneResults : Obligations.CrossLaneResults := by
  unfold Obligations.CrossLaneResults
  refine ⟨fun s gid g k p f => ⟨?vqswp, ?vshfl, ?vbcast, ?vballot, ?vprefix, ?vred, ?vqred, ?vtopk, ?kfromv, ?vfromk⟩,
    fun e hty hmod => laneAdds_eq_laneSum hty hmod⟩ <;> intro hi
  case vqswp => exact laneResult_of hi (exec_vqswp f s) rfl fun l _ => by rw [← quadLane_eq]; rfl
  case vshfl => exact laneResult_of hi (exec_vshfl f s) rfl fun l _ => rfl
  case vbcast => exact laneResult_of hi (exec_vbcast f s) rfl fun l hl => by rw [vbcast_bv hi hl]; rfl
  case vballot =>
    exact eitherResult_of hi (exec_vballot f s) rfl rfl rfl (fun _ _ => getLsbD_ballot _) (getLsbD_ballot _)
  case vprefix =>
    refine ⟨_, exec_eq_cNext hi (exec_vprefix f s) rfl, fun l hl hL => ?_⟩
    rw [find?_prefixes_lanesOf _ _ _ hl hL, prefixOp_mod, ← getLsbD_two_eq]
    rfl
  case vred =>
    have hty : (cEnv k g (.vred f)).ty = 0 ↔ f.ty = 0 := (BitVec.toNat_eq (x := f.ty) (y := 0)).symm
    exact eitherResult_of hi (exec_vred f s) rfl rfl rfl (fun _ _ => rfl) (if_congr hty rfl rfl)
  case vqred => exact laneResult_of hi (exec_vqred f s) rfl fun l _ => by rw [mul_comm]; rfl
  case vtopk =>
    exact ⟨_, _, _, exec_eq_cNext hi (exec_vtopk f s) (delayed_delayed _ _ _ _ _ _), rfl, fun r _ =>
      ⟨topValue_topNumber_of_ranked (e := cEnv k g (.vtopk f)),
        topValue_topNumber_of_not_ranked (e := cEnv k g (.vtopk f))⟩⟩
  case kfromv => exact uniformResult_of hi (exec_kfromv f s) rfl rfl
  case vfromk => exact laneResult_of hi (exec_vfromk f s) rfl fun l hl => by rw [vfromk_av hi hl]

end Sys2Proof.Machine
end

section
/-! PROOFS. The handler's own instructions (R364 to R369): what FEMU, FPARK, FMAP and HCALL make of the group that issues them,
and what posting a page request leaves of the groups and of the dies' request tables (R146, R154). -/

namespace Sys2Proof.Machine

open Sys2Proof

/-! ### Handler state and its registers (R259, R268) -/

theorem grp?_of_issuesA {i : Instr} {s : State} {gid : Nat} {g : Group} {k : Kernel} (hi : IssuesA i s gid g k) :
    grp? s gid = some g := by
  obtain ⟨⟨_, hg, _⟩, _⟩ := hi
  exact hg

/-- An instruction of the handler's major issues in handler state only: elsewhere its fate is PRIV. -/
theorem inHandler_of_issuesA {i : Instr} {s : State} {gid : Nat} {g : Group} {k : Kernel} (hi : IssuesA i s gid g k)
    (hmajor : majorOf i = 0x38) : inHandler g = true := by
  obtain ⟨_, _, _, hfate, _⟩ := hi
  by_contra hout
  rw [fate, if_pos ⟨hmajor, hout⟩] at hfate
  cases hfate

theorem majorOf_hcall (d a b : BitVec 6) : majorOf (.hcall d a b) = 0x38 :=
  congrArg BitVec.toNat (wordAR_fields 0x38 d a b 5).1

theorem majorOf_fmap (d : BitVec 6) : majorOf (.fmap d) = 0x38 := congrArg BitVec.toNat (wordAR_fields 0x38 d 0 0 1).1

section
variable (g : Group) (n : BitVec 6) (v : Word)

@[simp] theorem ws_hcst : (ws g n v).hcst = g.hcst := by
  unfold ws
  split_ifs <;> rfl

@[simp] theorem ws_st : (ws g n v).st = g.st := by
  unfold ws
  split_ifs <;> rfl

@[simp] theorem inHandler_ws : inHandler (ws g n v) = inHandler g := by rw [inHandler, ws_st, inHandler]

@[simp] theorem rs_advance : rs (advance g) n = rs g n := rfl

@[simp] theorem advance_hcst : (advance g).hcst = g.hcst := rfl

/-- In handler state every scalar register holds what is written to it, h0 included. -/
theorem rs_ws_same_of_inHandler (h : inHandler g = true) : rs (ws g n v) n = v := by
  rw [rs, inHandler_ws]
  by_cases hn : n.toNat < 16
  · rw [if_pos ⟨h, hn⟩, ws, if_pos ⟨h, hn⟩]
    exact SMap.get_set_same ..
  · have h0 : n.toNat ≠ 0 := by omega
    rw [if_neg (hn ·.2), sReg, if_neg h0, ws, if_neg (hn ·.2), if_neg h0]
    exact SMap.get_set_same ..

end

/-! ### A write to memory leaves everything else (R160) -/

section
variable (s : State)

theorem setCells_eq_with (pa : Nat) (bs : List Byte) : ∃ m, setCells s pa bs = { s with mem := m } := by
  induction bs generalizing s pa with
  | nil => exact ⟨_, rfl⟩
  | cons b bs ih => exact ih (setCell s pa b) (pa + 1)

theorem claimLine_eq_with (slot pa : Nat) : ∃ m keys, claimLine s slot pa = { s with mem := m, lineKey := keys } := by
  unfold claimLine
  split
  · obtain ⟨m, e⟩ := setCells_eq_with s (128 * (pa / 128)) (natToBytes 128 (lineImage s slot (pa / 128)).toNat)
    exact ⟨m, _, congrArg (fun x : State => { x with lineKey := SMap.set x.lineKey 0 (pa / 128) slot }) e⟩
  · exact ⟨_, _, rfl⟩

theorem memWrite_eq_with (slot pa : Nat) (bs : List Byte) :
    ∃ m keys, memWrite s slot pa bs = { s with mem := m, lineKey := keys } := by
  induction bs generalizing s pa with
  | nil => exact ⟨_, _, rfl⟩
  | cons b bs ih =>
    obtain ⟨m, keys, e⟩ := claimLine_eq_with s slot pa
    obtain ⟨m', keys', e'⟩ := ih (setCell (claimLine s slot pa) pa b) (pa + 1)
    exact ⟨m', keys', by rw [memWrite, e', e]; rfl⟩

end

/-! ### What a write leaves of the groups and of the page-request tables -/

/-- Every group of `s` is in `t` as it was, except that its monitor may have been hit, and every die's page-request table is in
`t` as it was. -/
structure SamePosts (s t : State) : Prop where
  groups : ∀ {gid g}, grp? s gid = some g → ∃ m, grp? t gid = some { g with mon := m }
  preqs  : ∀ die, (dieSt t die).preqs = (dieSt s die).preqs

theorem SamePosts.of_eq {s t : State} (hgroups : t.groups = s.groups) (hdies : t.dies = s.dies) : SamePosts s t :=
  ⟨fun {_ g} h => ⟨g.mon, by rw [grp?, hgroups]; exact h⟩, fun die => by rw [dieSt, dieSt, hdies]⟩

theorem SamePosts.trans {r s t : State} (h : SamePosts r s) (h' : SamePosts s t) : SamePosts r t := by
  refine ⟨fun hg => ?_, fun die => (h'.preqs die).trans (h.preqs die)⟩
  obtain ⟨_, hm⟩ := h.groups hg
  obtain ⟨m, hm'⟩ := h'.groups hm
  exact ⟨m, hm'⟩

section
variable (s : State)

theorem samePosts_memWrite (slot pa : Nat) (bs : List Byte) : SamePosts s (memWrite s slot pa bs) := by
  obtain ⟨m, keys, e⟩ := memWrite_eq_with s slot pa bs
  rw [e]
  exact .of_eq rfl rfl

theorem samePosts_hitMonitors (pa n : Nat) : SamePosts s (hitMonitors s pa n) := by
  refine ⟨fun {gid g} hg => ?_, fun _ => rfl⟩
  simp only [grp?, hitMonitors] at hg ⊢
  rw [SMap.find?_map, hg, Option.map_some]
  · -- the monitor is hit, or the entry is left alone
    split
    · split <;> exact ⟨_, rfl⟩
    · exact ⟨_, rfl⟩
  · intro e
    split
    · split <;> rfl
    · rfl

theorem samePosts_dropCopies (pa n : Nat) : SamePosts s (dropCopies s pa n) := by
  refine ⟨fun {_ g} h => ⟨g.mon, h⟩, fun die => ?_⟩
  simp only [dieSt, SMap.get, dropCopies]
  rw [SMap.find?_map]
  · cases SMap.find? s.dies die <;> rfl
  · exact fun _ => rfl

theorem samePosts_homeWrite (slot pa : Nat) (bs : List Byte) : SamePosts s (homeWrite s slot pa bs) := by
  unfold homeWrite
  split
  · exact .of_eq rfl rfl
  · exact ((samePosts_memWrite s slot pa bs).trans (samePosts_hitMonitors ..)).trans (samePosts_dropCopies ..)

theorem samePosts_ctxWrite (cn pa : Nat) (bs : List Byte) : SamePosts s (ctxWrite s cn pa bs) := by
  unfold ctxWrite
  split
  · exact samePosts_homeWrite s _ pa bs
  · exact .of_eq rfl rfl

theorem samePosts_forwardRecord (n : Nat) (r : PageReq) : SamePosts s (forwardRecord s n r) := by
  simp only [forwardRecord]
  split
  · exact .of_eq rfl rfl
  · exact (samePosts_ctxWrite s _ _ _).trans (.of_eq rfl rfl)

end

/-! ### Posting a request (R153, R154, R369) -/

theorem grp?_openPreq {s : State} {gid : Nat} {g : Group} (h : grp? s gid = some g) (die : Nat) (r : PageReq) :
    ∃ m, grp? (openPreq s die r) gid = some { g with mon := m } :=
  (samePosts_forwardRecord _ s.serial r).groups h

theorem find?_preqs_openPreq (s : State) (die : Nat) (r : PageReq) :
    SMap.find? (dieSt (openPreq s die r) die).preqs s.serial = some r := by
  simp only [openPreq, newSerial]
  rw [(samePosts_forwardRecord ..).preqs, dieSt_modDie_same]
  exact SMap.find?_put_same ..

/-- An instruction that posts `r` under a fresh number and then answers 0: `f` is what it changes of the group besides its
destination. -/
theorem exec_posts {i : Instr} {s : State} {gid : Nat} {g : Group} {k : Kernel} {d : BitVec 6} {die n : Nat} {r : PageReq}
    {f : Group → Group} (hi : IssuesA i s gid g k) (hmajor : majorOf i = 0x38)
    (hexec : exec i s = .next (modGrp (openPreq s die r) gid fun x => advance (ws (f x) d 0)))
    (hf : ∀ m, (f { g with mon := m }).pc = g.pc ∧ (f { g with mon := m }).st = g.st ∧ (f { g with mon := m }).hcst = n) :
    ∃ t g', exec i s = .next t ∧ grp? t gid = some g' ∧ g'.pc = g.pc + 4 ∧ rs g' d = 0 ∧ g'.hcst = n
      ∧ SMap.find? (dieSt t die).preqs s.serial = some r := by
  obtain ⟨m, hm⟩ := grp?_openPreq (grp?_of_issuesA hi) die r
  obtain ⟨hpc, hst, hcst⟩ := hf m
  have hin : inHandler (f { g with mon := m }) = true := by
    rw [inHandler, hst]
    exact inHandler_of_issuesA hi hmajor
  refine ⟨_, _, hexec, by rw [grp?_modGrp_same, hm]; rfl, ?_, ?_, ?_, find?_preqs_openPreq s die r⟩
  · rw [advance_pc, ws_pc, hpc]
  · rw [rs_advance, rs_ws_same_of_inHandler _ _ _ hin]
  · rw [advance_hcst, ws_hcst, hcst]

section
variable {s : State} {gid : Nat} {g : Group} {k : Kernel}

theorem preqFull_of_lt {x : Die} (h : x.preqs.length < 1024) : preqFull x = false := decide_eq_false (by omega)

theorem preqFull_of_le {x : Die} (h : 1024 ≤ x.preqs.length) : preqFull x = true := decide_eq_true h

/-- HCALL with room in the table. -/
theorem exec_hcall_of_room {d a b : BitVec 6} (hi : IssuesA (.hcall d a b) s gid g k)
    (hroom : (dieSt s (coreDie g.core)).preqs.length < 1024) : exec (.hcall d a b) s =
      .next (modGrp (openPreq s (coreDie g.core) { ctx := g.ctx, page := rs g b, kind := 8, group := gid, arg := rs g a }) gid
        fun x => advance (ws { x with hcst := 2, hcall := some s.serial } d 0)) := by
  rw [show exec (.hcall d a b) s = execHcall d a b s from rfl, execHcall, issueA_of hi]
  simp only [preqFull_of_lt hroom, Bool.false_eq_true, if_false]

/-- HCALL with a full table. -/
theorem exec_hcall_of_full {d a b : BitVec 6} (hi : IssuesA (.hcall d a b) s gid g k)
    (hfull : 1024 ≤ (dieSt s (coreDie g.core)).preqs.length) : exec (.hcall d a b) s =
      .next (setGrp s gid (advance (ws { g with hcst := 3, hcall := none } d 2))) := by
  rw [show exec (.hcall d a b) s = execHcall d a b s from rfl, execHcall, issueA_of hi]
  simp only [preqFull_of_le hfull, if_true]
  rw [modGrp_eq_setGrp (grp?_of_issuesA hi)]

/-- FMAP of a PAGE fault whose page no request waits for, with room in the table. -/
theorem exec_fmap_of_room {d : BitVec 6} (hi : IssuesA (.fmap d) s gid g k) (hcode : faultCode g = 0x02)
    (hpend : pendingMap s g.ctx (faultPage g) = none) (hroom : (dieSt s (coreDie g.core)).preqs.length < 1024) :
    exec (.fmap d) s = .next (modGrp (openPreq s (coreDie g.core)
        { ctx := g.ctx, page := BitVec.ofNat 64 (4096 * faultPage g), kind := g.fkind, group := gid }) gid
      fun x => advance (ws { x with preq := some s.serial, fmapFull := false } d 0)) := by
  rw [show exec (.fmap d) s = execFmap d s from rfl, execFmap, issueA_of hi]
  simp only [hcode, ne_eq, not_true_eq_false, if_false, hpend, preqFull_of_lt hroom, Bool.false_eq_true]
  rfl

/-! ### FEMU and FPARK (R367, R368) -/

/-- The key of a lane of an entry of the held slot is the low seven bits of the position. -/
theorem emuKey_eq_mod (p : Nat) : 32 * (p / 32 % 4) + p % 32 = p % 128 := by omega

theorem emulate_of_held {h : Held} {v pos : Word} (hheld : g.held = some h) (hentry : pos.toNat / 32 % 4 < h.entries)
    (hlane : (faultLanes g).getLsbD (pos.toNat % 32) = true) :
    emulate g v pos = { g with held := some { h with emu := SMap.put h.emu (pos.toNat % 128) (v.truncate 32) } } := by
  simp only [emulate, hheld]
  rw [if_pos ⟨hentry, hlane⟩, emuKey_eq_mod]

/-- The group as FPARK parks it: at the instruction itself, to wake when the condition of the code holds. -/
def parkedAt (s : State) (g : Group) (code arg : Word) : Group :=
  { g with st := .parked, out := true, obuf := [], wake := some (.fpark code arg), woken := false, blockedAt := s.now }

theorem exec_fpark {a b : BitVec 6} (hi : IssuesA (.fpark a b) s gid g k) : exec (.fpark a b) s =
    .next (setGrp s gid (if g.woken || parkMet s g (rs g a) (rs g b) then advance g else parkedAt s g (rs g a) (rs g b))) := by
  rw [show exec (.fpark a b) s = execFpark a b s from rfl, execFpark, issueA_of hi]
  split <;> rfl

end

/-- Settles O30: the register instructions are their own functions of the group, FPARK goes by its condition, and HCALL and FMAP
post their request under a fresh number and answer. -/
theorem handlerInstructions : Obligations.HandlerInstructions := by
  unfold Obligations.HandlerInstructions
  intro s gid g k d a b
  refine ⟨fun hi => ?rdfi, fun h hi hheld hentry hlane => ?femu, fun h hi hheld => ?fskip,
    fun hi => ⟨fun hgo => ?fparkGoes, fun hwoken hmet => ?fparkParks⟩,
    fun hi => ⟨fun hroom => ?hcallPosts, fun hfull => ?hcallFull⟩,
    fun hi hcode hpend hroom => ?fmap⟩
  case rdfi => exact exec_eq_wrote hi rfl rfl
  case femu =>
    exact ⟨_, exec_eq_setGrp hi rfl (congrArg advance (emulate_of_held hheld hentry hlane)), fun j => SMap.find?_put ..⟩
  case fskip => exact exec_eq_setGrp hi rfl (by rw [hheld]; rfl)
  case fparkGoes => rw [exec_fpark hi, if_pos (Bool.or_eq_true_iff.2 hgo)]
  case fparkParks =>
    refine ⟨parkedAt s g (rs g a) (rs g b), ?_, rfl, rfl, rfl⟩
    rw [exec_fpark hi, hwoken, hmet]
    rfl
  case hcallPosts => exact exec_posts hi (majorOf_hcall d a b) (exec_hcall_of_room hi hroom) fun _ => ⟨rfl, rfl, rfl⟩
  case hcallFull =>
    have hin : inHandler g = true := inHandler_of_issuesA hi (majorOf_hcall d a b)
    refine ⟨_, _, exec_hcall_of_full hi hfull, grp?_setGrp_same .., ?_, ?_⟩
    · rw [rs_advance]
      exact rs_ws_same_of_inHandler _ d 2 hin
    · rw [advance_hcst, ws_hcst]
  case fmap => exact exec_posts hi (majorOf_fmap d) (exec_fmap_of_room hi hcode hpend hroom) fun _ => ⟨rfl, rfl, rfl⟩

end Sys2Proof.Machine
end
